-- ==== Sys2Proof/Word.lean ====
section
/-! DEFINITION. The word types of the XZ9 (00_scope R2; 03_core R58). -/

namespace Sys2Proof

/-- A 64-bit general register, address or instruction word. -/
abbrev Word := BitVec 64

/-- One byte of memory. -/
abbrev Byte := BitVec 8

/-- A 512-bit vector register, latch or vector token value. -/
abbrev Vec := BitVec 512

/-- A 32-bit word: an element of a tile, an accumulator or a region bank. -/
abbrev W32 := BitVec 32

end Sys2Proof
end

