-- ==== Sys2Proof/Machine/Map.lean ====
section
/-! DEFINITION. Finite maps from numbers, held as association lists in rising key order: the plain
data that sparse parts of the state are made of. An absent key stands for the reset value of the part
it would name. -/

namespace Sys2Proof.Machine

/-- A map from numbers to values. -/
abbrev Map (α : Type) := List (Nat × α)

/-- The value at a key, if one is listed. -/
def Map.find {α : Type} (m : Map α) (k : Nat) : Option α :=
  match m with
  | [] => none
  | (k', v) :: rest => if k' = k then some v else Map.find rest k

/-- The value at a key, or the value an absent key stands for. -/
def Map.get {α : Type} (m : Map α) (d : α) (k : Nat) : α := (Map.find m k).getD d

/-- Write the value at a key. -/
def Map.put {α : Type} (m : Map α) (k : Nat) (v : α) : Map α :=
  match m with
  | [] => [(k, v)]
  | (k', v') :: rest =>
    if k' = k then (k, v) :: rest
    else if k < k' then (k, v) :: (k', v') :: rest
    else (k', v') :: Map.put rest k v

/-- Drop a key. -/
def Map.drop {α : Type} (m : Map α) (k : Nat) : Map α := m.filter fun p => p.1 ≠ k

/-- Drop every key that satisfies a test. -/
def Map.dropIf {α : Type} (m : Map α) (f : Nat → Bool) : Map α := m.filter fun p => !f p.1

/-- The keys are strictly rising, so that equal maps are equal lists. -/
def Map.sorted {α : Type} : Map α → Bool
  | [] => true
  | [_] => true
  | (a, _) :: (b, v) :: rest => a < b && Map.sorted ((b, v) :: rest)

/-- Apply a function to the value at a key, an absent key standing for `d`. -/
def Map.upd {α : Type} (m : Map α) (d : α) (k : Nat) (f : α → α) : Map α :=
  Map.put m k (f (Map.get m d k))

/-- A map whose keys are names of parts: a list in the order in which the parts were first touched. -/
abbrev Table (κ α : Type) := List (κ × α)

/-- The entry of a part, if one is listed. -/
def Table.find {κ α : Type} [DecidableEq κ] (m : Table κ α) (k : κ) : Option α :=
  match m with
  | [] => none
  | (k', v) :: rest => if k' = k then some v else Table.find rest k

/-- The entry of a part, or what an unlisted part stands for. -/
def Table.get {κ α : Type} [DecidableEq κ] (m : Table κ α) (d : α) (k : κ) : α :=
  (Table.find m k).getD d

/-- Write the entry of a part. -/
def Table.put {κ α : Type} [DecidableEq κ] (m : Table κ α) (k : κ) (v : α) : Table κ α :=
  match m with
  | [] => [(k, v)]
  | (k', v') :: rest => if k' = k then (k, v) :: rest else (k', v') :: Table.put rest k v

end Sys2Proof.Machine
end

