-- ==== Sys2Proof/SyntaxOperands.lean ====
section
/-! DEFINITION. The operand forms of the program instructions (04_encoding R74 to R95): register
numbers, sources, guards, qualifiers and the field groups that several instructions share. -/

namespace Sys2Proof

/-- A general register number, g0 to g31 (R58). -/
abbrev GReg := BitVec 5
/-- A predicate register number, k0 to k7 (R58). -/
abbrev KReg := BitVec 3
/-- A vector register number, v0 to v31 (R58). -/
abbrev VReg := BitVec 5
/-- A latch number, l0 to l3 (R59). -/
abbrev LReg := BitVec 2
/-- A tile register number, m0 to m7 (R60). -/
abbrev MReg := BitVec 3

/-- The guard of a Format A, B, C or M instruction (R75): predicate register and its negation. -/
structure Guard where
  k  : KReg
  kn : Bool
  deriving DecidableEq, Repr

/-- A source field of Format A, C or M (R77): a general register or a latch. -/
inductive Src where
  | g (r : GReg)
  | l (r : LReg)
  deriving DecidableEq, Repr

/-- The second source of Format A (R77): a register or latch, or the 29-bit immediate. -/
inductive Src2 where
  | reg (s : Src)
  | imm (v : BitVec 29)
  deriving DecidableEq, Repr

/-- The fields of a two-source scalar instruction (R294). -/
structure AluArgs where
  guard : Guard
  /-- the 32-bit form (func[5]) -/
  w32   : Bool
  /-- destination written `_`: the result goes only to l0 (R59) -/
  w     : Bool
  d     : GReg
  a     : Src
  b     : Src2
  deriving DecidableEq, Repr

/-- The fields of a one-source scalar instruction (R294: CLZ, CTZ, POPC). -/
structure UnArgs where
  guard : Guard
  w32   : Bool
  w     : Bool
  d     : GReg
  a     : Src
  deriving DecidableEq, Repr

/-- The fields of EXT, EXTU and INS (R331): position and width minus one. -/
structure FieldArgs where
  guard : Guard
  w32   : Bool
  w     : Bool
  d     : GReg
  a     : Src
  pos   : BitVec 6
  wm1   : BitVec 6
  deriving DecidableEq, Repr

/-- The fields of MOV (R358). -/
structure MovArgs where
  guard : Guard
  w32   : Bool
  w     : Bool
  d     : GReg
  b     : Src2
  deriving DecidableEq, Repr

/-- The fields of MOVHI (R359). -/
structure MovHiArgs where
  guard : Guard
  w     : Bool
  d     : GReg
  a     : Src
  imm   : BitVec 29
  deriving DecidableEq, Repr

/-- The condition of CMP (R314). -/
inductive Cond where
  | eq | ne | lt | ge | ltu | geu | tst | ntst
  deriving DecidableEq, Repr

/-- The fields of CMP (R314). -/
structure CmpArgs where
  guard : Guard
  w32   : Bool
  cond  : Cond
  d     : KReg
  a     : Src
  b     : Src2
  deriving DecidableEq, Repr

/-- The fields of PAND, POR and PXOR (R365). -/
structure PredArgs where
  guard : Guard
  d     : KReg
  a     : KReg
  b     : KReg
  deriving DecidableEq, Repr

/-- The selector of LPGET and LPRST (R347). -/
inductive LpSel where
  | cnt | start | fin
  deriving DecidableEq, Repr

/-- The fields of LPGET and LPRST (R347); `z` true names z1. -/
structure LpArgs where
  guard : Guard
  z     : Bool
  a     : GReg
  sel   : LpSel
  deriving DecidableEq, Repr

/-- The size of a load (R89). -/
inductive LdSize where
  | b | h | w | d | bu | hu | wu
  deriving DecidableEq, Repr

/-- The size of a store (R89). -/
inductive StSize where
  | b | h | w | d
  deriving DecidableEq, Repr

/-- A scratch address (R78, R135): handle source, row source (none reads row 0), byte. -/
structure ScrAddr where
  a   : Src
  b   : Option Src
  imm : BitVec 24
  deriving DecidableEq, Repr

/-- A global address (R78, R344): base source, index source (none reads 0), displacement. -/
structure GloAddr where
  a   : Src
  b   : Option Src
  imm : BitVec 24
  deriving DecidableEq, Repr

/-- The full-empty qualifier of a scratch load (R340). -/
inductive LdWait where
  | plain | fw | fc
  deriving DecidableEq, Repr

/-- The full-empty qualifier of ST (R380). -/
inductive StWait where
  | plain | ew | ns
  deriving DecidableEq, Repr

/-- The operation of an atomic (R296). -/
inductive AmoOp where
  | add | min | max | minu | maxu | and | or | xor | swp | cas
  deriving DecidableEq, Repr

/-- The scope of FENCE (R196). -/
inductive Scope where
  | ctx | core | die | pkg | sys
  deriving DecidableEq, Repr

/-- The kind of FENCE (R196). -/
inductive FenceKind where
  | full | acq | rel
  deriving DecidableEq, Repr

/-- The two engines (R85, R167). -/
inductive Engine where
  | me | ce
  deriving DecidableEq, Repr

/-- The levels of work an object id can name (R35, R305). -/
inductive Level where
  | launch | graph | phase | job
  deriving DecidableEq, Repr

/-- The control registers of R71. -/
inductive Creg where
  | cid | cyc | mode | fpmode | tshape | tsaveh | trapv
  | frec (n : BitVec 2) | evcnt (n : BitVec 3) | evth (n : BitVec 3)
  | evwin | evact | ftbind | world
  deriving DecidableEq, Repr

/-- The element types of Format V (R81). -/
inductive ETy where
  | s8 | u8 | s16 | u16 | s32 | bf16 | f16 | f32
  deriving DecidableEq, Repr

/-- The direction of a tile slice (R83): row, column, diagonal, anti-diagonal. -/
inductive Dir where
  | h | v | d | x
  deriving DecidableEq, Repr

/-- A source operand of Format V (R82). -/
inductive VSrc where
  | v (r : VReg)
  | slice (dir : Dir) (m : MReg) (i : BitVec 4)
  | rslice (dir : Dir) (m : MReg) (g : BitVec 4)
  | latch (l : LReg)
  | bcast (g : GReg)
  | zero
  deriving DecidableEq, Repr

/-- A destination operand of Format V (R82). -/
inductive VDst where
  | v (r : VReg)
  | slice (dir : Dir) (m : MReg) (i : BitVec 4)
  | rslice (dir : Dir) (m : MReg) (g : BitVec 4)
  | g (r : GReg)
  deriving DecidableEq, Repr

/-- The fields most Format V instructions share (R81, R84): lane mask, W, type, destination. -/
structure VHead where
  k : KReg
  w : Bool
  t : ETy
  d : VDst
  deriving DecidableEq, Repr

/-- The condition of VCMP (R397). -/
inductive VCond where
  | eq | ne | lt | le | gt | ge | tst | un
  deriving DecidableEq, Repr

/-- The operation of VRED and VSCAN (R406). -/
inductive RedOp where
  | add | min | max | and | or | xor
  deriving DecidableEq, Repr

/-- The direction of VALIGN (R395). -/
inductive AlignDir where
  | toi | tof | tof64
  deriving DecidableEq, Repr

/-- The code type of VQNT and VDQNT (R405). -/
inductive CodeTy where
  | s8 | u8 | u4
  deriving DecidableEq, Repr

/-- The source of VSWR (R80, R407). -/
inductive VPortSrc where
  | v (r : VReg)
  | l (r : LReg)
  deriving DecidableEq, Repr

/-- The codec of a copy or the encoder of a CPYS (R95). -/
inductive Codec where
  | none | e | z
  deriving DecidableEq, Repr

/-- The element size of CGATH (R95): 4, 8, 16 or 64 bytes. -/
inductive GathSize where
  | b4 | b8 | b16 | b64
  deriving DecidableEq, Repr

/-- A core of a compute die, by its logical number (R11, R55). -/
structure CoreId where
  die  : Nat
  core : Nat
  deriving DecidableEq, Repr

/-- A context of a core (R55). -/
structure CtxId where
  die  : Nat
  core : Nat
  ctx  : Nat
  deriving DecidableEq, Repr

/-- What a bridge receives (R163, R165): the next flit of the far bridge, whole or in error, or a flit that another
package sends: its sequence number, and the tag and value of each entry. -/
inductive FlitIn where
  | wire (good : Bool)
  | outside (seq : Nat) (entries : List (Word × Vec))
  deriving DecidableEq, Repr

/-- The slots that an edge reserves at an output of a router (R51, R428), with the input its tokens come by. -/
structure Hop where
  die    : Nat
  router : Nat
  out    : Nat
  inp    : Nat
  circ   : Nat
  slots  : List Nat
  deriving DecidableEq, Repr

/-- The crossing of a bridge by an edge (R162, R164): the sending bridge with the stream number, circuit and allowance
there; at the far side the circuit on that die, or the bridge and stream number it goes on to. A crossing at a scale-up
port of the I/O die (`die` 4, `node` below 32) that goes on to a bridge is one by which a stream of another package comes
in; one that goes on to nothing is the way out (R165). -/
structure Crossing where
  die   : Nat
  node  : Nat
  sid   : Nat
  circ  : Nat
  allow : Nat
  far   : Nat
  fwd   : Option (Nat × Nat)
  deriving DecidableEq, Repr

/-- What a placement says of an edge: its links, its crossings, and whether it is the feedback edge of a cycle. -/
structure EdgeRoute where
  hops      : List Hop
  crossings : List Crossing
  feedback  : Bool
  deriving DecidableEq, Repr

/-- A stream to or from another package (R165), on a port that no edge of the graph section names: the unit and its
logical port, whether it is an output, its depth and slots, and its way. -/
structure FarStream where
  unit  : Nat
  port  : Nat
  out   : Bool
  depth : Nat
  slots : Nat
  route : EdgeRoute
  deriving DecidableEq, Repr

/-- A placement (R51): a die and slot for each node, a route for each edge, the tiles of MTILE nodes (R206), and the
streams that leave the package (R165). -/
structure Placement where
  units  : List (Nat × Nat)
  routes : List EdgeRoute
  /-- the memory tiles of each MTILE node, by node -/
  tiles  : List (Nat × List Nat)
  far    : List FarStream
  deriving DecidableEq, Repr

/-- Where a submission entry comes from (R235, R236): a host queue, the SUBMIT queue of a die; or a launch that is
mapped again (R53). -/
inductive WorkSrc where
  | queue (n : Nat)
  | submit (die : Nat)
  | remap (world launch : Nat)
  deriving DecidableEq, Repr

/-- A capsule that arrives (R222): one in the package's network, or one that another package sends, with its place, and the
launch of this package that it counts on, 0 when there is none (R50). -/
inductive CapIn where
  | flight (n : Nat)
  | outside (place : BitVec 17) (hdr : BitVec 512) (data : List Byte) (launch : Nat)
  deriving DecidableEq, Repr

/-- What a compute die answers to the nonce of the security core (R286): its public identity key (modulus and exponent), the
status of its self-test, 0 when it has passed, and the signature over the nonce and the status. -/
structure DieReport where
  modulus  : Nat
  exponent : Nat
  status   : BitVec 8
  sig      : List (BitVec 8)
  deriving DecidableEq, Repr

/-- How bring-up goes (R26, R27): whether it follows power-on or a package reset, the cause of a failure of the ROM check, the
links or the self-check (1, 6, 7; 0 when there is none), what the compute dies answer, and the HBM channels that do not
train. -/
structure BringUp where
  cold     : Bool
  cause    : Nat
  dies     : List DieReport
  channels : List Nat
  deriving DecidableEq, Repr

/-- What a package sends with its digest (R289, R290): its certificate and its signature over the digest. -/
structure DigestProof where
  cert : List (BitVec 8)
  sig  : List (BitVec 8)
  deriving DecidableEq, Repr

/-- What the host asks of memory through BAR2 (R24, R280). -/
inductive HostReq where
  | read (n : Nat)
  | write (data : List (BitVec 8))
  deriving DecidableEq, Repr

/-- A register that is written (R5): at a local address of a die's management core, one of its CSRs, or in BAR0 of the
physical function or of a virtual function, four or eight bytes wide. -/
inductive RegAt where
  | loc (die addr : Nat)
  | csr (die num : Nat)
  | bar0 (off : Nat) (wide : Bool)
  | vf (fn off : Nat) (wide : Bool)
  deriving DecidableEq, Repr

/-- What the debug port reads (R284): bytes of memory, or of a core's Pantry. -/
inductive DebugAt where
  | mem (addr n : Nat)
  | pantry (die core addr n : Nat)
  deriving DecidableEq, Repr

/-- The core of a context. -/
def CtxId.coreId (c : CtxId) : CoreId := { die := c.die, core := c.core }

/-- A context of a core. -/
def CoreId.ctx (c : CoreId) (n : Nat) : CtxId := { die := c.die, core := c.core, ctx := n }

/-- The slot of a context on its die (R237). -/
def CtxId.slot (c : CtxId) : Nat := c.core * 4 + c.ctx

end Sys2Proof
end

