-- ==== Sys2Proof/Syntax.lean ====
section
/-! DEFINITION. The instructions of the XZ9: one constructor for each row of the table of operations
and events, in the table's order. The first group are the program instructions (04_encoding R87 to
R90), the second the engine words (R91, R94, R95), the third the steps of the package that no word
encodes (95_what_each_step_holds); an operand of the third group names the part the step acts on. -/

namespace Sys2Proof

/-- One step of the part. -/
inductive Instr where
  -- scalar ALU, major 0x01 (R294)
  | add (x : AluArgs)
  | sub (x : AluArgs)
  | and (x : AluArgs)
  | andn (x : AluArgs)
  | or (x : AluArgs)
  | xor (x : AluArgs)
  | shl (x : AluArgs)
  | shr (x : AluArgs)
  | sar (x : AluArgs)
  | min (x : AluArgs)
  | max (x : AluArgs)
  | minu (x : AluArgs)
  | maxu (x : AluArgs)
  | mul (x : AluArgs)
  | mulh (x : AluArgs)
  | mulhu (x : AluArgs)
  | div (x : AluArgs)
  | divu (x : AluArgs)
  | rem (x : AluArgs)
  | remu (x : AluArgs)
  | clz (x : UnArgs)
  | ctz (x : UnArgs)
  | popc (x : UnArgs)
  | ext (x : FieldArgs)
  | extu (x : FieldArgs)
  | ins (x : FieldArgs)
  /-- SEL: the guard fields are its selector and it always executes (R375). -/
  | sel (x : AluArgs)
  | mov (x : MovArgs)
  | movhi (x : MovHiArgs)
  -- CMP and the predicate instructions (R314, R365)
  | cmp (x : CmpArgs)
  | pand (x : PredArgs)
  | por (x : PredArgs)
  | pxor (x : PredArgs)
  | pnot (guard : Guard) (d a : KReg)
  | pmovGToK (guard : Guard) (d : KReg) (a : Src)
  | pmovKToG (guard : Guard) (w : Bool) (d : GReg) (a : KReg)
  -- branches and loops (R303, R347)
  | br (guard : Guard) (disp : BitVec 36)
  | brx (guard : Guard) (a : GReg)
  | call (guard : Guard) (disp : BitVec 36)
  | callx (guard : Guard) (a : GReg)
  | ret (guard : Guard) (a : GReg)
  | lpsetReg (guard : Guard) (z : Bool) (a : GReg) (disp : BitVec 36)
  | lpsetImm (guard : Guard) (z : Bool) (count : BitVec 5) (disp : BitVec 36)
  | lpclr (guard : Guard) (z : Bool)
  | lpget (x : LpArgs)
  | lprst (x : LpArgs)
  -- scratch and global memory (R340, R380, R403, R389, R343, R382, R404, R368)
  | ld (guard : Guard) (size : LdSize) (q : LdWait) (w : Bool) (d : GReg) (addr : ScrAddr)
  | st (guard : Guard) (size : StSize) (q : StWait) (d : GReg) (addr : ScrAddr)
  | vld (guard : Guard) (q : LdWait) (w : Bool) (d : VReg) (addr : ScrAddr)
  | vst (guard : Guard) (ns : Bool) (d : VReg) (addr : ScrAddr)
  | tld (guard : Guard) (m : MReg) (addr : ScrAddr)
  | tst (guard : Guard) (ns : Bool) (m : MReg) (addr : ScrAddr)
  | ldg (guard : Guard) (size : LdSize) (c nt w : Bool) (d : GReg) (addr : GloAddr)
  | stg (guard : Guard) (size : StSize) (c nt : Bool) (d : GReg) (addr : GloAddr)
  | vldg (guard : Guard) (c nt w : Bool) (d : VReg) (addr : GloAddr)
  | vstg (guard : Guard) (c nt : Bool) (d : VReg) (addr : GloAddr)
  | pref (guard : Guard) (nt : Bool) (addr : GloAddr)
  -- atomics (R296, R299)
  | amo (guard : Guard) (op : AmoOp) (w32 c nt w : Bool) (d : GReg) (a : Src) (b : Option Src) (imm : BitVec 24)
  | amoh (guard : Guard) (op : AmoOp) (w32 w : Bool) (d : GReg) (addr : ScrAddr)
  -- handles and full-empty (R134, R333)
  | halloc (guard : Guard) (w : Bool) (d : GReg) (a : Src) (level rl : Bool)
  | hfree (guard : Guard) (a : Src)
  | hinfo (guard : Guard) (w : Bool) (d : GReg) (a : Src)
  | feset (guard : Guard) (d : GReg) (addr : ScrAddr)
  | feclr (guard : Guard) (d : GReg) (addr : ScrAddr)
  | fetst (guard : Guard) (w : Bool) (d : GReg) (addr : ScrAddr)
  -- fences (R196)
  | fence (guard : Guard) (scope : Scope) (kind : FenceKind)
  | qfence (guard : Guard) (mask : BitVec 4)
  | ifence (guard : Guard)
  -- streams (R376, R407)
  | srd (guard : Guard) (w : Bool) (d : GReg) (port : BitVec 4) (e : KReg)
  | speek (guard : Guard) (w : Bool) (d : GReg) (port : BitVec 4) (e : KReg) (kind nb : Bool)
  | swr (guard : Guard) (port : BitVec 4) (a : Src)
  | seos (guard : Guard) (port : BitVec 4)
  | ssteer (guard : Guard) (port : BitVec 4) (a : Src)
  | vsrd (guard : Guard) (w : Bool) (d : VReg) (port : BitVec 4) (e : KReg)
  | vswr (guard : Guard) (port : BitVec 4) (a : VPortSrc)
  -- capsules (R224)
  | caprecv (guard : Guard) (w : Bool) (d : GReg)
  | caphdr (guard : Guard) (w : Bool) (d : GReg) (word : BitVec 4)
  | capnext (guard : Guard) (w : Bool) (d : GReg) (k : KReg)
  | capins (guard : Guard) (a : Src) (i : BitVec 4)
  | capdel (guard : Guard) (i n : BitVec 4)
  | capsend (guard : Guard)
  | capnew (guard : Guard) (a : Src)
  | capend (guard : Guard)
  | capflt (guard : Guard) (a : Src)
  -- engine status and the format table (R170, R336)
  | ewait (guard : Guard) (e : Engine)
  | estat (guard : Guard) (w : Bool) (d : GReg) (e : Engine) (clr : Bool)
  | ftset (guard : Guard) (a : Src) (n : BitVec 5)
  | ftget (guard : Guard) (w : Bool) (d : GReg) (n : BitVec 5)
  | ftidx (guard : Guard) (v z : Bool) (base : BitVec 5)
  -- system (R362, R328, R410, R408, R253, R354, R236, R305, R215)
  | nop (guard : Guard)
  | fin (guard : Guard)
  | yield (guard : Guard)
  | wait (guard : Guard) (w : Bool) (d : GReg) (a : Src) (mask : BitVec 19)
  | trap (guard : Guard) (n : BitVec 8)
  | tret (guard : Guard) (replay : Bool)
  | mfc (guard : Guard) (w : Bool) (d : GReg) (creg : Creg)
  | mtc (guard : Guard) (creg : Creg) (a : Src)
  | bkpt (guard : Guard)
  | submit (guard : Guard) (w : Bool) (d : GReg) (a : Src)
  | cancel (guard : Guard) (w : Bool) (d : GReg) (a : Src) (level : Level)
  | rmreq (guard : Guard) (w : Bool) (d : GReg) (a : Src)
  | rmstat (guard : Guard) (w : Bool) (d : GReg) (a : Src)
  -- vector (R392 to R402, R405, R406)
  | vadd (h : VHead) (sat : Bool) (a b : VSrc)
  | vsub (h : VHead) (sat : Bool) (a b : VSrc)
  | vmul (h : VHead) (sat : Bool) (a b : VSrc)
  | vfma (h : VHead) (a b c : VSrc)
  | vmin (h : VHead) (a b : VSrc)
  | vmax (h : VHead) (a b : VSrc)
  | vabs (h : VHead) (a : VSrc)
  | vneg (h : VHead) (a : VSrc)
  /-- VDOT: the type field is S8 (R393). -/
  | vdot (k : KReg) (w : Bool) (d : VDst) (a b c : VSrc)
  | vand (h : VHead) (a b : VSrc)
  | vor (h : VHead) (a b : VSrc)
  | vxor (h : VHead) (a b : VSrc)
  | vnot (h : VHead) (a : VSrc)
  | vshl (h : VHead) (a b : VSrc)
  | vshr (h : VHead) (a b : VSrc)
  | vsar (h : VHead) (a b : VSrc)
  | vcmp (k : KReg) (t : ETy) (d : KReg) (cond : VCond) (a b : VSrc)
  | vsel (h : VHead) (a b : VSrc) (s : KReg) (neg : Bool)
  | vcvt (h : VHead) (src : ETy) (part : BitVec 2) (a : VSrc)
  | vqnt (h : VHead) (ct : CodeTy) (zp : BitVec 8) (a b : VSrc)
  | vdqnt (h : VHead) (ct : CodeTy) (zp : BitVec 8) (a b : VSrc)
  | vexpm (k : KReg) (w : Bool) (d : VDst) (a : VSrc)
  | valign (k : KReg) (w : Bool) (d : VDst) (dir : AlignDir) (a b : VSrc)
  | vred (h : VHead) (op : RedOp) (a : VSrc)
  | vscan (h : VHead) (op : RedOp) (a : VSrc)
  | vperm (h : VHead) (a b : VSrc)
  | vbcast (h : VHead) (a : VSrc) (j : BitVec 6)
  | vcomp (h : VHead) (a : VSrc) (s : KReg)
  | vexp2 (h : VHead) (a : VSrc)
  | vlog2 (h : VHead) (a : VSrc)
  | vrcp (h : VHead) (a : VSrc)
  | vrsq (h : VHead) (a : VSrc)
  | vtanh (h : VHead) (a : VSrc)
  -- tiles (R386)
  /-- TCFG: `f32` selects the type, rows minus one, columns / 4 minus one. -/
  | tcfg (m : MReg) (f32 : Bool) (rows : BitVec 4) (cols : BitVec 2)
  | tzero (m : MReg)
  | trel (m : MReg)
  | ttrans (m : MReg)
  | tdirty (m : MReg)
  -- moves (R399)
  | vmov (h : VHead) (a : VSrc)
  | vins (h : VHead) (a : VSrc) (j : BitVec 6)
  /-- VEXT takes no mask; its `h.k` is zero (R399). -/
  | vext (w : Bool) (t : ETy) (d : VDst) (a : VSrc) (j : BitVec 6)
  | vli (h : VHead) (imm : BitVec 11)
  -- engine words (R91, R94, R95)
  | lit (e : Engine) (imm : BitVec 15)
  | lith (e : Engine) (imm : BitVec 12)
  | dup (e : Engine)
  | drop (e : Engine)
  | swap (e : Engine)
  | over (e : Engine)
  | clrs (e : Engine)
  | pushg (e : Engine) (g : GReg)
  | mma (z f : Bool)
  /-- MDRAIN: `s` is the steer port when flag s is set (R353). -/
  | mdrain (z : Bool) (s : Option (BitVec 4))
  | mroute
  | maccld
  | cpy (ch : Bool) (codec : Codec) (win : BitVec 3)
  | cpys (codec : Codec) (win : BitVec 3)
  | cpyh
  | cpyp (ch : Bool) (codec : Codec) (sl : Bool) (win : BitVec 3)
  | cgath (size : GathSize)
  | cstrm (win : BitVec 3)
  | csink
  | cfill
  -- events
  | instructionFetchReturn (c : CtxId)
  | contextWake (c : CtxId)
  | contextOverdue (c : CtxId)
  | forceOutBackstop (c : CtxId)
  | issueHoldRelease (c : CtxId)
  | dividerDone (k : CoreId)
  | lateResultArrive (c : CtxId) (id : Nat)
  | loadDataReturn (c : CtxId) (home : Bool)
  | storeAck (id : Nat)
  | homeWritePerform (id part : Nat)
  | amoHomePerform (id : Nat)
  | causalWriteApply (id die : Nat)
  | plainWriteApply (id part die : Nat)
  | pageFaultResolve (id : Nat)
  | pageFaultDecline (id : Nat)
  | dupWriteReplay (id : Nat)
  | trapEntry (c : CtxId)
  | engineActivate (k : CoreId) (e : Engine)
  | engineWriteLand (k : CoreId) (e : Engine) (home : Bool)
  | enginePortWrite (k : CoreId) (e : Engine) (home : Bool)
  | mdrainSteerTake (k : CoreId)
  | csinkTokenTake (k : CoreId)
  | chainPass (c : CtxId)
  | engineOpComplete (k : CoreId) (e : Engine)
  | engineFault (k : CoreId) (e : Engine)
  | tokenSlotSend (die router out : Nat)
  | tokenArrive (die router inp circ : Nat)
  | handlePortToken (c : CtxId) (port : Nat)
  | creditReturn (n : Nat)
  | packetBeatSend (die router out : Nat)
  | slotBankSwitch (die : Nat)
  | bridgeFlitSend (die node : Nat)
  | bridgeFlitReceive (die node : Nat) (f : FlitIn)
  | bridgeFlitAck (die node : Nat)
  | laneSpare (die node lane : Nat)
  | phyRecalDone (channel : Nat)
  | spareCoreRemap (die core : Nat)
  | hbmChannelRetire (channel : Nat)
  | rmLoad (die tag : Nat)
  | rmLoadChunk (die region : Nat)
  | rmSwap (die tag : Nat)
  | rmQuiesce (die tag : Nat)
  | rmResume (die tag : Nat)
  | rmClock (die tag : Nat)
  | rmStatus (die tag : Nat)
  | regionIdle (die region : Nat)
  | rmTimeout (die region : Nat)
  | regionClockSettle (die region : Nat)
  | regionTokenAccept (die region port : Nat)
  | regionTokenEmit (die region : Nat)
  | mtileToken (die region node : Nat)
  | capsuleReadoutEnd (c : CtxId)
  | capsuleRouterCheck (n : Nat)
  | capsuleArrive (a : CapIn)
  | capsuleReceiveDone (c : CtxId)
  | capsuleEscape (n : Nat)
  | capsuleSpillDone (n : Nat)
  | capsuleUnspill (die world : Nat)
  | capsinkDeliver (die slot : Nat)
  | capsinkHeaderAck (die slot : Nat)
  | sqwidxWrite (n : Nat) (v : BitVec 32)
  | cqridxWrite (n : Nat) (v : BitVec 32)
  | sqJobOpen (src : WorkSrc) (id : Nat)
  | sqJobClose (src : WorkSrc)
  | sqPhase (src : WorkSrc) (id : Nat)
  | sqGraph (src : WorkSrc) (id : Nat)
  | sqLaunch (src : WorkSrc) (ids : List Nat) (p : Option Placement)
  | sqCancel (src : WorkSrc)
  | cancelApply (n : Nat)
  | unitEndReport (world launch unit : Nat)
  | dispatchUnit (die : Nat)
  | startToken (world launch : Nat)
  | xzBindqWrite (die : Nat) (v : Word) (bytes : BitVec 256)
  | xzCntSelect (die : Nat) (v : Word)
  | xzWdogKick (die : Nat)
  | xzRmqWrite (die : Nat) (v : Word) (bytes : BitVec 512)
  | fwStage (die : Nat)
  | fwVerifyDone (die : Nat)
  | fwCommit (die : Nat)
  | fwOk (die : Nat)
  | fwOkTimeout (die : Nat)
  | launchWatchdogExpire (world launch : Nat)
  | heartbeatHalf (die : Nat)
  | heartbeatExpire (die : Nat)
  | romHeartbeatMiss (die : Nat)
  | dieSelftestTimeout (die : Nat)
  | securityContactLost
  | mtimerInterrupt (die : Nat)
  | mgmtCoreInstruction (die : Nat)
  | slotResume (die slot : Nat)
  | slotRestart (die slot : Nat)
  | slotCancel (die slot : Nat)
  | slotCut (die slot : Nat)
  | slotRestore (die slot : Nat)
  | markerArrive (die slot port : Nat)
  | cutSave (world launch : Nat)
  | tlbinvWrite (die : Nat) (v : Word)
  | tlbinvDone (die : Nat)
  | seqGo (die : Nat) (v : Word) (world id : Nat)
  | seqStop (die : Nat)
  | seqBudgetCheck (die id : Nat)
  | seqDrain (die id : Nat)
  | worldMapWrite (die part : Nat) (v : BitVec 8)
  | worldZeroDone (die part : Nat)
  | keyload
  | revoke
  | revokeSweepDone
  | sealBlob
  | keystat
  | group
  | groupLinkUp (port pkg : Nat) (digest : BitVec 256) (proof : DigestProof)
  | getVersion
  | getCapabilities
  | negotiateAlgorithms
  | getDigests
  | getCertificate
  | challenge
  | getMeasurements
  | spdmUnsupportedRequest
  | sievePosition (die sieve : Nat)
  | sieveCommit (die sieve : Nat)
  | sieveDiscard (die sieve : Nat)
  | sieveClear (die sieve : Nat)
  | sieveClearDone (die sieve : Nat)
  | sieveLogitToken (die sieve : Nat)
  | sieveMaskToken (die sieve : Nat)
  | sieveInsert (die sieve : Nat)
  | sieveSegmentEnd (die sieve : Nat)
  | sieveEos (die sieve : Nat)
  | powerWindow (watts : Nat)
  | pwrcapWrite (v : BitVec 32)
  | powerGood (r : BringUp)
  | packageReset
  | hostBar2Access (fn off : Nat) (req : HostReq)
  | registerWrite (r : RegAt) (v : Word)
  | debugPortRead (a : DebugAt)
  | phyRecalibration (channel : Nat)
  | dieSelfCheckPass (die : Nat)
  deriving DecidableEq, Repr

end Sys2Proof
end

