-- ==== Sys2Proof/Machine/StateCtx.lean ====
section
/-! DEFINITION. The state of one hardware context: registers, latches, loop registers, control
registers, engine stacks, and what it waits for (03_core R55 to R73; 13_faults R247 to R253;
09_ordering R190 to R195). -/

namespace Sys2Proof.Machine

/-- A vector clock or stamp: one entry per die of the package, the I/O die last (R190). An entry of the hardware has 64
bits; here it is a number that does not wrap (DEDUCED, log entry 133). -/
abbrev Stamp := Vector Nat 5

/-- The stamp of no write. -/
def Stamp.zero : Stamp := Vector.replicate 5 0

/-- The fault codes of R254. -/
inductive FCode where
  | illMajor | illFunc | illRsv | illOpnd | priv | latchStale | tileUncfg | tileShape
  | hbound | hinval | hlevel | align | engOvf | engUnf | engIll | engArg
  | pgNp | pgPerm | pgSize | pgDupw | sealLd | sealCpy | sealGath | sealDbg | sealAuth | keyRevoked
  | eccUe | eccRmw | poison | streamProto | portUnbound | capHops | capPlace | capFmt
  | codecOver | codecUnder | numThresh | memberChanged | dblFault | watchdog
  deriving DecidableEq, Repr

/-- A bypass latch (R59): value, tag (true vector), valid bit, and the late result whose value it
will hold (R293). -/
structure Latch where
  val   : Vec
  isVec : Bool
  valid : Bool
  pend  : Option Nat
  deriving DecidableEq, Repr

/-- The latch after an invalidation. -/
def Latch.invalid : Latch := { val := 0, isVec := false, valid := false, pend := none }

/-- A loop register (R64). -/
structure LoopReg where
  start     : Word
  fin       : Word
  initial   : BitVec 32
  remaining : BitVec 32
  active    : Bool
  deriving DecidableEq, Repr

/-- An inactive loop register with all four values zero (R43). -/
def LoopReg.reset : LoopReg := { start := 0, fin := 0, initial := 0, remaining := 0, active := false }

/-- The registers that instructions compute with (R58). `wordNext` is the model's own field: the
address of the word after an engine word within or after its carrier (R86), set before each word. -/
structure Regs where
  g  : Vector Word 32
  k  : Vector Word 8
  v  : Vector Vec 32
  l  : Vector Latch 4
  z  : Vector LoopReg 2
  pc : Word
  wordNext : Word
  me : List Word
  ce : List Word
  deriving DecidableEq, Repr

/-- The control registers of R71 and the fields they show. -/
structure Ctl where
  s       : Bool
  ps      : Bool
  rcap    : Bool
  precise : Bool
  satf    : Bool
  rm      : BitVec 2
  tsaveh  : BitVec 8
  trapv   : Word
  frec    : Vector Word 4
  ftbind  : BitVec 16
  evcnt   : Vector (BitVec 32) 8
  evth    : Vector (BitVec 32) 8
  evpos   : BitVec 32
  evlen   : BitVec 32
  fired   : BitVec 8
  host    : BitVec 8
  deriving DecidableEq, Repr

/-- What a context remembers of one engine's operations (R171). -/
structure EngStat where
  done  : BitVec 16
  fcode : BitVec 8
  deriving DecidableEq, Repr

/-- A chain armed by a copy (R185): the copy, named by its operation, is running, or has completed, or has ended by a fault
or a cancel. -/
inductive ChainState where
  | running (op : Nat)
  | done | failed
  deriving DecidableEq, Repr

/-- A matrix launch word held by a chain (R93, R185): its instruction, its address, its popped
arguments top first, and the format-table index it fixed. -/
structure HeldWord where
  instr : Instr
  pc    : Word
  args  : List Word
  fmt   : Nat
  /-- the copy it is bound to, and whether that has completed -/
  copy  : Nat
  ready : Bool
  /-- the copy has passed it on, in this order, and it waits for the shadow set -/
  passed : Option Nat
  /-- the writes and the clock that its reads come after (R192) -/
  after : List Nat
  acq   : Stamp
  deriving DecidableEq, Repr

/-- The destination of a load or late result: a general register, a vector register, or a tile. -/
inductive Dest where
  | none
  | g (r : GReg)
  | v (r : VReg)
  | t (r : MReg)
  deriving DecidableEq, Repr

/-- The kind of a global access, with what a replay needs (R252): size, qualifiers, destination and
store data. -/
inductive AccKind where
  | load (size : Nat) (signed : Bool) (vec : Bool) (causal nt : Bool) (d : Dest)
  | store (data : List Byte) (causal nt : Bool)
  | amo (op : AmoOp) (size : Nat) (causal nt : Bool) (d : Dest) (operand compare : Word)
  /-- the record of SUBMIT (R236), or of RMREQ (R215) -/
  | submit (d : Dest)
  | rmreq (d : Dest)
  deriving DecidableEq, Repr

/-- A late result (R293): where it lands and what makes it. -/
inductive LateSrc where
  | divide (q : Word)
  | amo (write : Nat)
  | cancel (level : Level) (object : Nat)
  deriving DecidableEq, Repr

/-- A pending late result. -/
structure Late where
  id  : Nat
  d   : Dest
  src : LateSrc
  /-- the result, once the reply has been formed -/
  value : Option Word
  deriving DecidableEq, Repr

/-- A global load whose data has not returned (R344). -/
structure LoadReq where
  pieces : List (Nat × Nat)
  kind   : AccKind
  va     : Word
  pc     : Word
  /-- the entry of the key ring of each piece's page, none for plaintext (R280) -/
  keys   : List (Option Nat)
  /-- each piece is read at its home: a page of TYPE 10 or of another package (R139) -/
  atHome : List Bool
  /-- each piece lies in a duplicated page, whose copies its home does not track (R147) -/
  dup    : List Bool
  /-- bytes that have been read before the rest (R198), by their offset: value, place in coherence order, the write in flight
  they came from, and whether that is the die's own -/
  early  : Map (Byte × Nat × Option Nat × Bool)
  /-- writes that happen before the load (R192) -/
  after  : List Nat
  /-- a replay writes its destination and pushes nothing (R253) -/
  replay : Bool
  deriving DecidableEq, Repr

/-- Why a context is parked (R55, R56): the condition it waits for. -/
inductive Park where
  /-- granules of a scratch access full, or empty (R136): handle, row, byte, bytes -/
  | scratch (h row byte len : Nat) (wantFull : Bool)
  /-- a token other than a marker at a logical input (R377) -/
  | tokenIn (port : Nat)
  /-- a free entry of a logical output's buffer (R378) -/
  | roomOut (port : Nat)
  /-- a free shadow set, and for a matrix word no held word (R93, R185) -/
  | shadow (e : Engine)
  /-- no pending operation of the context (R170) -/
  | engine (e : Engine)
  /-- a condition of WAIT (R408) -/
  | cond (mask : BitVec 19) (t0 : Nat) (n : Word)
  /-- a capsule of the core's world in a receive buffer (R225) -/
  | capsule
  /-- a capsule being moved in, with the destination of its CAPRECV (R308) -/
  | capMove (w : Bool) (d : GReg)
  /-- END waits for its queues and acknowledgements, for the EOS of an input, or for room in an output (R328) -/
  | ending (input output : Option Nat)
  /-- the data of a global load (R344) -/
  | load
  /-- a page fault with the management core (R146) -/
  | pageFault (id : Nat)
  /-- a write to a duplicated page (R147) -/
  | dupWrite (id : Nat)
  deriving DecidableEq, Repr

/-- Why a context holds issue without completing (R57). -/
inductive Hold where
  | fence | late | divider
  deriving DecidableEq, Repr

/-- What an instruction captured at its first issue (R378, R408). -/
inductive Captured where
  | value (v : Vec)
  | wait (t0 : Nat) (n : Word)
  deriving DecidableEq, Repr

/-- A trap that waits to be taken (R247, R250): code and kind, address fields, and whether it was
precise, from an engine, or leaves a replay record. -/
structure TrapReq where
  kind    : Nat
  code    : Nat
  pc      : Word
  addr    : Word
  resume  : Option Word
  precise : Bool
  engine  : Bool
  replay  : Option AccKind
  /-- the writes that the replayed access comes after (R193) -/
  deps    : List Nat
  /-- the destination whose next use forces the trap (R250) -/
  dest    : Dest
  /-- a fault taken while a capsule is held sends it first (R231) -/
  isFault : Bool
  deriving DecidableEq, Repr

/-- The bound unit (R42, R238): launch id, its world, home die, unit number, the physical port of each
logical port with its width, the page size of its streams, whether it may change its MODE.RCAP, and
the store acknowledgements it awaits (R48). -/
structure UnitRef where
  launch  : Nat
  home    : Nat
  unit    : Nat
  world   : Nat
  ports   : Map (Nat × Bool)
  outs    : Map (Nat × Bool)
  /-- inputs bound to a handle: handle, row0 (R166) -/
  rings   : Map (Nat × Nat)
  page    : Nat
  pending : Nat
  /-- the format entries that its image gives (R105) -/
  fmts    : List (Nat × Word)
  deriving DecidableEq, Repr

/-- The stop that dispatch or a cancel has asked of the unit (R38, R258). -/
inductive StopReq where
  | none | cancel | cut | stopped
  deriving DecidableEq, Repr

/-- What orders a context's later accesses (R190, R192, R195): the kept stamp, the acquired clock, the
coherence floors, and the writes that happen before its later accesses. -/
structure Order where
  kept   : Stamp
  acq    : Stamp
  /-- coherence index of the newest write each byte was read or written at, since the unit began -/
  seen   : Map Nat
  /-- floors of causal reads (R191) -/
  causal : Map Nat
  /-- floors of every read after a fence (R195) -/
  fence  : Map Nat
  /-- writes read since the unit began that some die has not applied -/
  readW  : List Nat
  /-- writes that happen before every later access -/
  afterA : List Nat
  /-- writes that happen before every later access for the agents of the own die only (R187) -/
  near   : List Nat
  /-- writes that happen before every later causal access -/
  afterC : List Nat
  /-- the clock of the tokens that completed CSINK operations consumed, acquired at the next join (R192) -/
  engAcq : Stamp
  /-- the writes each register's value depends on (R193): g at 0, k at 32, v at 64, latches at 96 -/
  dep    : Map (List Nat)
  deriving DecidableEq, Repr

/-- What the context has written since unit start (R259). -/
structure Written where
  g : BitVec 32
  k : BitVec 8
  v : BitVec 32
  deriving DecidableEq, Repr

/-- A capsule's header state (R221): 64 bytes. -/
abbrev CapHdr := BitVec 512

/-- What the context waits for, and what it has outstanding. -/
structure Wait where
  park    : Option Park
  hold    : Option Hold
  captured : List (Word × Captured)
  load    : Option LoadReq
  lates   : List Late
  traps   : List TrapReq
  replay  : Option AccKind
  /-- the writes that the replayed access comes after (R193) -/
  replayDeps : List Nat
  fetch   : Option Word
  overdue : Bool
  issueStart : Nat
  stop    : StopReq
  /-- it froze by a TRAP in S mode that kept the record of an earlier trap (R257) -/
  kept    : Bool
  deriving DecidableEq, Repr

/-- What the place of a capsule is to it (R225, R230). -/
inductive CapRole where
  | hop | sink | fault
  deriving DecidableEq, Repr

/-- A send whose readout has not ended (R226): where the capsule goes, the number it is sent under, the clock
it releases, and the engine operations that it waits for. -/
structure CapSend where
  place : BitVec 17
  role  : CapRole
  id    : Nat
  clock : Stamp
  ops   : List Nat
  deriving DecidableEq, Repr

/-- A held capsule (R222, R226): its header, the launch that created it with its home die, and the send
that reads it out. -/
structure HeldCap where
  hdr    : CapHdr
  launch : Nat
  home   : Nat
  sending : Option CapSend
  deriving DecidableEq, Repr

/-- One hardware context. -/
structure CtxSt where
  regs  : Regs
  ctl   : Ctl
  mest  : EngStat
  cest  : EngStat
  chain : Option ChainState
  held  : Option HeldWord
  wait  : Wait
  order : Order
  cap   : Option HeldCap
  /-- capsules the context sent that have not reached a buffer (R197) -/
  sent  : List Nat
  written : Written
  unit  : Option UnitRef
  deriving DecidableEq, Repr

/-- The ordering state of a unit that has accessed nothing. -/
def Order.reset : Order :=
  { kept := Stamp.zero, acq := Stamp.zero, seen := [], causal := [], fence := [], readW := [],
    afterA := [], near := [], afterC := [], engAcq := Stamp.zero, dep := [] }

/-- The register values of R43. -/
def Regs.reset : Regs :=
  { g := Vector.replicate 32 0, k := Vector.replicate 8 0, v := Vector.replicate 32 0,
    l := Vector.replicate 4 Latch.invalid, z := Vector.replicate 2 LoopReg.reset, pc := 0, wordNext := 0,
    me := [], ce := [] }

/-- The control registers at unit start (R43, R69, R72, R126, R248). -/
def Ctl.reset : Ctl :=
  { s := false, ps := false, rcap := false, precise := false, satf := false, rm := 0, tsaveh := 0,
    trapv := 0, frec := Vector.replicate 4 0, ftbind := 0, evcnt := Vector.replicate 8 0,
    evth := Vector.replicate 8 0, evpos := 0, evlen := 0, fired := 0, host := 0 }

/-- A context that waits for nothing. -/
def Wait.reset : Wait :=
  { park := none, hold := none, captured := [], load := none, lates := [], traps := [], replay := none, replayDeps := [],
    fetch := none, overdue := false, issueStart := 0, stop := .none, kept := false }

/-- A context after reset. -/
def CtxSt.reset : CtxSt :=
  { regs := Regs.reset, ctl := Ctl.reset, mest := { done := 0, fcode := 0 },
    cest := { done := 0, fcode := 0 }, chain := none, held := none, wait := Wait.reset,
    order := Order.reset, cap := none, sent := [], written := { g := 0, k := 0, v := 0 }, unit := none }

end Sys2Proof.Machine
end

