-- ==== Sys2Proof/Machine/StateCore.lean ====
section
/-! DEFINITION. The state the four contexts of a core share: handles, scratch, Pantry, tile registers,
format table, engines, stream ports, caches and receive buffers (03_core R55, R60 to R67; 06_memory
R131 to R149; 08_engines R167 to R185; 07_streams R150 to R166). -/

namespace Sys2Proof.Machine

/-- The kinds of token (R46). -/
inductive TokKind where
  | data | eos | marker | steer
  deriving DecidableEq, Repr

/-- A token (R46): its kind, its value (a scalar in the low 64 bits), and the vector clock it releases
(R156). -/
structure Token where
  kind  : TokKind
  val   : Vec
  clock : Option Stamp
  deriving DecidableEq, Repr

/-- An allocated handle (R131 to R134): level 1 is the Pantry; `base` and `units` are its space in
units of 1 KiB; `slot` is the key slot of its sealing CPYP, when it is sealed; `owner` is the context
whose unit it belongs to. -/
structure HandleSt where
  level1 : Bool
  rl     : Bool
  desc   : BitVec 32
  base   : Nat
  units  : Nat
  slot   : Option Nat
  owner  : Nat
  deriving DecidableEq, Repr

/-- A freed handle whose space is not yet released (R134): the operations that still name it. -/
structure FreedHandle where
  h   : HandleSt
  ops : List Nat
  deriving DecidableEq, Repr

/-- What a put-away of a clean tile would leave (R387), with whether the handle it names is still the
one that was read (R63). -/
inductive Origin where
  | zero
  | backing (h row byte : Nat) (live : Bool)
  deriving DecidableEq, Repr

/-- A tile register (R60). -/
structure TileSt where
  elems : Vector W32 256
  rows  : Nat
  cols  : Nat
  f32   : Bool
  configured : Bool
  dirty : Bool
  owner : Option Nat
  origin : Origin
  deriving DecidableEq, Repr

/-- The shape and type a tile record holds (R63). -/
structure TileShape where
  rows : Nat
  cols : Nat
  f32  : Bool
  deriving DecidableEq, Repr

/-- A context's record of a tile (R62); `live` falls when the handle is freed (R63). -/
inductive TileRec where
  | none
  | owned
  | saved (sh : TileShape) (h : Nat) (live : Bool)
  | backing (sh : TileShape) (h row byte : Nat) (live : Bool)
  | zero (sh : TileShape)
  | lost
  deriving DecidableEq, Repr

/-- The state of the ECC code of a granule or sector that is not good (R148). -/
inductive EccSt where
  | single | bad | poison
  deriving DecidableEq, Repr

/-- What an operation holds of the row, block, chunk or token it is working on: source bytes read, bytes still
to be written with how many have been, whether they are poisoned (R148), and the sealed chunk read last with its plaintext (R284). -/
structure EngBuf where
  raw    : List Byte
  out    : List Byte
  outPos : Nat
  bad    : Bool
  chunk  : Option (Nat × List Byte)
  deriving DecidableEq, Repr

/-- A captured engine operation (R93): its launch word, address and arguments (top first), the format
entry it captured, the handles its arguments named at capture, and how far it has come. -/
structure EngOp where
  id     : Nat
  ctx    : Nat
  instr  : Instr
  pc     : Word
  args   : List Word
  entry  : Word
  binds  : List (Nat × Option HandleSt)
  /-- the next granule, block, row, token or element of the operation (its queue pointer, R146) -/
  pos    : Nat
  buf    : EngBuf
  /-- the route entry that a drain read (R178) -/
  route  : Option (Word × Word)
  /-- what MMA and MACCLD read before they completed (R176) -/
  sampled : Map Nat
  events : Vector Nat 8
  /-- the writes and the clock that its accesses come after (R192) -/
  after  : List Nat
  acq    : Stamp
  /-- the first codec fault (R130), or a noted SEAL-GATH (R311), with FREC's address word: reported when the rest is done -/
  late   : Option (FCode × Word)
  /-- the page fault it is halted at (R146) -/
  halted : Option Nat
  /-- the fault that ends it (R173), with FREC's address word -/
  failed : Option (FCode × Word)
  /-- its next write is the replay of one to a duplicated page (R147) -/
  replay : Bool
  /-- the sector of global memory that it reads or writes has been read or written in part (R38) -/
  mid    : Bool
  /-- it ends at its next row boundary (R231) -/
  stopRow : Bool
  deriving DecidableEq, Repr

/-- An empty buffer. -/
def EngBuf.reset : EngBuf :=
  { raw := [], out := [], outPos := 0, bad := false, chunk := none }

/-- An engine's parameter sets (R93). -/
structure EngSt where
  shadow : Option EngOp
  active : Option EngOp
  deriving DecidableEq, Repr

/-- The accumulators and what belongs to them (R174, R118, R177). -/
structure AccSt where
  cells   : Map W32
  poison  : Map Unit
  tagF32  : Bool
  rm      : BitVec 2
  sat     : Bool
  altered : BitVec 128
  /-- route entries: descriptor and base; an absent entry discards -/
  route   : Map (Word × Word)
  deriving DecidableEq, Repr

/-- A stream port of a client (R150, R203, R262). -/
inductive PortRef where
  | core (die core port : Nat)
  | region (die region port : Nat)
  | sieve (die sieve port : Nat)
  deriving DecidableEq, Repr

/-- A physical input port (R151): its tokens, the oldest first, whether a marker waits behind them,
whether the marker has closed it, and its circuit. -/
structure InPort where
  bound  : Bool
  vec    : Bool
  depth  : Nat
  buf    : List Token
  marker : Bool
  closed : Bool
  eos    : Bool
  circ   : Nat
  /-- the edge is a feedback edge, whose marker is not awaited (R258) -/
  feedback : Bool
  /-- tokens written to the ring of a handle-bound port (R166) -/
  ring   : Nat
  launch : Nat
  deriving DecidableEq, Repr

/-- A physical output port (R151, R152): its buffer, its credits, and the circuit its tokens ride. -/
structure OutPort where
  bound   : Bool
  vec     : Bool
  buf     : List Token
  credits : Nat
  eos     : Bool
  circ    : Nat
  launch  : Nat
  deriving DecidableEq, Repr

/-- An unbound input port. -/
def InPort.reset : InPort :=
  { bound := false, vec := false, depth := 0, buf := [], marker := false, closed := false, eos := false,
    circ := 0, feedback := false, ring := 0, launch := 0 }

/-- An unbound output port. -/
def OutPort.reset : OutPort :=
  { bound := false, vec := false, buf := [], credits := 0, eos := false, circ := 0,
    launch := 0 }

/-- A capsule outside a context (R221): its header, its data bytes, its creating launch and that
launch's home die, and the context that sent it and awaits its arrival (R197). -/
structure Capsule where
  hdr    : CapHdr
  data   : List Byte
  launch : Nat
  home   : Nat
  id     : Nat
  clock  : Stamp
  /-- what the place it was delivered to is to it (R225) -/
  role   : CapRole
  /-- the context that is moving it in (R308) -/
  taken  : Option Nat
  /-- the slot of the CAPSINK unit that receives it (R229) -/
  sink   : Option Nat
  deriving DecidableEq, Repr

/-- A translation a TLB holds (R144). -/
structure TlbEntry where
  world : Nat
  /-- 0 for 4 KiB, 1 for 64 KiB, 2 for 2 MiB, 3 for 1 GiB (R145) -/
  size  : Nat
  /-- the virtual address of the page -/
  va    : Nat
  pte   : Word
  /-- where the entry lies, for its A and D bits (R143) -/
  loc   : Nat
  deriving DecidableEq, Repr

/-- One logical core. -/
structure CoreSt where
  handles : Map HandleSt
  freed   : List FreedHandle
  /-- scratch bytes by address; an absent byte is zero (R132) -/
  scratch : Map Byte
  full    : Map Unit
  /-- the writes in flight that happen before the last set or clear of a granule (R192) -/
  fe      : Map (List Nat)
  ecc     : Map EccSt
  /-- Pantry bytes by slice × 65,536 + offset; an absent byte is zero (R132) -/
  pantry  : Map Byte
  pecc    : Map EccSt
  tiles   : Map TileSt
  /-- records by context × 8 + tile; an absent record is none -/
  recs    : Map TileRec
  fmt     : Map Word
  me      : EngSt
  ce      : EngSt
  /-- operations that a cut has taken out of the engines, or that a restore brings back to them (R258, R261) -/
  halted  : List (Engine × EngOp)
  acc     : AccSt
  /-- the launches whose units on the core have issued MMA or MACCLD (R259) -/
  accUsers : List Nat
  inp     : Map InPort
  out     : Map OutPort
  icache  : Map Word
  tlb     : List TlbEntry
  stlb    : List TlbEntry
  rxbuf   : List Capsule
  divider : Option Nat
  holder  : Option Nat
  last    : Nat
  /-- firmware is remapping the core: it runs nothing and takes no capsule (R30) -/
  remap   : Bool
  deriving DecidableEq, Repr

/-- A tile no context has configured. -/
def TileSt.reset : TileSt :=
  { elems := Vector.replicate 256 0, rows := 1, cols := 4, f32 := false, configured := false,
    dirty := false, owner := none, origin := .zero }

/-- The accumulators after reset (R118, R174, R177, R278). -/
def AccSt.reset : AccSt :=
  { cells := [], poison := [], tagF32 := false, rm := 0, sat := false, altered := 0, route := [] }

/-- A core after reset. Context 0 holds issue, and round robin starts after it: the spec gives no such value (DESIGN
CHOICE, log entry 120). -/
def CoreSt.reset : CoreSt :=
  { handles := [], freed := [], scratch := [], full := [], fe := [], ecc := [], pantry := [],
    pecc := [], tiles := [], recs := [], fmt := [], me := { shadow := none, active := none },
    ce := { shadow := none, active := none }, halted := [], acc := AccSt.reset, accUsers := [], inp := [], out := [], icache := [],
    tlb := [], stlb := [], rxbuf := [], divider := none, holder := some 0, last := 0, remap := false }

end Sys2Proof.Machine
end

