-- ==== Sys2Proof/Machine/StateRegion.lean ====
section
/-! DEFINITION. The state of Griddle regions with their memory tiles, planes and requests (10_fabric R203 to R219), and
of Sieves (14_generation R262 to R272). -/

namespace Sys2Proof.Machine

/-- What a plane holds of a loaded bitstream (R211): its class and flags, and the digest that names its operator. -/
structure Plane where
  cls    : Nat
  idem   : Bool
  timed  : Bool
  clkmax : Nat
  ports  : Nat
  /-- the role code of tile n in bits [2n+1:2n] -/
  trole  : BitVec 96
  digest : BitVec 256
  deriving DecidableEq, Repr

/-- What an operator has consumed: a token at an input, or one written to a node of its tiles. -/
inductive OpIn where
  | input (port : Nat) (kind : TokKind) (val : Vec) (tag : BitVec 4)
  | tile (node : Nat) (kind : TokKind) (val : Vec)
  /-- a unit has been bound to its region -/
  | start
  deriving DecidableEq, Repr

/-- Where an operator's port leads (R206): a router port, or an MTILE node of its region. -/
inductive OpPort where
  | none
  | port (p : Nat)
  | tile (node : Nat)
  deriving DecidableEq, Repr

/-- An MTILE node (R205, R206): its unit, role and tiles, where its tokens come from and, for a FIFO, go to; the
tokens it has taken, the tokens it holds, those the operator has sent it, and the ends of its streams. -/
structure MTile where
  unit  : Nat
  role  : Nat
  tiles : List Nat
  src   : OpPort
  dst   : OpPort
  count : Nat
  buf   : List Token
  sent  : List Token
  eosIn : Bool
  eosOut : Bool
  /-- a marker has come by its input (R258) -/
  closed : Bool
  deriving DecidableEq, Repr

/-- What a region's manager is doing for a request (R214): the issuing die and tag, the record, and the cycle at which
it began to wait for IDLE; `was` says that the region was quiesced before. -/
structure RmJob where
  die     : Nat
  tag     : Nat
  world   : Nat
  op      : Nat
  va      : Word
  mhz     : Nat
  timeout : Nat
  since   : Nat
  was     : Bool
  /-- LOAD: the header with its bytes, the hash list and the chunk that comes next -/
  plane   : Option Plane
  hdr     : List Byte
  hashes  : List (BitVec 256)
  chunk   : Nat
  last    : Nat
  deriving DecidableEq, Repr

/-- A region (R203). -/
structure RegionSt where
  active : Option Plane
  shadow : Option Plane
  mhz    : Nat
  /-- the cycle by which a clock change has ended (R204) -/
  settle : Option Nat
  /-- ready is low on every input (R218), and IDLE has been seen -/
  quiet  : Bool
  idle   : Bool
  job    : Option RmJob
  /-- what the operator has consumed since it started, and how many of its outputs have left it -/
  hist   : List OpIn
  /-- the cycles of the die in which it consumed them (R209) -/
  times  : List Nat
  emitted : Nat
  /-- EOS records of the shell (R208): inputs delivered, outputs carried -/
  eosIn  : List Nat
  eosOut : List Nat
  ins    : List OpPort
  outs   : List OpPort
  mtiles : List MTile
  /-- tile bytes at tile × 16,384 + offset, in clear (R207) -/
  tiles  : Map Byte
  /-- the unit bound to the region: launch key and unit index; it runs once its start token has come -/
  unit   : Option (Nat × Nat)
  run    : Bool
  /-- inputs closed by markers (R258) -/
  cut    : Bool
  /-- the maximum of the clocks of the tokens consumed (R194) -/
  clock  : Stamp
  deriving DecidableEq, Repr

/-- The stop of a clock change still lasts (R204): it ends by its bound. -/
def RegionSt.stands (r : RegionSt) (cyc : Nat) : Bool :=
  match r.settle with
  | none => false
  | some n => decide (cyc < n)

/-- An operator that begins afresh has consumed nothing. -/
def RegionSt.anew (r : RegionSt) : RegionSt := { r with hist := [], times := [], emitted := 0 }

/-- What an operator may know of arrival times (R209): nothing, unless it is TIMED. -/
def RegionSt.arrivals (r : RegionSt) (a : Plane) : List Nat := if a.timed then r.times else []

/-- The role of a tile in a plane (R205, R211). -/
def Plane.role (p : Plane) (n : Nat) : Nat := (p.trole.extractLsb' (2 * n) 2).toNat

/-- The role of a tile in a plane that may be empty. -/
def roleOf (p : Option Plane) (n : Nat) : Nat :=
  match p with
  | some a => a.role n
  | none => 0

/-- A region after reset (R204). -/
def RegionSt.reset : RegionSt :=
  { active := none, shadow := none, mhz := 100, settle := none, quiet := false, idle := false, job := none, hist := [],
    times := [], emitted := 0, eosIn := [], eosOut := [], ins := [], outs := [], mtiles := [], tiles := [], unit := none, run := false,
    cut := false, clock := Stamp.zero }

/-- A request that waits in the queue of the die that issued it (R215): the record's place as its RMREQ translated it,
or the record itself. -/
structure RmReq where
  tag    : Nat
  world  : Nat
  record : Option (BitVec 512)
  /-- the cell and key of each of the record's bytes, and whether it is read at its home -/
  cells  : List (Nat × Option Nat)
  atHome : Bool
  /-- the stores that it is read after (R169) -/
  after  : List Nat
  acq    : Stamp
  deriving DecidableEq, Repr

/-- The region manager of a die (R215, R216): its queue, the last tag given, and the status words it keeps with the
world of each request, newest first. -/
structure RmSt where
  queue  : List RmReq
  tag    : Nat
  status : List (Nat × Nat × Word)
  deriving DecidableEq, Repr

/-- A node of the overlay (R270): its number, its parent and its token. -/
structure DraftNode where
  node   : Nat
  parent : Nat
  dtok   : Nat
  deriving DecidableEq, Repr

/-- The open position of a Sieve (R264, R265): its control token, whether it is bad, the segment and mask tokens taken,
the mask bits read, and whether the segment has ended. -/
structure Position where
  ctl   : BitVec 512
  bad   : Bool
  seg   : Nat
  masks : List (BitVec 512)
  fin   : Bool
  deriving DecidableEq, Repr

/-- A Sieve (R262, R263). -/
structure SieveSt where
  cells  : List (W32 × W32)
  queue  : List (W32 × W32)
  pos    : Option Position
  overlay : List DraftNode
  /-- the cycle at which a CLEAR began (R269) -/
  clearing : Option Nat
  /-- tokens that wait for room in the output buffer -/
  pend   : List Token
  ended  : Bool
  unit   : Option (Nat × Nat)
  run    : Bool
  /-- the unit has opened a position with penalties (R269) -/
  pen    : Bool
  deriving DecidableEq, Repr

/-- A Sieve after reset. -/
def SieveSt.reset : SieveSt :=
  { cells := [], queue := [], pos := none, overlay := [], clearing := none, pend := [], ended := false, unit := none,
    run := false, pen := false }

/-- A region manager after reset. -/
def RmSt.reset : RmSt := { queue := [], tag := 0, status := [] }

end Sys2Proof.Machine
end

