-- ==== Sys2Proof/Config.lean ====
section
/-! DEFINITION. The free values of the model: what the spec leaves open is a constant without a body, so that nothing
can be proved of its value. -/

namespace Sys2Proof

open Sys2Proof.Machine

/-- What the operator of a bitstream, named by its digest, has sent once it has consumed a history: the ports, kinds, values and
value tags of its tokens in order (R208). The spec gives no operator. The second list is the cycles in which a TIMED operator
consumed its history (R209); an operator that is not TIMED is given none. -/
opaque Config.opOutputs : BitVec 256 → List OpIn → List Nat → List (Nat × TokKind × Vec × BitVec 4)

/-- The operator raises ready at an input after a history (R208, R209). -/
opaque Config.opReady : BitVec 256 → List OpIn → List Nat → Nat → Bool

/-- What the operator has written to its tiles, by tile × 16,384 + offset, after a history (R205, R209). -/
opaque Config.opTiles : BitVec 256 → List OpIn → List Nat → List (Nat × Byte)

/-- The word that a full instruction cache gives up, by the cycle in which it does (R14): the spec names none. -/
opaque Config.icacheVictim : Nat → Nat

/-- The value tag that the shell gives with a token (R208): the spec says nothing of it. -/
opaque Config.valueTag : Nat → BitVec 4

/-- A firmware image carries a good signature (R244): the keys are not in the spec. -/
opaque Config.firmwareSigned : List Byte → Bool

/-- The entry of a firmware image (R244): the spec gives no layout of the image. -/
opaque Config.imageEntry : List Byte → Word

/-- The operator-signing keys of a world, by KEYID: modulus and exponent (R211); firmware provisions them. -/
opaque Config.operatorKey : Nat → Nat → Nat × Nat

/-- The package key: its modulus and private exponent (R281, R286). -/
opaque Config.packageKey : Nat × Nat

/-- A signature of the package key over a message (R288): RSASSA-PSS takes a fresh salt. -/
opaque Config.packageSign : Nat → List Byte → BitVec 3072

/-- The certificate chain of slot 0 (R288). -/
opaque Config.certChain : List Byte

/-- A nonce of the security core (R288). -/
opaque Config.nonce : Nat → BitVec 256

/-- CTExponent, DataTransferSize and MaxSPDMmsgSize of the responder (R288): the spec gives none. -/
opaque Config.spdmLimits : BitVec 72

/-- The value type of a measurement, by its index (R288): the spec gives none. -/
opaque Config.measType : Nat → Byte

/-- What bring-up extends MEAS0 and MEAS2 with (R287): the digest of the ROM, the package certificate. -/
opaque Config.bootMeasured : Nat → List Byte

/-- The digest of a compute die's public identity key that the package certificate lists (R286). -/
opaque Config.dieDigest : Nat → BitVec 256

/-- The form in which a public key is digested (R286): the spec gives none. -/
opaque Config.keyBytes : Nat → Nat → List Byte

/-- The package key that a package certificate names, when the manufacturing CA has signed it (R286, R290): modulus and
exponent. The key of the CA and the fields of the certificate are not in the spec. -/
opaque Config.certKey : List Byte → Option (Nat × Nat)

/-- The form in which the final boot configuration is measured (R287). -/
opaque Config.bootConfig : List (Nat × Nat) → List Nat → List Byte

/-- A byte of a read that no place answers. -/
opaque Config.openByte : Nat → Byte

/-- mimpid of the management core (R242). -/
opaque Config.coreRevision : Word

/-- STEP of DEVID (R25). -/
opaque Config.stepping : Byte

end Sys2Proof
end

