-- ==== Sys2Proof/Machine/StateDev.lean ====
section
/-! DEFINITION. The state of the I/O die (01_device R16, R24 to R28): boot status, reset cause, power, the BAR2 window,
mailboxes, the MSI-X table and the firmware staging window. -/

namespace Sys2Proof.Machine

/-- The control space of the physical function beside the host queues (R24). -/
structure DevSt where
  /-- BOOTST (R27) -/
  bootst   : BitVec 32
  /-- RSTCAUSE (R28) -/
  rstcause : BitVec 32
  /-- PWRCAP and the last window's power in watts; the core clock in MHz (R16) -/
  pwrcap   : Nat
  power    : Nat
  clock    : Nat
  /-- the BAR2 base register, and the size of the BAR2 of the physical function, as a power of two (R24) -/
  bar2     : Word
  bar2Log  : Nat
  /-- mailboxes and the staging window, by BAR0 offset -/
  bar0     : Map Byte
  /-- the MSI-X tables (R23, R24): address and data of the 64 vectors of each function, by function × 1,024 + offset; the
  vectors that are not masked, and those that are pending, by function × 64 + vector -/
  msix     : Map Byte
  unmasked : List Nat
  pba      : List Nat
  /-- bring-up runs (R26): what its steps are to find -/
  boot     : Option BringUp
  /-- the image in the boot flash (R244) -/
  flash    : List Byte
  /-- the bytes that the last read of the host or of the debug port gave (the model's own) -/
  seen     : List Byte
  deriving DecidableEq, Repr

/-- The I/O die after power-on. -/
def DevSt.reset : DevSt :=
  { bootst := 0, rstcause := 0, pwrcap := 2400, power := 0, clock := 1600, bar2 := 0, bar2Log := 39, bar0 := [], msix := [],
    unmasked := [], pba := [], boot := none, flash := [], seen := [] }

/-- STAGE of BOOTST (R27). -/
def DevSt.stage (x : DevSt) : Nat := (x.bootst.extractLsb' 0 4).toNat

end Sys2Proof.Machine
end

