-- ==== Sys2Proof/Machine/StateMem.lean ====
section
/-! DEFINITION. The state of global memory: the bytes at their homes, the copies that dies hold, the
writes in flight, and the page faults that wait for the management core (06_memory R139 to R148;
09_ordering R190, R191, R427; 15_security R280). -/

namespace Sys2Proof.Machine

/-- Who issued a write. -/
inductive Writer where
  | ctx (c : CtxId)
  | engine (c : CtxId) (op : Nat)
  | mgmt (die : Nat)
  /-- the CAPSINK unit of a slot (R229) -/
  | sink (die slot : Nat)
  /-- a unit of a launch that has been stopped (R38) -/
  | gone (launch : Nat)
  /-- the security core (R186, R291) -/
  | sec
  | other
  deriving DecidableEq, Repr

/-- A part of a write that is seen whole or not at all (R198): an address and its bytes. -/
structure WritePart where
  pa   : Nat
  data : List Byte
  /-- the key its bytes are encrypted under: an entry of the key ring, none for plaintext (R280) -/
  key  : Option Nat
  /-- its bytes come from a poisoned source (R148) -/
  poison : Bool
  /-- the coherence index each byte received at its home -/
  idx  : List Nat
  /-- it has been performed at its home -/
  done : Bool
  /-- dies that have applied it -/
  applied : List Nat
  deriving DecidableEq, Repr

/-- What an atomic does at its home (R297). -/
structure AmoReq where
  op      : AmoOp
  size    : Nat
  operand : Word
  compare : Word
  /-- where the page table entry lies, whose D bit a write sets (R297) -/
  loc     : Nat
  /-- the old value, once the home has performed the atomic -/
  old     : Option Word
  /-- the writes the atomic read from -/
  srcs    : List Nat
  deriving DecidableEq, Repr

/-- A write in flight (R190). -/
structure MemWrite where
  id     : Nat
  die    : Nat
  src    : Writer
  /-- the instruction and the virtual address, for the fault record (R248) -/
  pc     : Word
  va     : Word
  causal : Bool
  stamp  : Stamp
  parts  : List WritePart
  amo    : Option AmoReq
  /-- writes that happen before it (R192) -/
  after  : List Nat
  /-- writes that happen before it for the agents of its own die only: a fence of a smaller scope counts there (R187) -/
  near   : List Nat
  /-- performed once every die has dropped its copies: a write to a duplicated page (R147) -/
  dup    : Bool
  /-- a fence, a release or a later write counts on where it has been applied, and no older write takes its place there
  any more (R192, R427) -/
  fixed  : Bool
  /-- it has been acknowledged by its home (R48) -/
  acked  : Bool
  /-- a remote or host write whose system-scope acknowledgement has come (R200) -/
  sysAck : Bool
  deriving DecidableEq, Repr

/-- A write that sets out: what it does, and nothing of it performed or acknowledged. -/
def MemWrite.issue (die : Nat) (src : Writer) (pc va : Word) (causal : Bool) (parts : List WritePart) (amo : Option AmoReq)
    (after : List Nat) : MemWrite :=
  { id := 0, die := die, src := src, pc := pc, va := va, causal := causal, stamp := Stamp.zero, parts := parts, amo := amo,
    after := after, near := [], dup := false, fixed := false, acked := false, sysAck := false }

/-- A part of a write that sets out. -/
def WritePart.issue (pa : Nat) (data : List Byte) (key : Option Nat) (poison : Bool) : WritePart :=
  { pa := pa, data := data, key := key, poison := poison, idx := [], done := false, applied := [] }

/-- The value a die other than the home sees at a byte, and its place in coherence order; `own` marks
the die's own causal write, which it reads before the home performs it (R190). -/
structure Copy where
  val : Byte
  idx : Nat
  /-- the write the value came from, while in flight -/
  src : Option Nat
  own : Bool
  deriving DecidableEq, Repr

/-- Who met a page fault (R146, R147). -/
inductive Faulter where
  | ctx (c : CtxId)
  | engine (c : CoreId) (e : Engine)
  deriving DecidableEq, Repr

/-- A page fault that waits for the management core (R146). -/
structure PageFault where
  who   : Faulter
  code  : FCode
  va    : Word
  /-- FREC's address word, should it be declined: the virtual address, or the physical address of a
  retired channel (R31) -/
  addr  : Word
  /-- the access, when it is a context's -/
  kind  : Option AccKind
  pc    : Word
  deps  : List Nat
  dup   : Bool
  /-- the access is a replay that TRET.R issued (R253) -/
  replay : Bool
  deriving DecidableEq, Repr

/-- Global memory. -/
structure MemSt where
  /-- bytes at their home, canonical (R139): HBM by PA[38:0], other packages and host memory by
  2^52 + PA; the plaintext under the key its block was written with -/
  bytes  : List Host.Cell
  /-- the coherence index of the last write performed at a byte -/
  idx    : Map Nat
  /-- what other dies see, by die × 2^39 + address; an absent copy is the home's byte -/
  copies : Map Copy
  /-- writes that each address last came from, while in flight: address to write -/
  lastW  : Map Nat
  /-- the mask of the dies that hold copies of a line, bit 4 for the I/O die, kept by the line's home slice (R139): by line
  number, an absent mask is empty -/
  masks  : Map Nat
  /-- sectors whose code is not good (R148), by sector number -/
  ecc    : Map EccSt
  /-- the entry of the key ring each 16-byte block was written under (R280); an absent block holds its
  bytes as they are stored -/
  keys   : Map Nat
  /-- what a 16-byte block of a dirty sector held before it was dirty, with its key (R285) -/
  dirty  : Map (BitVec 128 × Option Nat)
  /-- frames sealed by the key service, by frame number, with their slot (R283) -/
  sealed : Map Nat
  writes : List MemWrite
  faults : Map PageFault
  /-- retired channels (R31) and channels paused for recalibration (R33) -/
  retired : List Nat
  paused : List Nat
  deriving DecidableEq, Repr

/-- Memory after power-on: no byte is listed, and an unlisted byte reads as zero. -/
def MemSt.reset : MemSt :=
  { bytes := [], idx := [], copies := [], lastW := [], masks := [], ecc := [], keys := [], dirty := [], sealed := [],
    writes := [], faults := [], retired := [], paused := [] }

end Sys2Proof.Machine
end

