-- ==== Sys2Proof/Machine/StateWork.lean ====
section
/-! DEFINITION. The state of work: the objects with their completion counters (02_work R35 to R40), the
records of SUBMIT, and what dispatch and the firmware of a die keep (12_scheduling R236 to R246). -/

namespace Sys2Proof.Machine

/-- The status of an object (R37). -/
inductive ObjStatus where
  | running | done | cancelled | faulted
  deriving DecidableEq, Repr

/-- How far a unit of a launch has come (R42): its record waits in a bind FIFO, it is loaded, runs, has been cut
(R258), has met its end condition and reports it, or has been counted (R36). -/
inductive UnitStage where
  | placed | loaded | running | cut | reporting | ended
  deriving DecidableEq, Repr

/-- The kind of a node (R41, R104). -/
inductive NodeKind where
  | ctx | region | sieve | mtile | capsink
  deriving DecidableEq, Repr

/-- What dispatch keeps of a context that has been cut, beside its save area (R258, log entry 90): the operands that its
parked instruction captured, the status of its engines with its chain and held word, its waiting traps and replay record,
what orders its accesses, and its halted operations as far as they have come. -/
structure KeptCtx where
  captured : List (Word × Captured)
  mest   : EngStat
  cest   : EngStat
  chain  : Option ChainState
  held   : Option HeldWord
  traps  : List TrapReq
  replay : Option AccKind
  replayDeps : List Nat
  order  : Order
  ops    : List EngOp
  deriving DecidableEq, Repr

/-- What dispatch keeps of a unit that has been cut (R155, R258): the logical ports that have carried EOS, the tokens
written through handle-bound ports, the launch and home of the capsule it holds, what belongs to a context; the plane of a
region, with the MTILE nodes that have carried EOS; and the capsules of the launch in receive buffers of cores on which it
has no slot. -/
structure CutKept where
  eosIn  : List Nat
  eosOut : List Nat
  rings  : List (Nat × Nat)
  cap    : Option (Nat × Nat)
  ctx    : Option KeptCtx
  plane  : Option Plane
  tiles  : List (Nat × Bool × Bool)
  caps   : List (CoreId × Capsule)
  deriving DecidableEq, Repr

/-- A unit of which dispatch keeps nothing. -/
def CutKept.empty : CutKept :=
  { eosIn := [], eosOut := [], rings := [], cap := none, ctx := none, plane := none, tiles := [], caps := [] }

/-- A unit of a launch: its index in the graph, its kind, its slot, how far it has come, and whether its image is
idempotent (R101). -/
structure LaunchUnit where
  index : Nat
  kind  : NodeKind
  die   : Nat
  slot  : Nat
  stage : UnitStage
  idem  : Bool
  /-- the operator class of a REGION, the role of an MTILE with its tiles (R104, R206) -/
  param : Nat
  tiles : List Nat
  kept  : Option CutKept
  deriving DecidableEq, Repr

/-- An edge of a launch (R103, R51): its ends by unit index and port, its depth, and whether it is the feedback edge of
a cycle (R258). -/
structure LaunchEdge where
  prod     : Nat
  pport    : Nat
  cons     : Nat
  cport    : Nat
  depth    : Nat
  /-- initial tokens at the consumer (R44) -/
  init     : Nat
  feedback : Bool
  deriving DecidableEq, Repr

/-- What a completion entry says beyond the object (R234). -/
structure Report where
  status : Nat
  fcode  : Nat
  detail : Nat
  deriving DecidableEq, Repr

/-- A work object on its home die (R35, R36). -/
structure WorkObj where
  level   : Level
  id      : Nat
  world   : Nat
  /-- the home die (R36) -/
  home    : Nat
  counter : Nat
  status  : ObjStatus
  /-- the enclosing object one level up, 0 for a job -/
  parent  : Nat
  /-- the host queue of the job and the TAG of the submission (R234) -/
  queue   : Nat
  tag     : Word
  prio    : Nat
  /-- nothing more will be added: the submission of a job is closed, the launches of a graph are issued -/
  closed  : Bool
  /-- its counter has been raised: a graph has had a launch, a phase a graph -/
  opened  : Bool
  /-- the address of the binary of a graph (R233) -/
  va      : Word
  /-- the phase that must complete first (R233) -/
  pred    : Nat
  /-- the watchdog of a launch, and the cycle of its start token (R246) -/
  wdog    : Nat
  started : Option Nat
  units   : List LaunchUnit
  edges   : List LaunchEdge
  /-- the placement of a launch, until it is dropped (R53) -/
  placing : Option Placement
  /-- sink places that are retired for the launch (R229) -/
  deadSinks : List (BitVec 17)
  /-- a marker cut of the launch is in progress (R258) -/
  cutting : Bool
  report  : Report
  /-- the completion entry has been written -/
  posted  : Bool
  deriving DecidableEq, Repr

/-- A completion entry before it is written (R234). -/
structure CqEntry where
  tag    : Word
  id     : Nat
  level  : Nat
  status : Nat
  fcode  : Nat
  detail : Nat
  deriving DecidableEq, Repr

/-- A host queue pair (R232): its registers, the phase bit of its next completion entry (R234), and the entries that a
full ring holds back. -/
structure QueueSt where
  sqbase : Word
  cqbase : Word
  qctl   : Word
  sqw    : Nat
  sqr    : Nat
  cqw    : Nat
  cqr    : Nat
  /-- entries of the completion ring that the host has not read: those that are not free (R234) -/
  unread : Nat
  phase  : Bool
  held   : List CqEntry
  deriving DecidableEq, Repr

/-- A queue after reset (R232). -/
def QueueSt.reset : QueueSt :=
  { sqbase := 0, cqbase := 0, qctl := 0, sqw := 0, sqr := 0, cqw := 0, cqr := 0, unread := 0, phase := true, held := [] }

/-- A placement in the mapper's cache (R53): the home die that keeps it, the graph section, the retired parts and the
spare map it was made for. -/
structure CachedPlace where
  die    : Nat
  graph  : List Byte
  retired : List (Nat × Nat)
  spare  : List (Nat × Nat × Nat)
  place  : Placement
  deriving DecidableEq, Repr

/-- The work of the package: objects (R35, R36), host queues (R232), MSI-X vectors that were sent (R234), and the mapper
caches, the placement used last first (R53). -/
structure WorkSt where
  objs   : List WorkObj
  queues : Map QueueSt
  msi    : List (Nat × Nat)
  cache  : List CachedPlace
  deriving DecidableEq, Repr

/-- No work. -/
def WorkSt.reset : WorkSt := { objs := [], queues := [], msi := [], cache := [] }

/-- A record that SUBMIT queued (R236). -/
structure SubmitRec where
  entry : BitVec 512
  world : Nat
  cid   : Word
  /-- it came from U mode, and the launch and home die of its unit -/
  user  : Bool
  launch : Nat
  home  : Nat
  deriving DecidableEq, Repr

/-- What dispatch and the firmware of a die keep. -/
structure SchedSt where
  /-- the host queue whose entry was taken last (R235) -/
  lastQueue : Nat
  /-- the slot served last, and the cycle at which it was served (R240) -/
  served  : Nat
  servedAt : Option Nat
  submits : List SubmitRec
  /-- records that SUBMIT has queued since reset (R236) -/
  submitted : Nat
  /-- xz_bindst (R243) -/
  badRec  : Bool
  badSlot : Bool
  full    : Bool
  lastSlot : Nat
  /-- the object xz_cnt selects: level code and id -/
  cntLevel : Nat
  cntId   : Nat
  /-- the heartbeat: its period, the cycle of the last KICK, whether half has been reported (R246) -/
  period  : Nat
  kicked  : Nat
  half    : Bool
  /-- the ROM scheduler runs (R245) -/
  rom     : Bool
  /-- xz_fwstage.ST, and the cycle at which a commit began to wait for OK (R244) -/
  stage   : Nat
  commitAt : Option Nat
  /-- MTIMECMP (R242) -/
  mtimecmp : Word
  deriving DecidableEq, Repr

/-- After a reset of the die's compute portion (R240, R242, R243). -/
def SchedSt.reset : SchedSt :=
  { lastQueue := 63, served := 547, servedAt := none, submits := [], submitted := 0, badRec := false,
    badSlot := false, full := false, lastSlot := 0, cntLevel := 0, cntId := 0, period := 16000000, kicked := 0,
    half := false, rom := false, stage := 0, commitAt := none, mtimecmp := BitVec.allOnes 64 }

/-- An entry of the world map (R277); `nv` and `nworld` take effect when BUSY clears. -/
structure WorldEnt where
  v      : Bool
  world  : Nat
  busy   : Bool
  nv     : Bool
  nworld : Nat
  deriving DecidableEq, Repr

/-- A part with no world. -/
def WorldEnt.reset : WorldEnt := { v := false, world := 0, busy := false, nv := false, nworld := 0 }

end Sys2Proof.Machine
end

