-- ==== Sys2Proof/Machine/StateLink.lean ====
section
/-! DEFINITION. The state of a die's routers and bridges: slot tables (07_streams R158 to R160, R428), tokens and
packet beats on links (R157, R161), and bridges with their flits, streams and retry buffers (R162 to R165). -/

namespace Sys2Proof.Machine

/-- A token on a link, or at the output stage of a router (R158): the router it reaches with the input it comes by,
the cycle in which it is there, and the client output it has passed, if it is on its last link. -/
structure TokFlight where
  tok    : Token
  launch : Nat
  circ   : Nat
  router : Nat
  inp    : Nat
  ready  : Nat
  here   : Bool
  out    : Option Nat
  deriving DecidableEq, Repr

/-- The classes of packets (R161). -/
inductive Chan where
  | request | reply | capsule | system
  deriving DecidableEq, Repr

/-- A packet beat at a router input (R161): the capsule it is part of, its world, and where it goes. -/
structure Beat where
  cap    : Nat
  chan   : Chan
  world  : Nat
  place  : BitVec 17
  router : Nat
  inp    : Nat
  ready  : Nat
  deriving DecidableEq, Repr

/-- An entry of a flit (R163): its tag and value; the token's clock and launch, or the beat it carries. -/
structure FlitEntry where
  tag    : Word
  val    : Vec
  clock  : Option Stamp
  launch : Nat
  beat   : Option Beat
  deriving DecidableEq, Repr

/-- A flit with its sequence number (R163, R164). -/
structure Flit where
  seq     : Nat
  entries : List FlitEntry
  deriving DecidableEq, Repr

/-- One end of a bridge (R163, R164): entries waiting for a flit, the next sequence number, the flits on their way,
the retry buffer; and as a receiver the sequence number it expects, the entries it has taken of that flit, and the
failures of it. -/
structure LinkSt where
  queue  : List FlitEntry
  seq    : Nat
  wire   : List Flit
  retry  : List Flit
  expect : Nat
  taken  : Nat
  fails  : Nat
  failed : Bool
  /-- lanes that spare lanes replace, and lanes that none is left for: the link runs at reduced width (R32) -/
  spared : List Nat
  lost   : List Nat
  /-- the lane that retrains or recalibrates (R32, R33) -/
  retrain : Option Nat
  deriving DecidableEq, Repr

/-- A stream entry at the sending side of a bridge (R164): its circuit on this die and the allowance left. -/
structure TxStream where
  circ   : Nat
  world  : Nat
  launch : Nat
  vec    : Bool
  left   : Nat
  /-- the allowance that its placement gave it -/
  allow  : Nat
  deriving DecidableEq, Repr

/-- A stream entry at the receiving side (R164): its circuit on this die, its tokens, its marker entry, and, on the
I/O die, the bridge and stream it goes on to (R162). -/
structure RxStream where
  circ   : Nat
  world  : Nat
  launch : Nat
  vec    : Bool
  buf    : List Token
  marker : Option Token
  fwd    : Option (Nat × Nat)
  deriving DecidableEq, Repr

/-- The routers and bridges of a die. Router (a, b) is number 16 a + b; bridges 0 to 2 of a compute die are its
outputs 35 to 37, and those of the I/O die are its 32 scale-up ports and, from 32, the four compute dies. -/
structure DieNet where
  /-- slot entries: ((router × 40 + output) × 2 + bank) × 64 + slot; an absent entry is 0 (R160) -/
  tab    : Map (BitVec 32)
  sel    : Map (BitVec 40)
  act    : Map (BitVec 40)
  /-- the selection at the last slot 0, until the outputs have switched to it -/
  next   : Option (Map (BitVec 40))
  /-- the cycle, plus one, in which an output last sent -/
  used   : Map Nat
  transit : List TokFlight
  beats  : List Beat
  /-- beats that wait to enter the buffer of a router input (R161) -/
  feed   : List Beat
  /-- the world an output's packets served last (R161) -/
  turn   : Map Nat
  links  : Map LinkSt
  tx     : Map TxStream
  rx     : Map RxStream
  deriving DecidableEq, Repr

/-- A bridge end after reset. -/
def LinkSt.reset : LinkSt :=
  { queue := [], seq := 0, wire := [], retry := [], expect := 0, taken := 0, fails := 0, failed := false, spared := [],
    lost := [], retrain := none }

/-- The network of a die after reset. -/
def DieNet.reset : DieNet :=
  { tab := [], sel := [], act := [], next := none, used := [], transit := [], beats := [], feed := [], turn := [], links := [],
    tx := [], rx := [] }

end Sys2Proof.Machine
end

