-- ==== Sys2Proof/Machine/StateMgmt.lean ====
section
/-! DEFINITION. The state of a management core (12_scheduling R242 to R245; 06_memory R145; 14_generation R273 to
R275): its hart, its memory banks, the translation invalidation register and the sequencer. -/

namespace Sys2Proof.Machine

/-- The hart (R242): integer and floating-point registers, the pc, the mode, the CSRs by their numbers, and what a
load-reserved or a wait for interrupts leaves. -/
structure HartSt where
  x    : Vector Word 32
  f    : Vector Word 32
  pc   : Word
  /-- it is in machine mode -/
  mach : Bool
  /-- CSRs that are not those of R243: an absent one is 0 -/
  csr  : Map Word
  /-- the address that a load-reserved holds, and the places of its bytes in coherence order -/
  resv : Option (Nat × List Nat)
  /-- WFI has stopped it -/
  wfi  : Bool
  deriving DecidableEq, Repr

/-- The hart after reset: in machine mode at the start of its code bank, with its interrupts off. -/
def HartSt.reset : HartSt :=
  { x := Vector.replicate 32 0, f := Vector.replicate 32 0, pc := 0, mach := true, csr := [], resv := none, wfi := false }

/-- The sequencer of a die (R273); `run` and `wait` are the launches, by key, that runs and that waits for its start
token. -/
structure SeqSt where
  iters : Nat
  ncfg  : Nat
  stop  : Bool
  go    : Bool
  /-- GRAPH of each SEQCFG -/
  cfg   : Map Nat
  iter  : Nat
  cur   : Nat
  st    : Nat
  /-- TOKBUD.CAP and SEQTOK -/
  cap   : Nat
  v     : Bool
  ptok  : Nat
  dtok  : Nat
  run   : Option Nat
  wait  : Option Nat
  /-- the world of the graphs -/
  world : Nat
  deriving DecidableEq, Repr

/-- A sequencer after reset (R273). -/
def SeqSt.reset : SeqSt :=
  { iters := 0, ncfg := 0, stop := false, go := false, cfg := [], iter := 0, cur := 0, st := 0, cap := 0, v := false,
    ptok := 0, dtok := 0, run := none, wait := none, world := 0 }

/-- A management core: its hart, its SRAM banks (R244), TLBINV (R145), the sequencer, xz_rmq's tag, and the steps of a
firmware swap and of a reset of its die. -/
structure MgmtSt where
  hart    : HartSt
  code    : Map Byte
  staging : Map Byte
  data    : Map Byte
  /-- TLBINV and BUSY (R145) -/
  tlbinv  : Word
  tlbBusy : Bool
  /-- what orders the accesses of the core, which are causal (R186, R190) -/
  order   : Order
  seq     : SeqSt
  /-- the tag that the last write of xz_rmq was given (R243) -/
  rmqTag  : Nat
  /-- SLOT and ADDR of xz_bindq as they read (R243) -/
  bindq   : Word
  /-- OK of xz_fwcommit as it reads (R243) -/
  fwOk    : Bool
  /-- the image that the die committed last has set OK, in a swap that has not reached the boot flash (R244) -/
  fwPassed : Bool
  /-- the die has been reset by watchdog step 3 and has not passed its self-check (R246) -/
  check   : Bool
  deriving DecidableEq, Repr

/-- A management core after reset. -/
def MgmtSt.reset : MgmtSt :=
  { hart := HartSt.reset, code := [], staging := [], data := [], tlbinv := 0, tlbBusy := false, order := Order.reset,
    seq := SeqSt.reset, rmqTag := 0, bindq := 0, fwOk := false, fwPassed := false, check := false }

end Sys2Proof.Machine
end

