-- ==== Sys2Proof/Machine/StateDie.lean ====
section
/-! DEFINITION. The state of a compute die outside its cores: its clocks, its world map, its slots
(12_scheduling R237, R238; 13_faults R256; 15_security R277). -/

namespace Sys2Proof.Machine

/-- A bind record as it lies in memory (R238): 32 bytes, the lowest address in the low bits. -/
abbrev BindRec := BitVec 256

/-- A CAPSINK unit (R229): its launch and world, its ring, the capsules it has received, its store acknowledgements, and
the header writes that it awaits, with the launch that each capsule counts on. -/
structure SinkSt where
  launch  : Nat
  world   : Nat
  base    : Word
  slots   : Nat
  count   : Nat
  pending : Nat
  hdrs    : List (Nat × Nat)
  /-- a write to its ring has faulted -/
  failed  : Bool
  deriving DecidableEq, Repr

/-- A capsule in a spill area (R228): what the area does not hold of it. -/
structure Spilled where
  slot   : Nat
  cap    : Capsule
  place  : BitVec 17
  sender : CtxId
  /-- the write of its slot -/
  write  : Nat
  /-- a cancel has discarded it (R38) -/
  gone   : Bool
  deriving DecidableEq, Repr

/-- A spill register set (R228) with the capsules of its area, oldest first. -/
structure SpillSt where
  base  : Word
  slots : Nat
  head  : Nat
  tail  : Nat
  caps  : List Spilled
  deriving DecidableEq, Repr

/-- No spill area. -/
def SpillSt.reset : SpillSt := { base := 0, slots := 0, head := 0, tail := 0, caps := [] }

/-- A slot: its bind FIFO, oldest first, and its state area (R256). -/
structure SlotSt where
  fifo    : List BindRec
  state   : Nat
  cmd     : Nat
  res     : Nat
  code    : Nat
  frecimg : Vector Word 4
  saveva  : Word
  trapv0  : Word
  /-- the record of the unit that is bound, and how far its binding has come (R42) -/
  bound   : Option BindRec
  loaded  : Bool
  sink    : Option SinkSt
  /-- the cycle from which a record at its head has waited while the slot is free (R246) -/
  since   : Nat
  deriving DecidableEq, Repr

/-- A slot after reset (R256). -/
def SlotSt.reset : SlotSt :=
  { fifo := [], state := 0, cmd := 0, res := 0, code := 0, frecimg := Vector.replicate 4 0, saveva := 0,
    trapv0 := 0, bound := none, loaded := false, sink := none, since := 0 }

/-- What the management core has been told and has not yet acted on (R242, R246). -/
inductive Notice where
  /-- a slot's unit froze or halted, with its code (R242 bit 20) -/
  | nodeFault (slot : Nat) (code : Nat)
  /-- a page fault by its number (R146) -/
  | pageFault (id : Nat)
  /-- a numeric event class of a context passed its threshold (R125); the host queue and TAG of its launch at that time
  (R234) -/
  | numEvent (c : CtxId) (cls : Nat) (dest : Option (Nat × Word))
  /-- a fault code of delivery M (R250) with an address -/
  | report (code : FCode) (addr : Nat)
  /-- a bridge link failed (R163) -/
  | linkFailure (bridge : Nat)
  /-- a capsule was discarded, with its ID (R230), or its spill write faulted (R228) -/
  | capsule (id : Nat)
  /-- a unit was dropped for a capsule, a watchdog, or the heartbeat (R246) -/
  | watchdog (launch : Nat)
  | heartbeat
  | timer
  /-- a service operation was refused because its part is under service (R34) -/
  | busy
  /-- a lane loss (R32) -/
  | laneLoss (bridge : Nat)
  deriving DecidableEq, Repr

/-- A compute die. -/
structure DieSt where
  cyc   : Nat
  vc    : Stamp
  slots : Map SlotSt
  /-- the notices of the management core, oldest first (R242) -/
  notices : List Notice
  sched : SchedSt
  /-- the world map: cores at 0, regions at 128, Sieves at 160 (R277) -/
  wmap  : Map WorldEnt
  /-- the physical core of a logical number, where it is not that number (R11) -/
  spare : Map Nat
  /-- logical numbers that no working core stands for (R11) -/
  retired : List Nat
  net   : DieNet
  /-- stream ports of regions at 2 × region + port, and of Sieves at 64 + 4 × Sieve + port (R203, R262) -/
  cin   : Map InPort
  cout  : Map OutPort
  /-- the spill register sets of the management core, by world (R228) -/
  spill : Map SpillSt
  regions : Map RegionSt
  rm    : RmSt
  sieves : Map SieveSt
  mgmt : MgmtSt
  deriving DecidableEq, Repr

/-- A die after reset. -/
def DieSt.reset : DieSt :=
  { cyc := 0, vc := Stamp.zero, slots := [], notices := [], sched := SchedSt.reset, wmap := [], spare := [],
    retired := [], net := DieNet.reset, cin := [], cout := [], spill := [], regions := [], rm := RmSt.reset, sieves := [],
    mgmt := MgmtSt.reset }

end Sys2Proof.Machine
end

