-- ==== Sys2Proof/Machine/StateNet.lean ====
section
/-! DEFINITION. The state of the networks between clients: capsules on their way, tokens in circuits,
slot tables and bridges (07_streams R157 to R165, R428; 11_capsules R226 to R230). -/

namespace Sys2Proof.Machine

/-- A capsule in the network (R226, R227): the place word it is sent to, what the place is, who sent
it, and whether it waits at the last router of its route. -/
structure CapFlight where
  cap     : Capsule
  place   : BitVec 17
  sender  : CtxId
  waiting : Bool
  /-- the cycle count of the router's die when it began to wait -/
  since   : Nat
  /-- its beats that have not passed the last router's output (R161) -/
  left    : Nat
  /-- the die and router where its beats entered the network -/
  die     : Nat
  router  : Nat
  /-- the write of its spill slot, while it is being moved to the spill area (R227) -/
  escaping : Option Nat
  /-- that write has met a fault at its home (R228) -/
  spoiled : Bool
  deriving DecidableEq, Repr

/-- A credit on its way from a consumer's port back along the circuit of its edge (R152). -/
structure CreditFlight where
  ref    : PortRef
  circ   : Nat
  launch : Nat
  deriving DecidableEq, Repr

/-- A cancel on its way to the home die of its object (R38 to R40, R306): the context that waits for the
result with its late result, the object, and whether the caller is in U mode, with its launch and home. -/
structure CancelReq where
  src    : Option (CtxId × Nat)
  level  : Level
  id     : Nat
  world  : Nat
  user   : Bool
  launch : Nat
  home   : Nat
  /-- the object has been cancelled, and its units are still to stop (R40) -/
  decided : Bool
  deriving DecidableEq, Repr

/-- A capsule of a launch of the package that has left for another package (R226): its launch, with the world, and its
number. -/
structure AwayCap where
  world  : Nat
  launch : Nat
  id     : Nat
  deriving DecidableEq, Repr

/-- The networks. -/
structure NetSt where
  flights : List CapFlight
  credits : List CreditFlight
  cancels : List CancelReq
  away    : List AwayCap
  deriving DecidableEq, Repr

/-- The networks after reset. -/
def NetSt.reset : NetSt := { flights := [], credits := [], cancels := [], away := [] }

end Sys2Proof.Machine
end

