-- ==== Sys2Proof/Machine/StateSec.lean ====
section
/-! DEFINITION. The state of the security core: the key slots and the keys they have held (15_security
R280 to R285), its mailbox, measurements, SPDM responder and collective groups (R282, R287 to R291). -/

namespace Sys2Proof.Machine

/-- The kind of a key slot (R282). -/
inductive KeyKind where
  | xts | gcm
  deriving DecidableEq, Repr

/-- The state of a key slot (R281). -/
inductive KeyPhase where
  | empty | active | revoking | revoked
  deriving DecidableEq, Repr

/-- A key slot (R281, R282); `ring` names its key in the ring of keys, `flush` is the mode of its revocation and `mark`
the number from which operations began after it (R285). -/
structure KeySlot where
  kind  : KeyKind
  phase : KeyPhase
  world : Nat
  nonce : Nat
  base  : Nat
  count : Nat
  tagpa : Nat
  ring  : Nat
  flush : Bool
  mark  : Nat
  deriving DecidableEq, Repr

/-- A key that a slot has held: stored bytes stay under it when the slot is loaded anew (R280). -/
structure RingKey where
  slot : Nat
  key  : BitVec 512
  deriving DecidableEq, Repr

/-- The security core's keys. -/
structure KeySt where
  slots : Map KeySlot
  ring  : List RingKey
  deriving DecidableEq, Repr

/-- A collective group (R290): its members with the digests bound, and its collective buffers. -/
structure GroupSt where
  id      : Nat
  members : List (Nat × BitVec 256)
  ranges  : List (Nat × Nat)
  deriving DecidableEq, Repr

/-- What the far end of a scale-up port showed at its last link-up (R290): its package, its measurement digest, and
whether the signature was good under the key of its certificate; and what the package showed: its own digest, and the
signature of the package key over it. -/
structure PortPeer where
  pkg    : Nat
  digest : BitVec 256
  good   : Bool
  own    : BitVec 256
  sig    : BitVec 3072
  deriving DecidableEq, Repr

/-- The security core beside its keys: MEAS0 to MEAS15 (R287), how far an SPDM requester has come and the transcript
(R288), MBST (R282), the groups, and the far ends of the scale-up ports (R290). -/
structure SecSt where
  meas : Vector (BitVec 256) 16
  spdm : Nat
  transcript : List Byte
  busy : Bool
  ready : Bool
  groups : List GroupSt
  peers : Map PortPeer
  deriving DecidableEq, Repr

/-- After package reset (R287). -/
def SecSt.reset : SecSt :=
  { meas := Vector.replicate 16 0, spdm := 0, transcript := [], busy := false, ready := false, groups := [],
    peers := [] }

/-- A slot after reset (R281). -/
def KeySlot.reset : KeySlot :=
  { kind := .xts, phase := .empty, world := 0, nonce := 0, base := 0, count := 0, tagpa := 0, ring := 0,
    flush := false, mark := 0 }

/-- No key is loaded. -/
def KeySt.reset : KeySt := { slots := [], ring := [] }

end Sys2Proof.Machine
end

