-- ==== Sys2Proof/Machine/State.lean ====
section
/-! DEFINITION. The state of the package as plain data, the ways a step can stop, and the state after
reset. -/

namespace Sys2Proof.Machine

/-- Why a step stops. -/
inductive Fault where
  /-- Raised by an event that names a part the package does not have (a fifth compute die, a 129th
  core). Safe: no such step exists in the hardware. -/
  | noSuchPart
  deriving DecidableEq, Repr

/-- Why an instruction has no meaning. -/
inductive Refusal where
  /-- Answered by an arm of the dispatcher for an instruction the model gives no meaning. Safe: nothing
  can be proved of what the instruction does. -/
  | notModelled (mnemonic : String)
  deriving DecidableEq, Repr

/-- A move of the package that the agenda names (the model's own, log entry 7): a context of a core
issues, a step of the table of events happens, the cycle counter of a die advances, or an instruction
cache loses or gains a word (R149). -/
inductive Move where
  | issue (c : CoreId)
  | event (i : Instr)
  | elapse (die n : Nat)
  /-- a word leaves an instruction cache (R149) -/
  | evict (c : CoreId) (a : Nat)
  /-- a word ahead of the program counter is fetched (R149) -/
  | window (c : CtxId) (k : Nat)
  /-- an operation that is active reads a byte of scratch or the Pantry early (R176, R180) -/
  | sample (k : CoreId) (e : Engine) (a : Nat)
  /-- bits of a sector are upset: one, or more (R148) -/
  | upset (sector : Nat) (single : Bool)
  /-- bits of a granule of scratch or of the Pantry are upset (R148) -/
  | upsetCore (c : CoreId) (pantry : Bool) (granule : Nat) (single : Bool)
  /-- the host writes its own memory -/
  | hostWrite (a : Nat) (data : List Byte)
  /-- the host reads a doubleword of the BAR0 of a function (R24) -/
  | hostReg (fn off : Nat)
  /-- the firmware of a die relays a numeric event to the host (R125, R234) -/
  | relay (die : Nat)
  /-- firmware sets the table root of a world (R141) -/
  | setRoot (world pa : Nat)
  /-- a part of a load that is single-copy atomic is read before the rest (R198) -/
  | loadPart (c : CtxId) (home : Bool) (k : Nat)
  /-- a line leaves the L2 slice of a die (R139), with what the die saw of it (R427) -/
  | dropCopies (die line : Nat)
  /-- the address generator of a copy engine walks the page of a row ahead of use (R144) -/
  | prefetch (c : CoreId) (row : Nat)
  /-- the security core carries out the next step of bring-up (R26) -/
  | bootStep
  /-- management firmware extends one of MEAS10 to MEAS15 (R287) -/
  | measure (n : Nat) (bs : List Byte)
  /-- firmware begins to change the spare map entry of a core (R30) -/
  | remapStart (c : CoreId)
  /-- firmware retires a region (R53, R216) -/
  | retireRegion (die region : Nat)
  /-- the PHY of a bridge recalibrates one lane (R33) -/
  | laneRecal (die node lane : Nat)
  /-- the lane of a link that retrains is ready (R32) -/
  | laneDone (die node : Nat)
  /-- the host sets the size of the BAR2 of the physical function, as a power of two (R24) -/
  | resizeBar2 (log : Nat)
  /-- a packet of a class that is not held takes the present slot of an output (R161) -/
  | traffic (die router out : Nat) (chan : Chan) (world : Nat)
  /-- an entry of a stream leaves the receive buffer of another package (R164, R165) -/
  | farAllow (port sid : Nat)
  /-- a capsule of a launch leaves the launch in another package (R50) -/
  | awayDone (world launch : Nat)
  /-- a place of another package comes into a world, or leaves it (R221) -/
  | setPlace (place : BitVec 17) (world : Option Nat)
  deriving DecidableEq, Repr

/-- The package. -/
structure State where
  /-- the context whose instruction is executed (the model's own) -/
  cur    : CtxId
  /-- the moves that happen next, in order; when it is empty the core of `cur` issues (the model's own) -/
  agenda : List Move
  /-- numbers the free values and the identities of operations (the model's own) -/
  fresh  : Nat
  ctxs   : Table CtxId CtxSt
  cores  : Table CoreId CoreSt
  dies   : Map DieSt
  mem    : MemSt
  net    : NetSt
  keys   : KeySt
  work   : WorkSt
  dev    : DevSt
  sec    : SecSt
  /-- the package's own number (R72, R221) -/
  pkg    : Nat
  /-- the physical address of the root table of each world (R141) -/
  roots  : Map Nat
  /-- the places of other packages that are in a world (R221): the place bits to the world -/
  far    : Map Nat
  deriving DecidableEq, Repr

/-- The package after reset. -/
def State.reset : State :=
  { cur := { die := 0, core := 0, ctx := 0 }, agenda := [], fresh := 0, ctxs := [], cores := [],
    dies := [], mem := MemSt.reset, net := NetSt.reset, keys := KeySt.reset, work := WorkSt.reset, dev := DevSt.reset,
    sec := SecSt.reset, pkg := 0, roots := [], far := [] }

end Sys2Proof.Machine
end

