-- ==== Sys2Proof/Machine/Ops.lean ====
section
/-! DEFINITION. The named operations the meanings are written over: access to the parts of the state,
registers and latches, issue and switching (R55 to R57), advancing past an instruction (R65, R74),
taking a trap (R247 to R250, R255) and returning from one (R253). -/

namespace Sys2Proof.Machine

/-! ## Parts of the state -/

/-- A context. -/
def State.ctx (s : State) (c : CtxId) : CtxSt := Table.get s.ctxs CtxSt.reset c

/-- Replace a context. -/
def State.setCtx (s : State) (c : CtxId) (x : CtxSt) : State := { s with ctxs := Table.put s.ctxs c x }

/-- Change a context. -/
def State.onCtx (s : State) (c : CtxId) (f : CtxSt → CtxSt) : State := s.setCtx c (f (s.ctx c))

/-- A core. -/
def State.core (s : State) (c : CoreId) : CoreSt := Table.get s.cores CoreSt.reset c

/-- Replace a core. -/
def State.setCore (s : State) (c : CoreId) (x : CoreSt) : State :=
  { s with cores := Table.put s.cores c x }

/-- Change a core. -/
def State.onCore (s : State) (c : CoreId) (f : CoreSt → CoreSt) : State := s.setCore c (f (s.core c))

/-- A compute die. -/
def State.die (s : State) (d : Nat) : DieSt := Map.get s.dies DieSt.reset d

/-- Change a compute die. -/
def State.onDie (s : State) (d : Nat) (f : DieSt → DieSt) : State :=
  { s with dies := Map.put s.dies d (f (s.die d)) }

/-- Change global memory. -/
def State.onMem (s : State) (f : MemSt → MemSt) : State := { s with mem := f s.mem }

/-- Change the registers of a context. -/
def State.onRegs (s : State) (c : CtxId) (f : Regs → Regs) : State :=
  s.onCtx c fun x => { x with regs := f x.regs }

/-- Change the control registers of a context. -/
def State.onCtl (s : State) (c : CtxId) (f : Ctl → Ctl) : State :=
  s.onCtx c fun x => { x with ctl := f x.ctl }

/-- Change what a context waits for. -/
def State.onWait (s : State) (c : CtxId) (f : Wait → Wait) : State :=
  s.onCtx c fun x => { x with wait := f x.wait }

/-- A slot of a die. -/
def State.slot (s : State) (d n : Nat) : SlotSt := Map.get (s.die d).slots SlotSt.reset n

/-- Change a slot of a die. -/
def State.onSlot (s : State) (d n : Nat) (f : SlotSt → SlotSt) : State :=
  s.onDie d fun x => { x with slots := Map.put x.slots n (f (s.slot d n)) }

/-- Tell the management core of a die (R242). -/
def State.notify (s : State) (d : Nat) (n : Notice) : State :=
  s.onDie d fun x => { x with notices := x.notices ++ [n] }

/-- A fresh number of the model. -/
def State.bump (s : State) : State := { s with fresh := s.fresh + 1 }

/-! ## Bytes (R2) -/

/-- Bytes as a number, the lowest address in the low bits. -/
def leNat : List Byte → Nat
  | [] => 0
  | b :: rest => b.toNat + 256 * leNat rest

/-- The low `n` bytes of a number, lowest first. -/
def leBytes (v : Nat) : Nat → List Byte
  | 0 => []
  | n + 1 => BitVec.ofNat 8 v :: leBytes (v / 256) n

/-- A byte of a store whose absent bytes are zero. -/
def putByte (m : Map Byte) (a : Nat) (b : Byte) : Map Byte := if b = 0 then Map.drop m a else Map.put m a b

/-- Consecutive bytes of a store whose absent bytes are zero. -/
def putBytes (m : Map Byte) (a : Nat) : List Byte → Map Byte
  | [] => m
  | b :: rest => putBytes (putByte m a b) (a + 1) rest

/-- Consecutive bytes of a store whose absent bytes are zero. -/
def getBytes (m : Map Byte) (a : Nat) : Nat → List Byte
  | 0 => []
  | n + 1 => Map.get m 0 a :: getBytes m (a + 1) n

/-! ## Registers (R58, R59) -/

/-- A general register; g0 reads as zero (R58). -/
def Regs.getG (r : Regs) (n : GReg) : Word := if n = 0 then 0 else r.g[n.toNat]

/-- A predicate register; k0 reads as all ones (R58). -/
def Regs.getK (r : Regs) (n : KReg) : Word := if n = 0 then BitVec.allOnes 64 else r.k[n.toNat]

/-- A vector register. -/
def Regs.getV (r : Regs) (n : VReg) : Vec := r.v[n.toNat]

/-- A latch. -/
def Regs.getL (r : Regs) (n : LReg) : Latch := r.l[n.toNat]

/-- A loop register; true names z1 (R64). -/
def Regs.getZ (r : Regs) (z : Bool) : LoopReg := if z then r.z[1] else r.z[0]

/-- Write a general register; a write to g0 is discarded (R58). -/
def Regs.setG (r : Regs) (n : GReg) (v : Word) : Regs :=
  if n = 0 then r else { r with g := r.g.set n.toNat v }

/-- Write a predicate register; a write to k0 is discarded (R58). -/
def Regs.setK (r : Regs) (n : KReg) (v : Word) : Regs :=
  if n = 0 then r else { r with k := r.k.set n.toNat v }

/-- Write a vector register. -/
def Regs.setV (r : Regs) (n : VReg) (v : Vec) : Regs := { r with v := r.v.set n.toNat v }

/-- Write a loop register. -/
def Regs.setZ (r : Regs) (z : Bool) (x : LoopReg) : Regs :=
  if z then { r with z := r.z.set 1 x } else { r with z := r.z.set 0 x }

/-- PushLatch of R9: the latches move down and l0 takes the new one. -/
def Regs.push (r : Regs) (x : Latch) : Regs := { r with l := #v[x, r.l[0], r.l[1], r.l[2]] }

/-- The latches after a switch point (R56). -/
def Regs.invalidate (r : Regs) : Regs := { r with l := Vector.replicate 4 Latch.invalid }

/-- A scalar latch value. -/
def Latch.scalar (v : Word) : Latch :=
  { val := v.zeroExtend 512, isVec := false, valid := true, pend := none }

/-- A vector latch value. -/
def Latch.vector (v : Vec) : Latch := { val := v, isVec := true, valid := true, pend := none }

/-- Write a general register of a context and mark it written (R259). -/
def State.setG (s : State) (c : CtxId) (n : GReg) (v : Word) : State :=
  s.onCtx c fun x =>
    { x with regs := x.regs.setG n v,
             written := { x.written with g := x.written.g ||| (BitVec.ofNat 32 (2 ^ n.toNat)) } }

/-- Write a predicate register of a context and mark it written (R259). -/
def State.setK (s : State) (c : CtxId) (n : KReg) (v : Word) : State :=
  s.onCtx c fun x =>
    { x with regs := x.regs.setK n v,
             written := { x.written with k := x.written.k ||| (BitVec.ofNat 8 (2 ^ n.toNat)) } }

/-- Write a vector register of a context and mark it written (R259). -/
def State.setV (s : State) (c : CtxId) (n : VReg) (v : Vec) : State :=
  s.onCtx c fun x =>
    { x with regs := x.regs.setV n v,
             written := { x.written with v := x.written.v ||| (BitVec.ofNat 32 (2 ^ n.toNat)) } }

/-- Push a latch of a context. -/
def State.push (s : State) (c : CtxId) (x : Latch) : State := s.onRegs c fun r => r.push x

/-- Invalidate the latches of a context (R56). -/
def State.invalidate (s : State) (c : CtxId) : State := s.onRegs c fun r => r.invalidate

/-- The program counter of a context. -/
def State.pc (s : State) (c : CtxId) : Word := (s.ctx c).regs.pc

/-- Set the program counter of a context. -/
def State.setPc (s : State) (c : CtxId) (a : Word) : State := s.onRegs c fun r => { r with pc := a }

/-! ## Fault codes (R254) -/

/-- The number of a fault code (R254). -/
def FCode.num : FCode → Nat
  | .illMajor => 0x01 | .illFunc => 0x02 | .illRsv => 0x03 | .illOpnd => 0x04 | .priv => 0x05
  | .latchStale => 0x08 | .tileUncfg => 0x09 | .tileShape => 0x0A
  | .hbound => 0x10 | .hinval => 0x11 | .hlevel => 0x12 | .align => 0x13
  | .engOvf => 0x18 | .engUnf => 0x19 | .engIll => 0x1A | .engArg => 0x1B
  | .pgNp => 0x20 | .pgPerm => 0x21 | .pgSize => 0x22 | .pgDupw => 0x23
  | .sealLd => 0x28 | .sealCpy => 0x29 | .sealGath => 0x2A | .sealDbg => 0x2B | .sealAuth => 0x2C
  | .keyRevoked => 0x2D | .eccUe => 0x30 | .eccRmw => 0x31 | .poison => 0x32
  | .streamProto => 0x38 | .portUnbound => 0x39 | .capHops => 0x40 | .capPlace => 0x41
  | .capFmt => 0x42 | .codecOver => 0x48 | .codecUnder => 0x49 | .numThresh => 0x58
  | .memberChanged => 0x5C | .dblFault => 0x60 | .watchdog => 0x68

/-- The fault code of a decode fault (R76, R91). -/
def FCode.ofDecode (illMajor illFunc illRsv illOpnd : Bool) : FCode :=
  if illMajor then .illMajor else if illFunc then .illFunc else if illRsv then .illRsv
  else if illOpnd then .illOpnd else .engIll

/-! ## Capsule headers and handles (R131 to R133, R220 to R222) -/

/-- A byte of a capsule header (R220). -/
def capByte (h : CapHdr) (n : Nat) : Nat := (h.extractLsb' (8 * n) 8).toNat

/-- Replace a byte of a capsule header. -/
def capSetByte (h : CapHdr) (n v : Nat) : CapHdr :=
  (h &&& ~~~(BitVec.ofNat 512 (0xFF * 2 ^ (8 * n)))) ||| BitVec.ofNat 512 (v % 256 * 2 ^ (8 * n))

/-- A 32-bit word of a capsule header. -/
def capWord (h : CapHdr) (n : Nat) : BitVec 32 := h.extractLsb' (32 * n) 32

/-- Replace a 32-bit word of a capsule header. -/
def capSetWord (h : CapHdr) (n : Nat) (v : BitVec 32) : CapHdr :=
  (h &&& ~~~(BitVec.ofNat 512 (0xFFFFFFFF * 2 ^ (32 * n)))) ||| BitVec.ofNat 512 (v.toNat * 2 ^ (32 * n))

/-- CUR of a header (R220). -/
def capCur (h : CapHdr) : Nat := capByte h 4
/-- NHOP of a header (R220). -/
def capNhop (h : CapHdr) : Nat := capByte h 5
/-- FLAGS.FLT of a header (R220). -/
def capFlt (h : CapHdr) : Bool := capByte h 6 % 2 = 1
/-- The data bytes of a capsule: ROWS × RB × 16 (R220). -/
def capSize (h : CapHdr) : Nat := capByte h 8 * capByte h 9 * 16
/-- The place bits of a place or hop word (R221). -/
def placeOf (w : BitVec 32) : BitVec 17 := w.extractLsb' 0 17

/-- The header of a capsule marked faulted (R225, R231): FCODE, FHOP and FLAGS.FLT. -/
def capFaulted (h : CapHdr) (code : Nat) : CapHdr :=
  let fhop := if capCur h = 0 then 0xFF else capCur h - 1
  capSetByte (capSetByte (capSetByte h 12 code) 13 fhop) 6 (capByte h 6 ||| 1)

/-- The first byte of scratch that a context's capsule handle uses (R132): the four capsule buffers
follow the 1,980 units of the handles. -/
def capBase (ctx : Nat) : Nat := (1980 + 17 * ctx) * 1024

/-- Rows of a handle, or the depth of a Pantry handle (R131). -/
def HandleSt.rows (h : HandleSt) : Nat := (h.desc.extractLsb' 0 16).toNat
/-- Row bytes / 16 (R131). -/
def HandleSt.rb (h : HandleSt) : Nat := (h.desc.extractLsb' 16 12).toNat
/-- Row bytes. -/
def HandleSt.rowBytes (h : HandleSt) : Nat := h.rb * 16
/-- Rows of metadata of a Pantry handle (R131). -/
def HandleSt.metaRows (h : HandleSt) : Nat := (h.rows + 31) / 32

/-- The bytes of a shape at a level (R131, R132). -/
def shapeBytes (level1 : Bool) (desc : BitVec 32) : Nat :=
  let rows := (desc.extractLsb' 0 16).toNat
  let data := rows * ((desc.extractLsb' 16 12).toNat * 16)
  if level1 then data + (rows + 31) / 32 * 512 else data

/-- The units of a shape (R132). -/
def shapeUnits (level1 : Bool) (desc : BitVec 32) : Nat := (shapeBytes level1 desc + 1023) / 1024

/-- The data descriptor of a capsule (R220, R222). -/
def capDesc (h : CapHdr) : BitVec 32 :=
  BitVec.ofNat 32 (capByte h 10 % 16 * 2 ^ 28 + capByte h 9 * 2 ^ 16 + capByte h 8)

/-- The capsule handle of a context that holds a capsule (R222). -/
def capHandle (ctx : Nat) (h : CapHdr) : HandleSt :=
  { level1 := false, rl := false, desc := capDesc h, base := 1980 + 17 * ctx,
    units := shapeUnits false (capDesc h), slot := none, owner := ctx }

/-- What a number names for a context (R133): its own capsule handle while it holds a capsule that is
not being sent (R226), or an allocated handle. -/
def State.handle (s : State) (c : CtxId) (n : Nat) : Option HandleSt :=
  if n < 0xF0 then Map.find (s.core c.coreId).handles n
  else if n = 0xFC + c.ctx then
    match (s.ctx c).cap with
    | some k => if k.sending.isSome then none else some (capHandle c.ctx k.hdr)
    | none => none
  else none

/-! ## What a tile remembers of a handle (R63) -/

/-- A tile record no longer names a usable handle (R63). -/
def TileRec.unlink (n : Nat) : TileRec → TileRec
  | .saved sh h live => .saved sh h (live && h != n)
  | .backing sh h row byte live => .backing sh h row byte (live && h != n)
  | r => r

/-- A clean origin no longer names a usable handle (R63). -/
def Origin.unlink (n : Nat) : Origin → Origin
  | .backing h row byte live => .backing h row byte (live && h != n)
  | .zero => .zero

/-- No tile record or clean origin of a core names a handle any more (R63). -/
def CoreSt.unlinkHandle (x : CoreSt) (n : Nat) : CoreSt :=
  { x with recs := x.recs.map fun (p : Nat × TileRec) => (p.1, p.2.unlink n),
           tiles := x.tiles.map fun (p : Nat × TileSt) => (p.1, { p.2 with origin := p.2.origin.unlink n }) }

/-- A launch by one number: ids are unique within a world (R36). -/
def launchKey (world id : Nat) : Nat := world * 2 ^ 32 + id

/-! ## Issue and switching (R55 to R57) -/

/-- The context's unit may execute: its slot runs or is being cut, and nothing has stopped it or is about to
(R42, R255, R258). -/
def State.running (s : State) (c : CtxId) : Bool :=
  let st := (s.slot c.die c.slot).state
  (st == 2 || st == 5) && (s.ctx c).unit.isSome && !(s.core c.coreId).remap &&
  (s.ctx c).wait.stop == .none

/-- The physical input port of a logical input, with its width (R150). -/
def State.inPhys (s : State) (c : CtxId) (p : Nat) : Option (Nat × Bool) :=
  match (s.ctx c).unit with
  | none => none
  | some u => Map.find u.ports p

/-- The physical output port of a logical output, with its width (R150). -/
def State.outPhys (s : State) (c : CtxId) (p : Nat) : Option (Nat × Bool) :=
  match (s.ctx c).unit with
  | none => none
  | some u => Map.find u.outs p

/-- A physical input port of a core. -/
def State.inPort (s : State) (c : CoreId) (p : Nat) : InPort := Map.get (s.core c).inp InPort.reset p

/-- A physical output port of a core. -/
def State.outPort (s : State) (c : CoreId) (p : Nat) : OutPort := Map.get (s.core c).out OutPort.reset p

/-- Change a physical input port of a core. -/
def State.onIn (s : State) (c : CoreId) (p : Nat) (f : InPort → InPort) : State :=
  s.onCore c fun x => { x with inp := Map.put x.inp p (f (s.inPort c p)) }

/-- Change a physical output port of a core. -/
def State.onOut (s : State) (c : CoreId) (p : Nat) (f : OutPort → OutPort) : State :=
  s.onCore c fun x => { x with out := Map.put x.out p (f (s.outPort c p)) }

/-- The token at the head of a port that no marker has closed (R258). -/
def InPort.head (p : InPort) : Option Token := if p.closed then none else p.buf.head?

/-- A token other than a marker is at the head of a logical input (R377). -/
def State.tokenAt (s : State) (c : CtxId) (p : Nat) : Bool :=
  match s.inPhys c p with
  | none => false
  | some (n, _) => (s.inPort c.coreId n).head.isSome

/-- The output buffer of a logical output has a free entry (R151). -/
def State.roomAt (s : State) (c : CtxId) (p : Nat) : Bool :=
  match s.outPhys c p with
  | none => false
  | some (n, _) => (s.outPort c.coreId n).buf.length < 4

/-- An engine of a core. -/
def State.eng (s : State) (c : CoreId) (e : Engine) : EngSt :=
  match e with
  | .me => (s.core c).me
  | .ce => (s.core c).ce

/-- The operations of a context that a cut has halted (R258). -/
def CoreSt.haltedOps (x : CoreSt) (ctx : Nat) (e : Engine) : List EngOp :=
  (x.halted.filter fun p => p.1 == e && p.2.ctx == ctx).map fun p => p.2

/-- The context's operations captured or chain-held and not yet complete (R171 PEND). -/
def State.pendCount (s : State) (c : CtxId) (e : Engine) : Nat :=
  let x := s.eng c.coreId e
  let n (o : Option EngOp) : Nat := match o with
    | some op => if op.ctx = c.ctx then 1 else 0
    | none => 0
  n x.shadow + n x.active + ((s.core c.coreId).haltedOps c.ctx e).length + (if e = .me && (s.ctx c).held.isSome then 1 else 0)

/-- The context of a core whose held matrix word its copy passed on first (R93, R185). -/
def State.passedWord (s : State) (k : CoreId) : Option Nat :=
  let order (n : Nat) : Option Nat := match (s.ctx (k.ctx n)).held with
    | some h => h.passed
    | none => none
  let first := ((List.range 4).filterMap order).min?
  (List.range 4).find? fun n => first.isSome && order n == first

/-- An operation that a restore brings back to an engine: its unit runs (R261). -/
def State.returning (s : State) (k : CoreId) (e : Engine) : Option EngOp :=
  ((s.core k).halted.find? fun p => p.1 == e && s.running (k.ctx p.2.ctx)).map fun p => p.2

/-- A launch word may enter the shadow set: it is free, and no word that a copy passed on, and no operation that comes back
after a cut, comes first (R93, R261). -/
def State.shadowFree (s : State) (k : CoreId) (e : Engine) : Bool :=
  (s.eng k e).shadow.isNone && (s.returning k e).isNone && (e == .ce || (s.passedWord k).isNone)

/-- The granules of an access, as addresses of scratch in granules. -/
def granulesOf (h : HandleSt) (row byte len : Nat) : List Nat :=
  let rb := (h.desc.extractLsb' 16 12).toNat
  let first := h.base * 64 + row * rb + byte / 16
  (List.range ((byte % 16 + len + 15) / 16)).map fun i => first + i

/-- Every granule has the given full bit. -/
def CoreSt.fullAre (x : CoreSt) (gs : List Nat) (want : Bool) : Bool :=
  gs.all fun g => (Map.find x.full g).isSome == want

/-- A part of a die in its world map (R277). -/
def State.part (s : State) (d n : Nat) : WorldEnt := Map.get (s.die d).wmap WorldEnt.reset n

/-- The world of a core (R71). -/
def State.worldOf (s : State) (c : CoreId) : Nat := (s.part c.die c.core).world

/-- The oldest capsule of a world in a receive buffer that context `n` may take (R225, R308). -/
def CoreSt.capFor (x : CoreSt) (world n : Nat) : Option Capsule :=
  x.rxbuf.find? fun k => (k.hdr.extractLsb' 56 8).toNat == world && k.sink.isNone && (k.taken.isNone || k.taken == some n)

/-- A capsule of the core's world is in a receive buffer (R225). -/
def State.capReady (s : State) (c : CtxId) : Bool :=
  ((s.core c.coreId).capFor (s.worldOf c.coreId) c.ctx).isSome

/-! ## Writes in flight (R190, R197) -/

/-- The dies that keep a clock (R190). -/
def allDies : List Nat := [0, 1, 2, 3, 4]

/-- A cell of another package or of host memory. -/
def cellRemote (a : Nat) : Bool := 2 ^ 52 ≤ a

/-- A cell is host memory: PA[43] (R139). -/
def cellHost (a : Nat) : Bool := cellRemote a && a.testBit 43

/-- A write in flight by its number. -/
def State.write (s : State) (id : Nat) : Option MemWrite := s.mem.writes.find? fun w => w.id == id

/-- A die has applied every part. -/
def MemWrite.appliedAt (w : MemWrite) (e : Nat) : Bool := w.parts.all fun p => p.applied.contains e

/-- A write has been applied at a die: it has left the list, or the die has applied it. -/
def State.isApplied (s : State) (e id : Nat) : Bool :=
  match s.write id with
  | none => true
  | some w => w.appliedAt e

/-- The writes still in flight among some. -/
def State.liveOf (s : State) (ids : List Nat) : List Nat :=
  ids.filter fun n => s.mem.writes.any fun w => w.id == n

/-- Join two lists of writes. -/
def joinIds (a b : List Nat) : List Nat := a ++ b.filter fun n => !a.contains n

/-- A release other than a write may be placed: the writes that happen before it are applied on every
die, so that they happen before whatever its receiver does (R192). -/
def State.mayRelease (s : State) (c : CtxId) : Bool :=
  (s.liveOf (s.ctx c).order.afterA).all fun n =>
    allDies.all fun e => s.isApplied e n

/-- The dies a scope covers (R187). -/
def scopeDies (sc : Scope) (d : Nat) : List Nat :=
  match sc with
  | .ctx | .core | .die => [d]
  | .pkg | .sys => allDies

/-- A write is acknowledged within a scope (R197, R200, R335): by its home and every die of the scope; a
write to another package counts at system scope only. -/
def MemWrite.ackedIn (w : MemWrite) (sc : Scope) (d : Nat) : Bool :=
  let far := w.parts.any fun p => cellRemote p.pa && !cellHost p.pa
  let applied := (scopeDies sc d).all fun e => w.appliedAt e
  match sc with
  | .sys => w.acked && w.sysAck && applied
  | .ctx | .core | .die | .pkg => far || (w.acked && applied)

/-- What a fence waits for (R197): the context's reads have returned; unless it only acquires, its writes,
and the writes they read from, are acknowledged within the scope. -/
def State.fenceReady (s : State) (c : CtxId) (sc : Scope) (kind : FenceKind) : Bool :=
  let reads := !(s.ctx c).wait.lates.any fun l => match l.src with
    | .amo _ => true
    | .divide _ | .cancel _ _ => false
  let own := (s.mem.writes.filter fun w => w.src == .ctx c).all fun w => w.ackedIn sc c.die
  let read := (s.liveOf (s.ctx c).order.readW).all fun n =>
    (scopeDies sc c.die).all fun e => s.isApplied e n
  reads && (kind == .acq || (own && read))

/-- Step 1 of END: QFENCE with every bit would complete, and no late result is pending (R328). -/
def State.endQueues (s : State) (c : CtxId) : Bool :=
  s.fenceReady c .pkg .full && s.pendCount c .me == 0 && s.pendCount c .ce == 0 && (s.ctx c).sent.isEmpty &&
    (s.ctx c).wait.lates.isEmpty

/-- Step 2 of END: the store-acknowledgement count of the unit is 0 (R48). -/
def State.endAcked (s : State) (c : CtxId) : Bool :=
  match (s.ctx c).unit with
  | some u => u.pending == 0
  | none => true

/-- The conditions of WAIT that hold now (R408): ports by number, then [16] to [18]. -/
def State.waitBits (s : State) (c : CtxId) : BitVec 19 :=
  let ports := (List.range 16).foldl
    (fun acc p => if s.tokenAt c p then acc ||| BitVec.ofNat 19 (2 ^ p) else acc) (0 : BitVec 19)
  let b16 : BitVec 19 := if s.pendCount c .me = 0 then 0x10000 else 0
  let b17 : BitVec 19 := if s.pendCount c .ce = 0 then 0x20000 else 0
  let b18 : BitVec 19 := if s.capReady c then 0x40000 else 0
  ports ||| b16 ||| b17 ||| b18

/-- The timeout of a WAIT has passed (R408). -/
def State.timedOut (s : State) (c : CtxId) (t0 : Nat) (n : Word) : Bool :=
  n ≠ 0 && n.toNat ≤ (s.die c.die).cyc - t0

/-- The condition of a parked context holds now (R55). A scratch wait on a handle that has been freed
is tested again, so that it raises HINVAL (R338); so is one on a capsule handle whose capsule has gone. -/
def State.blockHolds (s : State) (c : CtxId) (p : Park) : Bool :=
  match p with
  | .scratch h row byte len want =>
    match s.handle c h with
    | none => true
    | some x => (s.core c.coreId).fullAre (granulesOf x row byte len) want
  | .tokenIn p => s.tokenAt c p
  | .roomOut p => s.roomAt c p
  | .shadow e =>
    s.shadowFree c.coreId e && (e == .ce || (s.ctx c).held.isNone)
  | .engine e => s.pendCount c e == 0
  | .cond mask t0 n => (s.waitBits c &&& mask) ≠ 0 || s.timedOut c t0 n
  | .capsule => s.capReady c && (s.ctx c).cap.isNone
  | .ending (some p) _ => s.tokenAt c p
  | .ending none (some p) => s.roomAt c p
  | .ending none none => s.endQueues c && s.endAcked c
  | .capMove .. | .load | .pageFault _ | .dupWrite _ => false

/-- A trap sends the context's held capsule first, or has none to send: a fault's send waits, as any send does, until
what it releases is applied (R226 step 1, R231). -/
def State.capMayGo (s : State) (c : CtxId) (t : TrapReq) : Bool :=
  !t.isFault || s.mayRelease c ||
  match (s.ctx c).cap with
  | some k => k.sending.isSome
  | none => true

/-- A trap may be taken now: no late result is pending, no load awaits its data, and a capsule that it sends may go
(R231, R247, R293, R344). -/
def State.mayTrap (s : State) (c : CtxId) (t : TrapReq) : Bool :=
  let w := (s.ctx c).wait
  w.lates.isEmpty && w.load.isNone && s.capMayGo c t

/-- A trap of the context may be taken now. -/
def State.trapReady (s : State) (c : CtxId) : Bool :=
  match (s.ctx c).wait.traps with
  | [] => false
  | t :: _ => s.mayTrap c t

/-- A trap of the context is taken before it issues anything more: a precise fault, a replay's fault
(R253), or an engine fault, which is taken at the next instruction boundary (R173). -/
def State.mustTrap (s : State) (c : CtxId) : Bool :=
  (s.ctx c).wait.traps.any fun t => t.resume.isSome || (t.engine && t.code != 0x58)

/-- The context can issue when it is selected (R55): it runs, no fetch is outstanding, and either it
is not parked, or its condition holds, or a trap wakes it (R247). -/
def State.ready (s : State) (c : CtxId) : Bool :=
  let w := (s.ctx c).wait
  s.running c && w.fetch.isNone && (!s.mustTrap c || s.trapReady c) &&
  match w.park with
  | none => true
  | some p => s.blockHolds c p || s.trapReady c

/-- The first ready context in round-robin order after `n` (R55), `n` itself last. -/
def State.nextReady (s : State) (c : CoreId) (n : Nat) : Option Nat :=
  [(n + 1) % 4, (n + 2) % 4, (n + 3) % 4, n % 4].find? fun i => s.ready (c.ctx i)

/-- A context gains issue: its count restarts (R57). -/
def State.gain (s : State) (c : CtxId) : State :=
  (s.onCore c.coreId fun x => { x with holder := some c.ctx, last := c.ctx }).onWait c fun w =>
    { w with overdue := false, issueStart := (s.die c.die).cyc }

/-- ISSUE_SELECT: the context gives up issue and the first ready one in round-robin order takes it
(R55). -/
def State.giveUp (s : State) (c : CtxId) : State :=
  let s := s.onCore c.coreId fun x => { x with holder := none, last := c.ctx }
  let s := s.onWait c fun w => { w with overdue := false }
  match s.nextReady c.coreId c.ctx with
  | some n => s.gain (c.coreId.ctx n)
  | none => s

/-- Another context of the core is ready. -/
def State.otherReady (s : State) (c : CtxId) : Bool :=
  [1, 2, 3].any fun i => s.ready (c.coreId.ctx ((c.ctx + i) % 4))

/-- The cycles for which a context has held issue (R57). -/
def State.issueCount (s : State) (c : CtxId) : Nat := (s.die c.die).cyc - (s.ctx c).wait.issueStart

/-- The context is overdue: its count has reached 4,096 (R57). -/
def State.isOverdue (s : State) (c : CtxId) : Bool := (s.ctx c).wait.overdue || decide (4096 ≤ s.issueCount c)

/-- A point at which an overdue context is forced out (R57): it gives up issue if another context is
ready, and otherwise its count restarts. -/
def State.forcePoint (s : State) (c : CtxId) : State :=
  if s.isOverdue c then
    if s.otherReady c then s.giveUp c else s.gain c
  else s

/-- FORCE_OUT_BACKSTOP at an instruction boundary (R57): the context gives up issue with its latches invalidated when
another is ready, and otherwise its count restarts. -/
def State.backstop (s : State) (c : CtxId) : State :=
  if s.otherReady c then ((s.invalidate c).onWait c fun w => { w with hold := none }).giveUp c else s.gain c

/-! ## Advancing (R65, R74) -/

/-- The loop test of one loop register at the end address `a` (R65): none when it does not end here,
otherwise the new register and whether it loops back. -/
def LoopReg.test (z : LoopReg) (a : Word) : Option (LoopReg × Bool) :=
  if z.active && z.fin == a then
    if 1 < z.remaining.toNat then some ({ z with remaining := z.remaining - 1 }, true)
    else some ({ z with remaining := 0, active := false }, false)
  else none

/-- LOOP_BACK: the loop test after the instruction at `a` (R65), z1 first, in U mode only; answers the
registers and the address to loop back to. -/
def Regs.loopTest (r : Regs) (a : Word) : Regs × Option Word :=
  let go (r : Regs) (z : Bool) : Regs × Option Word :=
    match (r.getZ z).test a with
    | none => (r, none)
    | some (x, back) => (r.setZ z x, if back then some x.start else none)
  match go r true with
  | (r1, some t) => (r1, some t)
  | (r1, none) => go r1 false

/-- A taken branch deactivates every active loop whose range does not contain the target (R65), in
U mode only. -/
def Regs.leaveLoops (r : Regs) (t : Word) : Regs :=
  let f (z : LoopReg) : LoopReg :=
    if z.active && !(z.start.toNat ≤ t.toNat && t.toNat ≤ z.fin.toNat) then { z with active := false }
    else z
  { r with z := #v[f r.z[0], f r.z[1]] }

/-- The waits a completed instruction ends. -/
def Wait.clear (w : Wait) (pc : Word) : Wait :=
  { w with park := none, hold := none, captured := w.captured.filter fun p => p.1 ≠ pc }

/-- Complete an instruction that does not branch (R65, R74): the next address, or the start of a loop
that ends here; `sw` says that the instruction is a switch point. -/
def State.advanceTo (s : State) (c : CtxId) (next : Word) (sw : Bool) : State :=
  let pc := s.pc c
  let s := s.onWait c fun w => w.clear pc
  if (s.ctx c).ctl.s then
    let s := s.setPc c next
    if sw then s.forcePoint c else s
  else
    match (s.ctx c).regs.loopTest pc with
    | (r, some t) =>
      ((s.onRegs c fun _ => { r.invalidate with pc := t })).forcePoint c
    | (r, none) =>
      let s := s.onRegs c fun _ => { r with pc := next }
      if sw then s.forcePoint c else s

/-- Complete an instruction that is one word long (R74). -/
def State.advance (s : State) (c : CtxId) (sw : Bool) : State := s.advanceTo c (s.pc c + 8) sw

/-- Complete a taken branch (R65, R303). -/
def State.branchTo (s : State) (c : CtxId) (t : Word) : State :=
  let pc := s.pc c
  let s := s.onWait c fun w => w.clear pc
  let s := s.onRegs c fun r =>
    let r := if (s.ctx c).ctl.s then r else r.leaveLoops t
    { r with pc := t }
  s.forcePoint c

/-! ## Taking a trap (R247 to R250, R255) -/

/-- The four words of a fault record (R248). -/
def frecOf (t : TrapReq) (resume : Word) (capSent : Bool) : Vector Word 4 :=
  let w0 : Nat := 0x80000000 + (if t.replay.isSome then 0x40000000 else 0)
    + (if t.precise then 0x20000000 else 0) + (if t.engine then 0x10000000 else 0)
    + (if capSent then 0x08000000 else 0) + t.kind % 4 * 256 + t.code % 256
  #v[BitVec.ofNat 64 w0, t.pc, t.addr, resume &&& ~~~(1 : Word)]

/-- The valid bit of FREC0. -/
def Ctl.frecV (x : Ctl) : Bool := x.frec[0].getLsbD 31

/-- The replay bit of FREC0. -/
def Ctl.frecR (x : Ctl) : Bool := x.frec[0].getLsbD 30

/-- DOUBLE_FAULT_HALT: the context halts, its slot becomes STATE 4 with DBL-FAULT, and the management
core is told (R249). -/
def State.halt (s : State) (c : CtxId) : State :=
  let s := s.onSlot c.die c.slot fun x =>
    { x with state := 4, code := 0x60, frecimg := (s.ctx c).ctl.frec }
  let s := s.onWait c fun w => { w with park := none, hold := none, traps := [] }
  (s.notify c.die (.nodeFault c.slot 0x60)).giveUp c

/-- NODE_FREEZE: the context freezes, its slot becomes STATE 3 with a copy of FREC, and the management
core is told (R255). -/
def State.freeze (s : State) (c : CtxId) : State :=
  let f := (s.ctx c).ctl.frec
  let code := (f[0].extractLsb' 0 8).toNat
  let s := s.onSlot c.die c.slot fun x => { x with state := 3, code := code, frecimg := f }
  let s := s.onWait c fun w => { w with park := none, hold := none }
  (s.notify c.die (.nodeFault c.slot code)).giveUp c

/-- Bytes of scratch from an address. -/
def CoreSt.scratchBytes (x : CoreSt) (a n : Nat) : List Byte :=
  getBytes x.scratch a n

/-- The route entry that a drain will read (R178): an MROUTE that performs before it may still write it. -/
def CoreSt.routeAt (x : CoreSt) (n : Nat) : Option (Word × Word) :=
  match x.me.active with
  | some a =>
    if a.instr = .mroute && (a.args.getD 0 0).toNat = n then some (a.args.getD 1 0, a.args.getD 2 0)
    else Map.find x.acc.route n
  | none => Map.find x.acc.route n

/-- A route leads to the capsule handle of a context (R177). -/
def routeToCap (ctx : Nat) (r : Option (Word × Word)) : Bool :=
  match r with
  | some (d, b) =>
    d.extractLsb' 0 4 == 3 || (d.extractLsb' 0 4 == 1 && (b.extractLsb' 32 32).toNat == 0xFC + ctx)
  | none => false

/-- The operation may write the capsule handle of its context (R226, R231). -/
def EngOp.mayWriteCap (op : EngOp) (x : CoreSt) : Bool :=
  let names (w : Option Word) : Bool := match w with
    | some w => (w.extractLsb' 32 32).toNat == 0xFC + op.ctx
    | none => false
  match op.instr with
  | .mdrain _ (some _) => true
  | .mdrain _ none =>
    match op.route with
    | some r => routeToCap op.ctx (some r)
    | none => routeToCap op.ctx (x.routeAt (op.args.getD 1 0).toNat)
  | .cpy .. | .cgath .. => names op.args[3]?
  | .cpyh | .cfill => names op.args[2]?
  | _ => false

/-- Discard the operations that satisfy a test. -/
def EngSt.discard (e : EngSt) (f : EngOp → Bool) : EngSt :=
  let g (o : Option EngOp) : Option EngOp := match o with
    | some op => if f op then none else some op
    | none => none
  { shadow := g e.shadow, active := g e.active }

/-- The operations of an engine, captured and not complete. -/
def EngSt.ops (e : EngSt) : List EngOp := e.active.toList ++ e.shadow.toList

/-- The operations of a core, those that a cut has halted with them. -/
def CoreSt.ops (x : CoreSt) : List EngOp := x.me.ops ++ x.ce.ops ++ x.halted.map fun p => p.2

/-- Zero the space of a handle, its full bits and its ECC state (R132). -/
def CoreSt.zeroSpace (x : CoreSt) (h : HandleSt) : CoreSt :=
  if h.level1 then
    let inP (a : Nat) : Bool := h.base * 8 ≤ a % 65536 && a % 65536 < (h.base + h.units) * 8
    { x with pantry := Map.dropIf x.pantry inP, pecc := Map.dropIf x.pecc fun g => inP (g * 16) }
  else
    let inS (a : Nat) : Bool := h.base * 1024 ≤ a && a < (h.base + h.units) * 1024
    { x with scratch := Map.dropIf x.scratch inS, full := Map.dropIf x.full fun g => inS (g * 16),
             fe := Map.dropIf x.fe fun g => inS (g * 16), ecc := Map.dropIf x.ecc fun g => inS (g * 16) }

/-- The space of freed handles is zeroed when no operation that named them is left (R134). -/
def CoreSt.sweepFreed (x : CoreSt) : CoreSt :=
  let live (n : Nat) : Bool := x.ops.any fun op => op.id == n
  let fs := x.freed.map fun f => { f with ops := f.ops.filter live }
  let done := fs.filter fun f => f.ops.isEmpty
  done.foldl (fun x f => x.zeroSpace f.h) { x with freed := fs.filter fun f => !f.ops.isEmpty }

/-- The operation arms a chain (R185). -/
def EngOp.chains (op : EngOp) : Bool :=
  match op.instr with
  | .cpy ch _ _ => ch
  | .cpyp ch _ _ _ => ch
  | _ => false

/-- Chaining copies of a context have ended by a fault or a cancel (R185): a word held for one is discarded; a chain that
one has armed discards the next matrix word. -/
def CtxSt.failChain (x : CtxSt) (ops : List Nat) : CtxSt :=
  let mine (h : HeldWord) : Bool := ops.contains h.copy && !h.ready
  { x with
    held := if x.held.any mine then none else x.held,
    chain := if ops.any fun n => x.chain == some (.running n) then some .failed else x.chain }

/-- A chaining copy of a context has completed (R185): a word held for it is to be passed on; a chain that it has armed ends
with the next matrix word. -/
def CtxSt.endChain (x : CtxSt) (op : Nat) : CtxSt :=
  { x with
    held := x.held.map fun h => if h.copy = op then { h with ready := true } else h,
    chain := if x.chain = some (.running op) then some .done else x.chain }

/-- Discard operations of a context (R168: only the pending count falls). -/
def State.discardOps (s : State) (c : CtxId) (f : EngOp → Bool) : State :=
  let g (op : EngOp) : Bool := op.ctx == c.ctx && f op
  let x := s.core c.coreId
  let chained := (x.ce.ops.filter fun op => g op && op.chains).map fun op => op.id
  let s := s.setCore c.coreId
    ({ x with me := x.me.discard g, ce := x.ce.discard g, halted := x.halted.filter fun p => !g p.2 }).sweepFreed
  s.onCtx c fun y => y.failChain chained

/-- A held matrix word may write the capsule handle (R231). -/
def HeldWord.mayWriteCap (h : HeldWord) (ctx : Nat) (x : CoreSt) : Bool :=
  match h.instr with
  | .mdrain _ (some _) => true
  | .mdrain _ none => routeToCap ctx (x.routeAt (h.args.getD 1 0).toNat)
  | _ => false

/-- CAPSULE_FAULT_SEND: on a fault while a capsule is held and not being sent (R231), the queued operations that
may write it are discarded, and one in progress ends at its next row boundary; the capsule is marked faulted and
its send begins, to its fault place, or to its sink when FLT was already set. Answers whether it is sent. -/
def State.faultCapsule (s : State) (c : CtxId) (code : Nat) : State × Bool :=
  match (s.ctx c).cap with
  | none => (s, false)
  | some k =>
    if k.sending.isSome then (s, false)
    else
      let toSink := capFlt k.hdr
      let x := s.core c.coreId
      let may (op : EngOp) : Bool := op.mayWriteCap x
      let active (op : EngOp) : Bool := x.me.active == some op || x.ce.active == some op
      let s := s.discardOps c fun op => may op && !active op
      let s := s.onCtx c fun y => match y.held with
        | some h => if h.mayWriteCap c.ctx x then { y with held := none } else y
        | none => y
      let stop (o : Option EngOp) : Option EngOp := o.map fun op =>
        if op.ctx = c.ctx && may op then { op with stopRow := true } else op
      let s := s.onCore c.coreId fun x =>
        { x with me := { x.me with active := stop x.me.active }, ce := { x.ce with active := stop x.ce.active } }
      let s := s.onCore c.coreId fun x => x.unlinkHandle (0xFC + c.ctx)
      let ops := ((x.me.active.toList ++ x.ce.active.toList).filter fun op => op.ctx == c.ctx && may op).map fun op => op.id
      let send : CapSend :=
        { place := placeOf (capWord k.hdr (if toSink then 4 else 5)), role := if toSink then .sink else .fault,
          id := s.fresh, clock := (s.die c.die).vc, ops := ops }
      let s := s.onCtx c fun y =>
        { y with cap := some { k with hdr := capFaulted k.hdr code, sending := some send }, sent := s.fresh :: y.sent }
      (s.bump, true)

/-- A cancel has been decided on an object that contains the unit of the context: its faults are discarded and reported to
no one (R257). -/
def State.underCancel (s : State) (c : CtxId) : Bool :=
  (s.ctx c).wait.stop == .cancel || s.net.cancels.any fun q => q.decided && q.src.any fun p => p.1 == c

/-- The management core is told of a page fault, unless the unit is under cancel (R146, R257). -/
def State.tellFault (s : State) (c : CtxId) (id : Nat) : State :=
  if s.underCancel c then s else s.notify c.die (.pageFault id)

/-- A trap that is taken while END waits has END's address in FREC1 (R329). -/
def Wait.trapPc (w : Wait) (t : TrapReq) (pc : Word) : TrapReq :=
  match w.park with
  | some (.ending ..) => { t with pc := pc }
  | _ => t

/-- Trap entry (R247): a held capsule is sent when the trap is a fault (R231), the record is written,
the latches are invalidated, and the context enters the handler in S mode, or freezes when TRAPV.EN is
0 (R255), or halts when a record is already held (R249). -/
def State.enterTrap (s : State) (c : CtxId) (t : TrapReq) : State :=
  if (s.ctx c).ctl.frecV then s.halt c
  else
    let (s, capSent) := if t.isFault then s.faultCapsule c t.code else (s, false)
    let x := s.ctx c
    let t := x.wait.trapPc t x.regs.pc
    let resume := t.resume.getD x.regs.pc
    let s := s.invalidate c
    let s := s.onWait c fun w => { w with park := none, hold := none, replay := t.replay, replayDeps := t.deps }
    let s := s.onCtl c fun k => { k with frec := frecOf t resume capSent }
    if x.ctl.trapv.getLsbD 0 then
      let s := s.onCtl c fun k => { k with ps := k.s, s := true }
      s.setPc c (x.ctl.trapv &&& ~~~(7 : Word))
    else s.freeze c

/-- A trap arises (R247): it is taken at once, unless a late result or a load of the context is outstanding or the
capsule that it sends must wait, and then it waits for TRAP_ENTRY (R231, R293, R344). -/
def State.raiseTrap (s : State) (c : CtxId) (t : TrapReq) : State :=
  if s.mayTrap c t && (s.ctx c).wait.traps.isEmpty then s.enterTrap c t
  else s.onWait c fun w => { w with traps := w.traps ++ [t], park := none, hold := none }

/-- The first waiting trap is taken (TRAP_ENTRY, R247), unless it must wait, and then the context holds issue (R231,
R293, R344). -/
def State.takeWaiting (s : State) (c : CtxId) : State :=
  match (s.ctx c).wait.traps with
  | [] => s
  | t :: rest =>
    if s.mayTrap c t then (s.onWait c fun w => { w with traps := rest }).enterTrap c t
    else s.onWait c fun w => { w with hold := some .late }

/-- Return from a trap (R253): the record is consumed, the mode of the interrupted code returns, and
the context resumes at FREC3; captured operands of instructions other than the one resumed are
dropped. A switch point. -/
def State.trapReturn (s : State) (c : CtxId) : State :=
  let x := s.ctx c
  let resume := x.ctl.frec[3]
  let s := s.invalidate c
  let s := s.onCtl c fun k =>
    { k with frec := k.frec.set 0 (k.frec[0] &&& ~~~(0xC0000000 : Word)), s := k.ps }
  let s := s.onWait c fun w =>
    { w with park := none, hold := none, captured := w.captured.filter fun p => p.1 = resume }
  (s.setPc c resume).forcePoint c

/-! ## Running an instruction -/

/-- How an instruction ends other than by completing. -/
inductive Stop where
  /-- Raise of R9: a precise fault with its address word -/
  | raise (code : FCode) (addr : Word)
  /-- a trap with every field given -/
  | trap (t : TrapReq)
  /-- Block of R9 with a false condition, and what the instruction captured at its first issue -/
  | park (p : Park) (cap : Option Captured)
  /-- the instruction holds issue and issues again (R57) -/
  | hold (h : Hold)
  /-- a waiting imprecise trap is taken before the instruction (R250) -/
  | forced
  /-- the instruction ends early in this state -/
  | done (s : State)

/-- The effect of an instruction: a value, or how it ended. -/
abbrev Act (α : Type) := Except Stop α

/-- Refuse to go on unless a condition holds, with a precise fault. -/
def must (b : Bool) (code : FCode) (addr : Word := 0) : Act Unit :=
  if b then .ok () else .error (.raise code addr)

/-- The trap of a precise fault of the instruction at `pc` (R250). -/
def preciseReq (code : FCode) (pc addr : Word) : TrapReq :=
  { kind := 0, code := code.num, pc := pc, addr := addr, resume := some pc, precise := true,
    engine := false, replay := none, deps := [], dest := .none, isFault := true }

/-- The trap of an imprecise fault of the instruction at `pc` (R250): it waits until something forces
it, and leaves a replay record when one is given (R252). -/
def impreciseReq (code : FCode) (pc addr : Word) (replay : Option AccKind) (dest : Dest) : TrapReq :=
  { kind := 0, code := code.num, pc := pc, addr := addr, resume := none, precise := false,
    engine := false, replay := replay, deps := [], dest := dest, isFault := true }

/-- A trap joins those that wait (R250). -/
def State.queueTrap (s : State) (c : CtxId) (t : TrapReq) : State :=
  s.onWait c fun w => { w with traps := w.traps ++ [t] }

/-- A precise fault ends the instruction of a context: nothing of it took effect. A waiting imprecise
trap is taken first, and the instruction issues again after it (R250). -/
def State.raisePrecise (s : State) (c : CtxId) (code : FCode) (addr : Word) : State :=
  if (s.ctx c).wait.traps.isEmpty then s.raiseTrap c (preciseReq code (s.pc c) addr)
  else s.takeWaiting c

/-- The context parks at a switch point (R55, R56). -/
def State.parkAt (s : State) (c : CtxId) (p : Park) (cap : Option Captured) : State :=
  let pc := s.pc c
  let s := s.invalidate c
  let s := s.onWait c fun w =>
    { w with park := some p, hold := none,
             captured := match cap with
               | some v => (pc, v) :: w.captured.filter fun q => q.1 ≠ pc
               | none => w.captured }
  s.giveUp c

/-- The state in which an instruction of a context leaves the package. -/
def settle (c : CtxId) (s : State) (r : Act State) : Host.Outcome State Fault Refusal :=
  match r with
  | .ok t => .next t
  | .error (.raise code addr) => .next (s.raisePrecise c code addr)
  | .error (.trap t) => .next (s.raiseTrap c t)
  | .error (.park p cap) => .next (s.parkAt c p cap)
  | .error (.hold h) => .next (s.onWait c fun w => { w with hold := some h })
  | .error .forced => .next (s.takeWaiting c)
  | .error (.done t) => .next t

/-- The guard of Formats A, B, C and M (R75). -/
def State.guardTrue (s : State) (c : CtxId) (g : Guard) : Bool :=
  ((s.ctx c).regs.getK g.k).getLsbD 0 != g.kn

/-- A waiting imprecise trap is taken before this instruction (R250). -/
def State.notForced (s : State) (c : CtxId) : Act Unit :=
  if (s.ctx c).wait.traps.isEmpty then .ok () else .error .forced

/-- Run a guarded instruction that is no switch point (R75): with a false guard it only advances. -/
def plainRun (g : Guard) (s : State) (f : CtxId → Act State) : Host.Outcome State Fault Refusal :=
  let c := s.cur
  settle c s (if s.guardTrue c g then f c else .ok (s.advance c false))

/-- Run a guarded instruction that is a switch point (R56, R75): the latches are invalid after it
whatever its guard. `f` reads its sources from the state it is given, in which they are still valid. -/
def switchRun (g : Guard) (s : State) (f : CtxId → Act State) : Host.Outcome State Fault Refusal :=
  let c := s.cur
  settle c s (do
    s.notForced c
    if s.guardTrue c g then f c else .ok ((s.invalidate c).advance c true))

/-- Registers that only S mode reaches (R71). -/
def cregPriv : Creg → Bool
  | .trapv | .frec _ => true
  | .cid | .cyc | .mode | .fpmode | .tshape | .tsaveh | .evcnt _ | .evth _ | .evwin | .evact | .ftbind | .world =>
    false

/-- The context may execute the instruction in its mode (R70, R215). -/
def State.privOk (s : State) (c : CtxId) : Instr → Bool
  | .tret _ _ => (s.ctx c).ctl.s
  | .mfc _ _ _ r => !cregPriv r || (s.ctx c).ctl.s
  | .mtc _ r _ => !(cregPriv r || r == .mode) || (s.ctx c).ctl.s
  | .rmreq _ _ _ _ => (s.ctx c).ctl.rcap
  | _ => true

/-- Run a guarded instruction that needs a privilege: PRIV is raised whatever the guard (R70, R76). -/
def privRun (i : Instr) (g : Guard) (s : State) (f : CtxId → Act State) : Host.Outcome State Fault Refusal :=
  let c := s.cur
  settle c s (do
    must (s.privOk c i) .priv
    if s.guardTrue c g then f c else .ok (s.advance c false))

/-- Run a guarded switch point that needs a privilege (R56, R70, R76). -/
def privSwitchRun (i : Instr) (g : Guard) (s : State) (f : CtxId → Act State) : Host.Outcome State Fault Refusal :=
  let c := s.cur
  settle c s (do
    s.notForced c
    must (s.privOk c i) .priv
    if s.guardTrue c g then f c else .ok ((s.invalidate c).advance c true))

end Sys2Proof.Machine
end

