-- ==== Sys2Proof/Machine/Operands.lean ====
section
/-! DEFINITION. The operand forms of the program instructions: sources from registers, latches and
immediates (R77, R59), the waits on late results (R293) and on waiting traps (R250), the results that
are written and pushed, and the dependencies values carry from loads (R193). -/

namespace Sys2Proof.Machine

/-! ## Waiting results and traps -/

/-- A late result of the context will be written to this destination (R293). -/
def State.isPending (s : State) (c : CtxId) (d : Dest) : Bool :=
  d != .none && (s.ctx c).wait.lates.any fun l => l.d == d

/-- A waiting imprecise trap came from an access to this destination (R250). -/
def State.trapOn (s : State) (c : CtxId) (d : Dest) : Bool :=
  d != .none && (s.ctx c).wait.traps.any fun t => t.dest == d

/-- A register may be read or written: it is not pending (R293), and no waiting trap names it (R250). -/
def State.useReg (s : State) (c : CtxId) (d : Dest) : Act Unit :=
  if s.trapOn c d then .error .forced
  else if s.isPending c d then .error (.hold .late)
  else .ok ()

/-- A general register as a destination. -/
def destG (d : GReg) : Dest := if d = 0 then .none else .g d

/-! ## Sources -/

/-- Read a general register. -/
def State.readG (s : State) (c : CtxId) (r : GReg) : Act Word := do
  s.useReg c (destG r)
  return (s.ctx c).regs.getG r

/-- Read a latch (R59): a waiting trap, whose instruction may have been to push what is read, is taken first (R250); an
invalid latch raises LATCH-STALE, a pending one holds issue (R293). -/
def State.readL (s : State) (c : CtxId) (r : LReg) : Act Latch :=
  let l := (s.ctx c).regs.getL r
  if !(s.ctx c).wait.traps.isEmpty then .error .forced
  else if !l.valid then .error (.raise .latchStale 0)
  else if l.pend.isSome then .error (.hold .late)
  else .ok l

/-- A scalar source (R77): a vector-tagged latch gives bits [63:0] (R59). -/
def State.readSrc (s : State) (c : CtxId) (a : Src) : Act Word :=
  match a with
  | .g r => s.readG c r
  | .l r => do
    let l ← s.readL c r
    return l.val.extractLsb' 0 64

/-- The second source of Format A (R77). -/
def State.readSrc2 (s : State) (c : CtxId) (b : Src2) : Act Word :=
  match b with
  | .reg a => s.readSrc c a
  | .imm v => .ok (v.signExtend 64)

/-- The row or index source of Format M (R78): none reads as zero. -/
def State.readIdx (s : State) (c : CtxId) (b : Option Src) : Act Word :=
  match b with
  | none => .ok 0
  | some a => s.readSrc c a

/-- Read a vector register. -/
def State.readV (s : State) (c : CtxId) (r : VReg) : Act Vec := do
  s.useReg c (.v r)
  return (s.ctx c).regs.getV r

/-- The address of a global access (R344): base, index and displacement modulo 2^64. -/
def State.gloAddr (s : State) (c : CtxId) (x : GloAddr) : Act Word := do
  let a ← s.readSrc c x.a
  let b ← s.readIdx c x.b
  return a + b + x.imm.signExtend 64

/-! ## Dependencies (R193) -/

/-- The key of a general register in the dependency map. -/
def depG (r : GReg) : Nat := r.toNat
/-- The key of a predicate register in the dependency map. -/
def depK (r : KReg) : Nat := 32 + r.toNat
/-- The key of a vector register in the dependency map. -/
def depV (r : VReg) : Nat := 64 + r.toNat
/-- The key of a latch in the dependency map. -/
def depL (r : LReg) : Nat := 96 + r.toNat

/-- The key of a source. -/
def srcKey : Src → Nat
  | .g r => depG r
  | .l r => depL r

/-- The keys of the second source of Format A. -/
def src2Keys : Src2 → List Nat
  | .reg a => [srcKey a]
  | .imm _ => []

/-- The keys of an optional source. -/
def idxKeys (b : Option Src) : List Nat :=
  match b with
  | none => []
  | some a => [srcKey a]

/-- The writes that the values of some registers depend on and that some die has not applied. -/
def State.deps (s : State) (c : CtxId) (keys : List Nat) : List Nat :=
  let live (n : Nat) : Bool := s.mem.writes.any fun w => w.id == n
  keys.foldl (fun acc k =>
    (Map.get (s.ctx c).order.dep [] k).foldl
      (fun acc n => if live n && !acc.contains n then n :: acc else acc) acc) []

/-- Record what a register's new value depends on. -/
def Order.setDep (o : Order) (k : Nat) (ds : List Nat) : Order :=
  if ds.isEmpty then { o with dep := Map.drop o.dep k } else { o with dep := Map.put o.dep k ds }

/-- The dependencies of the latches move with them (R59). -/
def Order.pushDep (o : Order) (ds : List Nat) : Order :=
  let g (k : Nat) : List Nat := Map.get o.dep [] k
  (((o.setDep 99 (g 98)).setDep 98 (g 97)).setDep 97 (g 96)).setDep 96 ds

/-- Change the ordering state of a context. -/
def State.onOrder (s : State) (c : CtxId) (f : Order → Order) : State :=
  s.onCtx c fun x => { x with order := f x.order }

/-! ## Results (R59) -/

/-- Write a scalar result: the register unless W is set, then the latch (R59 steps 3 and 4). -/
def State.resultG (s : State) (c : CtxId) (w : Bool) (d : GReg) (v : Word) (ds : List Nat) : State :=
  let s := if w then s else (s.setG c d v).onOrder c fun o => o.setDep (depG d) ds
  (s.push c (Latch.scalar v)).onOrder c fun o => o.pushDep ds

/-- Write a vector result: the register unless W is set, then the latch (R59 steps 3 and 4). -/
def State.resultV (s : State) (c : CtxId) (w : Bool) (d : VReg) (v : Vec) (ds : List Nat) : State :=
  let s := if w then s else (s.setV c d v).onOrder c fun o => o.setDep (depV d) ds
  (s.push c (Latch.vector v)).onOrder c fun o => o.pushDep ds

/-- Write a predicate result. -/
def State.resultK (s : State) (c : CtxId) (d : KReg) (v : Word) (ds : List Nat) : State :=
  (s.setK c d v).onOrder c fun o => if d = 0 then o else o.setDep (depK d) ds

/-- The destination register of a result may be written (R293, R250). -/
def State.useDestG (s : State) (c : CtxId) (w : Bool) (d : GReg) : Act Unit :=
  if w then .ok () else s.useReg c (destG d)

/-- The destination register of a vector result may be written (R250). -/
def State.useDestV (s : State) (c : CtxId) (w : Bool) (d : VReg) : Act Unit :=
  if w then .ok () else s.useReg c (.v d)

/-- Complete an instruction with a scalar result that is no switch point. -/
def State.finishG (s : State) (c : CtxId) (w : Bool) (d : GReg) (v : Word) (ds : List Nat) : Act State := do
  s.useDestG c w d
  return (s.resultG c w d v ds).advance c false

/-- Complete an instruction with a vector result that is no switch point. -/
def State.finishV (s : State) (c : CtxId) (w : Bool) (d : VReg) (v : Vec) (ds : List Nat) : Act State := do
  s.useDestV c w d
  return (s.resultV c w d v ds).advance c false

/-! ## Late results (R293) -/

/-- Issue a late result: its destination and the value pushed into l0 are pending under the number
`fresh` until it lands (R293). -/
def State.issueLate (s : State) (c : CtxId) (d : Dest) (src : LateSrc) (ds : List Nat) : State :=
  let id := s.fresh
  let s := s.onWait c fun w => { w with lates := w.lates ++ [{ id := id, d := d, src := src, value := none }] }
  let s := s.push c { val := 0, isVec := false, valid := true, pend := some id }
  let s := s.onOrder c fun o =>
    let o := match d with
      | .g r => o.setDep (depG r) ds
      | .v _ | .t _ | .none => o
    o.pushDep ds
  s.bump

/-- A late result lands in its register and in the latch that waits for it (R293). -/
def State.landLate (s : State) (c : CtxId) (l : Late) (v : Word) : State :=
  let s := match l.d with
    | .g r => s.setG c r v
    | .v _ | .t _ | .none => s
  let s := s.onRegs c fun r =>
    { r with l := r.l.map fun x =>
        if x.pend = some l.id then { x with val := v.zeroExtend 512, pend := none } else x }
  s.onWait c fun w => { w with lates := w.lates.filter fun x => x.id ≠ l.id }

end Sys2Proof.Machine
end

