-- ==== Sys2Proof/Machine/Flags.lean ====
section
/-! DEFINITION. Conditions and event counts: the conditions of CMP (R314), and the numeric events a
context counts, its window and its thresholds (R124 to R126). -/

namespace Sys2Proof.Machine

/-- The condition of CMP on two values of the form's width (R314, R315). -/
def condHolds {n : Nat} (cond : Cond) (x y : BitVec n) : Bool :=
  match cond with
  | .eq => x == y
  | .ne => x != y
  | .lt => x.slt y
  | .ge => !x.slt y
  | .ltu => x.ult y
  | .geu => !x.ult y
  | .tst => x &&& y != 0
  | .ntst => x &&& y == 0

/-- A predicate value: every bit set for true (R315). -/
def predOf (b : Bool) : Word := if b then BitVec.allOnes 64 else 0

/-- Counts of the eight event classes (R124). -/
abbrev Events := Vector Nat 8

/-- No events. -/
def evNone : Events := Vector.replicate 8 0

/-- Add the counts of two sets of events. -/
def evAdd (a b : Events) : Events := Vector.ofFn fun i => a[i] + b[i]

/-- One more event of a class. -/
def evOne (a : Events) (cls : Fin 8) : Events := a.set cls (a[cls] + 1)

/-- A counter after n more events; it stops at its largest value (R126). -/
def addCount (x : BitVec 32) (n : Nat) : BitVec 32 :=
  if x.toNat + n < 2 ^ 32 then x + BitVec.ofNat 32 n else BitVec.allOnes 32

/-- The classes whose count has passed a non-zero threshold and that have not fired (R125). -/
def Ctl.toFire (k : Ctl) : List (Fin 8) :=
  (List.finRange 8).filter fun i =>
    k.evth[i] != 0 && k.evth[i].ult k.evcnt[i] && !k.fired.getLsbD i.val

/-- The trap of a threshold (R125): FREC's address word holds the class; `d` is the destination of the instruction whose
event it was (R250). -/
def threshReq (cls : Fin 8) (pc : Word) (engine : Bool) (d : Dest) : TrapReq :=
  { kind := 0, code := FCode.numThresh.num, pc := pc, addr := BitVec.ofNat 64 cls.val, resume := none,
    precise := false, engine := engine, replay := none, deps := [], dest := d, isFault := true }

/-- The host queue and the TAG of the launch of a context's unit (R234). -/
def State.launchTag (s : State) (c : CtxId) : Option (Nat × Word) :=
  match (s.ctx c).unit with
  | none => none
  | some u => (s.work.objs.find? fun o => o.world == u.world && o.level == .launch && o.id == u.launch).map fun o => (o.queue, o.tag)

/-- NUM_THRESH_FIRE: fire one class (R125): the trap of the context, or the signal to the management
core when its HOST bit is set. -/
def State.fire (s : State) (c : CtxId) (pc : Word) (engine : Bool) (d : Dest) (cls : Fin 8) : State :=
  let s := s.onCtl c fun k => { k with fired := k.fired ||| BitVec.ofNat 8 (2 ^ cls.val) }
  if (s.ctx c).ctl.host.getLsbD cls.val then s.notify c.die (.numEvent c cls.val (s.launchTag c))
  else s.onWait c fun w => { w with traps := w.traps ++ [threshReq cls pc engine d] }

/-- Count events of a context (R124, R125), of an instruction with a destination. -/
def State.countEvents (s : State) (c : CtxId) (pc : Word) (engine : Bool) (ev : Events) (d : Dest) : State :=
  let s := s.onCtl c fun k => { k with evcnt := Vector.ofFn fun i => addCount k.evcnt[i] ev[i] }
  -- a count fires at an event of its class (R355)
  let cls := ((s.ctx c).ctl.toFire).filter fun i => ev[i] ≠ 0
  cls.foldl (fun s i => s.fire c pc engine d i) s

/-- One operation advances the window (R125); EVENT_WINDOW_END at its length. -/
def State.advanceWindow (s : State) (c : CtxId) : State :=
  s.onCtl c fun k =>
    let pos := k.evpos + 1
    if k.evlen != 0 && k.evlen.ule pos then
      { k with evcnt := Vector.replicate 8 0, evpos := 0, fired := 0 }
    else { k with evpos := pos }

end Sys2Proof.Machine
end

