-- ==== Sys2Proof/Machine/ScratchOps.lean ====
section
/-! DEFINITION. Handles, scratch and the full bits: what a handle number names (R133), the checks of a
scratch access (R135), its reads and writes with their ECC state (R136, R148), the edges that full bits
carry (R192), and the allocation and release of handles (R132, R134). -/

namespace Sys2Proof.Machine

/-! ## Handles -/

/-- FREC's address word for a handle and a row (R248). -/
def handleAddr (h row : Word) : Word := (h <<< 32) ||| (row.extractLsb' 0 32).zeroExtend 64

/-- The address in scratch of a byte of a row. -/
def HandleSt.addr (h : HandleSt) (row byte : Nat) : Nat := h.base * 1024 + row * h.rowBytes + byte

/-- The checks of R135 for `len` bytes in each of `rows` rows, aligned to `align`. -/
def State.scrCheck (s : State) (c : CtxId) (h row : Word) (byte : BitVec 24) (len align rows : Nat) :
    Act HandleSt :=
  let fa := handleAddr h row
  match s.handle c h.toNat with
  | none => .error (.raise .hinval fa)
  | some x => do
    if x.level1 then
      if x.slot.isSome then .error (.raise .sealLd fa) else .error (.raise .hlevel fa)
    else
      must (row.toNat + rows ≤ x.rows && 0 ≤ byte.toInt && byte.toNat + len ≤ x.rowBytes) .hbound fa
      must (byte.toNat % align = 0) .align fa
      return x

/-- Handle and row of a scratch instruction: read from its sources at its first issue, and kept while
it is parked (R9). -/
def State.scrSrcs (s : State) (c : CtxId) (x : ScrAddr) : Act (Word × Word) :=
  match (s.ctx c).wait.park with
  | some (.scratch h row _ _ _) => .ok (BitVec.ofNat 64 h, BitVec.ofNat 64 row)
  | _ => do
    let h ← s.readSrc c x.a
    let row ← s.readIdx c x.b
    return (h, row)

/-! ## ECC (R148) -/

/-- What a read of some granules or sectors meets: the fault, when one of them is bad or poisoned, and
how many single-bit errors it corrects. -/
structure EccRead where
  fault     : Option FCode
  corrected : Nat
  deriving DecidableEq, Repr

/-- Look up the ECC state of the granules a read touches. -/
def eccRead (m : Map EccSt) (gs : List Nat) : EccRead :=
  let has (e : EccSt) : Bool := gs.any fun g => Map.find m g == some e
  { fault := if has .poison then some .poison else if has .bad then some .eccUe else none,
    corrected := (gs.filter fun g => Map.find m g == some .single).length }

/-- The ECC state after a read: single-bit errors are corrected and written back, uncorrectable
granules are poisoned. -/
def eccAfterRead (m : Map EccSt) (gs : List Nat) : Map EccSt :=
  gs.foldl (fun m g => match Map.find m g with
    | some .single => Map.drop m g
    | some .bad => Map.put m g .poison
    | some .poison | none => m) m

/-- A whole write clears the ECC state of its granules. -/
def eccClear (m : Map EccSt) (gs : List Nat) : Map EccSt := gs.foldl (fun m g => Map.drop m g) m

/-- The untouched part of some granule is uncorrectable or poisoned. -/
def eccBlocks (m : Map EccSt) (gs : List Nat) : Bool :=
  gs.any fun g => Map.find m g == some .poison || Map.find m g == some .bad

/-- The event count of corrected errors: class 7 (R124). -/
def evCorrected (n : Nat) : Events := evNone.set 7 n

/-- A context reads granules of scratch: a corrected error counts class 7, an uncorrectable or poisoned
granule faults. `soft` says that the fault is delivered as I (R250); `sw` that the instruction is a switch point, whose
latches are invalid after it (R56); `d` is its destination. -/
def State.scrRead (s : State) (c : CtxId) (gs : List Nat) (fa : Word) (soft sw : Bool) (d : Dest) : Act State :=
  let x := s.core c.coreId
  let r := eccRead x.ecc gs
  let s' := s.onCore c.coreId fun x => { x with ecc := eccAfterRead x.ecc gs }
  let s' := if r.corrected = 0 then s' else s'.countEvents c (s.pc c) false (evCorrected r.corrected) d
  match r.fault with
  | none => .ok s'
  | some code =>
    if soft && !(s.ctx c).ctl.precise then
      let s' := if sw then s'.invalidate c else s'
      .error (.done ((s'.queueTrap c (impreciseReq code (s.pc c) fa none d)).advance c sw))
    else .error (.done (s'.raisePrecise c code fa))

/-! ## Full bits and their edges (R136, R192) -/

/-- Set or clear the full bits of granules. -/
def setFull (m : Map Unit) (gs : List Nat) (b : Bool) : Map Unit :=
  gs.foldl (fun m g => if b then Map.put m g () else Map.drop m g) m

/-- The writes that a release by the context carries (R192): those that happen before its later
accesses, and its own causal writes. -/
def State.releaseIds (s : State) (c : CtxId) : List Nat :=
  let own := (s.mem.writes.filter fun w => w.causal && match w.src with
    | .ctx d => d == c
    | .engine d _ => d == c
    | .mgmt _ | .sink _ _ | .gone _ | .sec | .other => false).map fun w => w.id
  joinIds (s.liveOf (s.ctx c).order.afterA) own

/-- What a later waiter acquires from a granule set or cleared by this context (R192). -/
def State.releaseTo (s : State) (c : CtxId) (gs : List Nat) : State :=
  let ids := s.releaseIds c
  s.onCore c.coreId fun x =>
    { x with fe := gs.foldl (fun m g => if ids.isEmpty then Map.drop m g else Map.put m g ids) x.fe }

/-- A wait on granules that succeeded acquires what their setter or clearer released (R192). -/
def State.acquireFrom (s : State) (c : CtxId) (gs : List Nat) : State :=
  let ids := s.liveOf (gs.foldl (fun acc g => joinIds acc (Map.get (s.core c.coreId).fe [] g)) [])
  s.onOrder c fun o => { o with afterA := joinIds o.afterA ids }

/-! ## Reading and writing scratch -/

/-- Write bytes of scratch: the ECC state of the granules written whole is cleared, and the full bits
are set unless `keep` (R136). -/
def CoreSt.write (x : CoreSt) (a : Nat) (bs : List Byte) (whole gs : List Nat) (keep : Bool) : CoreSt :=
  { x with scratch := putBytes x.scratch a bs, ecc := eccClear x.ecc whole,
           full := if keep then x.full else setFull x.full gs true }

/-- A context stores part of one granule (R381): a store whose granule's other bytes are bad is not
performed and raises ECC-RMW, imprecise. -/
def State.storePart (s : State) (c : CtxId) (a : Nat) (bs : List Byte) (gs : List Nat) (keep : Bool)
    (fa : Word) : State :=
  if eccBlocks (s.core c.coreId).ecc gs then
    let s := s.onCore c.coreId fun x => { x with ecc := gs.foldl (fun m g => Map.put m g .poison) x.ecc }
    s.queueTrap c (impreciseReq .eccRmw (s.pc c) fa none .none)
  else
    let s := s.onCore c.coreId fun x => x.write a bs gs gs keep
    if keep then s else s.releaseTo c gs

/-- A context writes whole granules. -/
def State.storeWhole (s : State) (c : CtxId) (a : Nat) (bs : List Byte) (gs : List Nat) (keep : Bool) :
    State :=
  let s := s.onCore c.coreId fun x => x.write a bs gs gs keep
  if keep then s else s.releaseTo c gs

/-! ## Allocation (R132, R134) -/

/-- The units of scratch or Pantry that are taken at a level: base and count. -/
def CoreSt.taken (x : CoreSt) (level1 : Bool) : List (Nat × Nat) :=
  (x.handles.filterMap fun p => if p.2.level1 = level1 then some (p.2.base, p.2.units) else none)
    ++ (x.freed.filterMap fun f => if f.h.level1 = level1 then some (f.h.base, f.h.units) else none)

/-- Units a level offers (R132). -/
def levelUnits (level1 : Bool) : Nat := if level1 then 8192 else 1980

/-- First-fit (R132): the lowest base at which a run of units is free. -/
def CoreSt.fit (x : CoreSt) (level1 : Bool) (units : Nat) : Option Nat :=
  let ts := x.taken level1
  let free (b : Nat) : Bool :=
    b + units ≤ levelUnits level1 && ts.all fun t => b + units ≤ t.1 || t.1 + t.2 ≤ b
  ((0 :: ts.map fun t => t.1 + t.2).filter free).min?

/-- A shape that HALLOC and an image accept at a level (R134, R43). -/
def shapeOk (level1 : Bool) (desc : BitVec 32) : Bool :=
  let rows := (desc.extractLsb' 0 16).toNat
  let rb := (desc.extractLsb' 16 12).toNat
  rows ≠ 0 && rb ≠ 0 && rb ≤ 256 &&
    (!level1 || ((rb = 4 || rb = 8 || rb = 16) && !(rb = 4 && rows % 2 = 1)))

/-- The lowest free number (R134). -/
def CoreSt.freeNumber (x : CoreSt) : Option Nat :=
  ((List.range 0xEF).map (· + 1)).find? fun n => (Map.find x.handles n).isNone

/-- Allocate a handle at a number (R134, R43), or nothing when there is no space. -/
def CoreSt.allocAt (x : CoreSt) (n : Nat) (level1 rl : Bool) (desc : BitVec 32) (owner : Nat) :
    Option CoreSt :=
  match x.fit level1 (shapeUnits level1 desc) with
  | none => none
  | some b =>
    let h : HandleSt :=
      { level1 := level1, rl := rl, desc := desc, base := b, units := shapeUnits level1 desc, slot := none,
        owner := owner }
    some { x with handles := Map.put x.handles n h }

/-- The operations of a core that named a handle when they were captured (R134). -/
def CoreSt.opsOn (x : CoreSt) (n : Nat) : List Nat :=
  (x.ops.filter fun op => op.binds.any fun b => b.1 == n && b.2.isSome).map fun op => op.id

/-- Free a handle (R134): its number is free at once; its space is zeroed when no operation captured
before still names it. -/
def CoreSt.freeHandle (x : CoreSt) (n : Nat) : CoreSt :=
  match Map.find x.handles n with
  | none => x
  | some h =>
    let x := { x with handles := Map.drop x.handles n }.unlinkHandle n
    let ops := x.opsOn n
    if ops.isEmpty then x.zeroSpace h else { x with freed := x.freed ++ [{ h := h, ops := ops }] }

/-! ## Sizes and atomics -/

/-- Bytes of a load (R89). -/
def ldBytes : LdSize → Nat
  | .b | .bu => 1
  | .h | .hu => 2
  | .w | .wu => 4
  | .d => 8

/-- A load's value is sign-extended (R341). -/
def ldSigned : LdSize → Bool
  | .b | .h | .w | .d => true
  | .bu | .hu | .wu => false

/-- Extend the bytes of a load (R341). -/
def extendLoad (n : Nat) (signed : Bool) (v : Nat) : Word :=
  if signed then (BitVec.ofNat (8 * n) v).signExtend 64 else BitVec.ofNat 64 v

/-- Bytes of a store (R89). -/
def stBytes : StSize → Nat
  | .b => 1
  | .h => 2
  | .w => 4
  | .d => 8

/-- What an atomic writes: nothing for a CAS that finds a mismatch (R297). -/
def amoResult (op : AmoOp) (n : Nat) (old v cmp : BitVec n) : Option (BitVec n) :=
  match op with
  | .add => some (old + v)
  | .min => some (if v.slt old then v else old)
  | .max => some (if old.slt v then v else old)
  | .minu => some (if v.ult old then v else old)
  | .maxu => some (if old.ult v then v else old)
  | .and => some (old &&& v)
  | .or => some (old ||| v)
  | .xor => some (old ^^^ v)
  | .swp => some v
  | .cas => if old = cmp then some v else none

/-- What an atomic writes over `size` bytes. -/
def amoBytes (op : AmoOp) (size old : Nat) (v cmp : Word) : Option (List Byte) :=
  (amoResult op (8 * size) (BitVec.ofNat (8 * size) old) (v.setWidth (8 * size)) (cmp.setWidth (8 * size))).map
    fun r => leBytes r.toNat size

end Sys2Proof.Machine
end

