-- ==== Sys2Proof/Machine/Scratch.lean ====
section
/-! DEFINITION. The scratch instructions: LD, ST, VLD, VST (R340, R380, R403), AMOH (R299), the handle
instructions (R134, R338) and the full-empty instructions (R333). TLD and TST stand with the tiles. -/

namespace Sys2Proof.Machine

/-- Run a guarded instruction that is a switch point only in some of its forms. -/
def mixedRun (sw : Bool) (g : Guard) (s : State) (f : CtxId → Act State) : Host.Outcome State Fault Refusal :=
  if sw then switchRun g s f else plainRun g s f

/-! ## Loads -/

/-- A load waits for full granules (R340). -/
def ldWaits : LdWait → Bool
  | .plain => false
  | .fw | .fc => true

/-- The part LD and VLD share: the checks, the wait, the read and the full bits (R341, R403). Answers
the state after the read and the bytes. -/
def State.scrLoad (s : State) (c : CtxId) (q : LdWait) (addr : ScrAddr) (n align : Nat) (soft : Bool)
    (d : Dest) : Act (State × List Byte) := do
  let (h, row) ← s.scrSrcs c addr
  let x ← s.scrCheck c h row addr.imm n align 1
  let byte := addr.imm.toNat
  let gs := granulesOf x row.toNat byte n
  if ldWaits q && !(s.core c.coreId).fullAre gs true then
    .error (.park (.scratch h.toNat row.toNat byte n true) none)
  else
    let s' ← s.scrRead c gs (handleAddr h row) soft (ldWaits q) d
    let bs := (s.core c.coreId).scratchBytes (x.addr row.toNat byte) n
    let s' := if ldWaits q then (s'.acquireFrom c gs).invalidate c else s'
    let s' := match q with
      | .fc => (s'.onCore c.coreId fun y => { y with full := setFull y.full gs false }).releaseTo c gs
      | .plain | .fw => s'
    return (s', bs)

/-- LD (R341). -/
def execLd (g : Guard) (size : LdSize) (q : LdWait) (w : Bool) (d : GReg) (addr : ScrAddr) (s : State) :
    Host.Outcome State Fault Refusal :=
  mixedRun (ldWaits q) g s fun c => do
    s.useDestG c w d
    let (s', bs) ← s.scrLoad c q addr (ldBytes size) (ldBytes size) false (if w then .none else destG d)
    return (s'.resultG c w d (extendLoad (ldBytes size) (ldSigned size) (leNat bs)) []).advance c (ldWaits q)

/-- VLD (R403): a poisoned granule faults as I. -/
def execVld (g : Guard) (q : LdWait) (w : Bool) (d : VReg) (addr : ScrAddr) (s : State) :
    Host.Outcome State Fault Refusal :=
  mixedRun (ldWaits q) g s fun c => do
    s.useDestV c w d
    let (s', bs) ← s.scrLoad c q addr 64 16 true (if w then .none else .v d)
    return (s'.resultV c w d (BitVec.ofNat 512 (leNat bs)) []).advance c (ldWaits q)

/-! ## Stores -/

/-- ST.EW is a switch point (R56). -/
def stWaits : StWait → Bool
  | .ew => true
  | .plain | .ns => false

/-- ST leaves the full bit unchanged (R380). -/
def stKeeps : StWait → Bool
  | .ns => true
  | .plain | .ew => false

/-- ST (R381). -/
def execSt (g : Guard) (size : StSize) (q : StWait) (d : GReg) (addr : ScrAddr) (s : State) :
    Host.Outcome State Fault Refusal :=
  mixedRun (stWaits q) g s fun c => do
    let v ← s.readG c d
    let (h, row) ← s.scrSrcs c addr
    let n := stBytes size
    let x ← s.scrCheck c h row addr.imm n n 1
    let byte := addr.imm.toNat
    let gs := granulesOf x row.toNat byte n
    if stWaits q && !(s.core c.coreId).fullAre gs false then
      .error (.park (.scratch h.toNat row.toNat byte n false) none)
    else
      let s := if stWaits q then (s.acquireFrom c gs).invalidate c else s
      let s := s.storePart c (x.addr row.toNat byte) (leBytes v.toNat n) gs (stKeeps q) (handleAddr h row)
      return s.advance c (stWaits q)

/-- VST (R403). -/
def execVst (g : Guard) (ns : Bool) (d : VReg) (addr : ScrAddr) (s : State) :
    Host.Outcome State Fault Refusal :=
  plainRun g s fun c => do
    let v ← s.readV c d
    let (h, row) ← s.scrSrcs c addr
    let x ← s.scrCheck c h row addr.imm 64 16 1
    let byte := addr.imm.toNat
    let gs := granulesOf x row.toNat byte 64
    return (s.storeWhole c (x.addr row.toNat byte) (leBytes v.toNat 64) gs ns).advance c false

/-! ## AMOH (R300) -/

/-- AMOH (R299, R300). -/
def execAmoh (g : Guard) (op : AmoOp) (w32 w : Bool) (d : GReg) (addr : ScrAddr) (s : State) :
    Host.Outcome State Fault Refusal :=
  plainRun g s fun c => do
    let size := if w32 then 4 else 8
    let din ← s.readG c d
    let next ← if op = .cas then s.readG c (d + 1) else .ok 0
    let (h, row) ← s.scrSrcs c addr
    let x ← s.scrCheck c h row addr.imm size size 1
    let byte := addr.imm.toNat
    let a := x.addr row.toNat byte
    let gs := granulesOf x row.toNat byte size
    let s' ← s.scrRead c gs (handleAddr h row) false false (if w then .none else destG d)
    let old := leNat ((s.core c.coreId).scratchBytes a size)
    let new := amoBytes op size old (if op = .cas then next else din) din
    let s' := match new with
      | some bs => s'.onCore c.coreId fun y => y.write a bs [] gs true
      | none => s'
    return (s'.resultG c w d (extendLoad size true old) []).advance c false

/-! ## Handles (R134, R338) -/

/-- HALLOC (R134): the result is 0 when no number or no space is free. -/
def execHalloc (g : Guard) (w : Bool) (d : GReg) (a : Src) (level rl : Bool) (s : State) :
    Host.Outcome State Fault Refusal :=
  plainRun g s fun c => do
    let v ← s.readSrc c a
    s.useDestG c w d
    let desc := v.extractLsb' 0 32
    must (shapeOk level desc) .hinval
    must (v.extractLsb' 32 32 = 0) .hinval
    let x := s.core c.coreId
    let (s', n) := match x.freeNumber with
      | none => (s, 0)
      | some n => match x.allocAt n level rl desc c.ctx with
        | none => (s, 0)
        | some y => (s.setCore c.coreId y, n)
    return (s'.resultG c w d (BitVec.ofNat 64 n) []).advance c false

/-- An input port of some unit of the core is bound to a handle (R166, R338). -/
def State.ringOn (s : State) (c : CoreId) (n : Nat) : Bool :=
  [0, 1, 2, 3].any fun i => match (s.ctx (c.ctx i)).unit with
    | some u => u.rings.any fun p => p.2.1 == n
    | none => false

/-- HFREE (R134, R338): a unit frees only its own handles, and none that is bound to an input port. -/
def execHfree (g : Guard) (a : Src) (s : State) : Host.Outcome State Fault Refusal :=
  plainRun g s fun c => do
    let v ← s.readSrc c a
    let n := v.toNat
    match Map.find (s.core c.coreId).handles n with
    | none => .error (.raise .hinval (handleAddr v 0))
    | some h => do
      must (h.owner = c.ctx && !s.ringOn c.coreId n) .hinval (handleAddr v 0)
      return (s.onCore c.coreId fun x => x.freeHandle n).advance c false

/-- HINFO's result (R134). -/
def HandleSt.info (h : HandleSt) : Word :=
  BitVec.ofNat 64 (h.desc.toNat + (if h.level1 then 2 ^ 32 else 0) + (if h.rl then 2 ^ 33 else 0)
    + (if h.slot.isSome then 2 ^ 34 else 0) + h.units % 2 ^ 16 * 2 ^ 48)

/-- HINFO (R134). -/
def execHinfo (g : Guard) (w : Bool) (d : GReg) (a : Src) (s : State) : Host.Outcome State Fault Refusal :=
  plainRun g s fun c => do
    let v ← s.readSrc c a
    match s.handle c v.toNat with
    | none => .error (.raise .hinval (handleAddr v 0))
    | some h => s.finishG c w d h.info []

/-! ## Full and empty (R333, R334) -/

/-- Run FESET or FECLR: `b` is the value the bits take. -/
def feRun (b : Bool) (g : Guard) (d : GReg) (addr : ScrAddr) (s : State) : Host.Outcome State Fault Refusal :=
  plainRun g s fun c => do
    let v ← s.readG c d
    let n := (v.extractLsb' 0 16).toNat
    let (h, row) ← s.scrSrcs c addr
    let x ← s.scrCheck c h row addr.imm 1 1 1
    let first := x.base * 64 + row.toNat * x.rb + addr.imm.toNat / 16
    must (n ≤ 1 || first + n ≤ x.base * 64 + x.rows * x.rb) .hbound (handleAddr h row)
    let gs := (List.range n).map fun i => first + i
    let s := s.onCore c.coreId fun y => { y with full := setFull y.full gs b }
    return (s.releaseTo c gs).advance c false

/-- FESET (R334). -/
def execFeset (g : Guard) (d : GReg) (addr : ScrAddr) (s : State) : Host.Outcome State Fault Refusal :=
  feRun true g d addr s

/-- FECLR (R334). -/
def execFeclr (g : Guard) (d : GReg) (addr : ScrAddr) (s : State) : Host.Outcome State Fault Refusal :=
  feRun false g d addr s

/-- FETST (R334). -/
def execFetst (g : Guard) (w : Bool) (d : GReg) (addr : ScrAddr) (s : State) :
    Host.Outcome State Fault Refusal :=
  plainRun g s fun c => do
    let (h, row) ← s.scrSrcs c addr
    let x ← s.scrCheck c h row addr.imm 1 1 1
    let full := (s.core c.coreId).fullAre (granulesOf x row.toNat addr.imm.toNat 1) true
    s.finishG c w d (if full then 1 else 0) []

end Sys2Proof.Machine
end

