-- ==== Sys2Proof/Machine/Binary.lean ====
section
/-! DEFINITION. The formats that the host loads (04_encoding R102 to R105) and the records of dispatch (12_scheduling
R233, R238, R239), read from their bytes. -/

namespace Sys2Proof.Machine

/-- A little-endian number of `n` bytes at an offset. -/
def leAt (bs : List Byte) (off n : Nat) : Nat := leNat ((bs.drop off).take n)

/-- Every byte of a stretch is zero. -/
def zeroAt (bs : List Byte) (off n : Nat) : Bool := ((bs.drop off).take n).all fun b => b == 0

/-! ## Binaries (R102, R103) -/

/-- A section of a binary. -/
structure Section where
  kind : Nat
  off  : Nat
  size : Nat
  deriving DecidableEq, Repr

/-- The header of a binary (R102): the number of its sections, unless it is refused. R102 names a refusal for another
VERSION alone; that another MAGIC and non-zero reserved bytes are refused too is DEDUCED (log entry 113). -/
def binaryHeader (bs : List Byte) : Option Nat :=
  if leAt bs 0 4 = 0x42395A58 && leAt bs 4 2 = 1 && zeroAt bs 8 56 then some (leAt bs 6 2) else none

/-- The section table of a binary (R102), unless it is refused. R102 names a refusal for a TYPE above 5 and for a second
section of type 1, 3 or 4; that TYPE 0, an OFFSET that is no multiple of 8 and non-zero reserved bytes are refused too is
DEDUCED (log entry 113). -/
def binarySections (n : Nat) (bs : List Byte) : Option (List Section) :=
  let all := (List.range n).map fun i => (bs.drop (32 * i)).take 32
  let secs := all.map fun e => ({ kind := leAt e 0 4, off := leAt e 8 8, size := leAt e 16 8 } : Section)
  let few (k : Nat) : Bool := decide ((secs.filter fun x => x.kind == k).length ≤ 1)
  if all.all (fun e => zeroAt e 4 4 && leAt e 8 8 % 8 == 0) && secs.all (fun x => decide (1 ≤ x.kind ∧ x.kind ≤ 5)) &&
      few 1 && few 3 && few 4 then some secs
  else none

/-- A section of a kind. -/
def sectionOf (secs : List Section) (k : Nat) : Option Section := secs.find? fun x => x.kind == k

/-- A node record of a graph (R103). -/
structure GraphNode where
  image : Nat
  kind  : Nat
  deriving DecidableEq, Repr

/-- The kind of a node by its code (R104). -/
def nodeKind : Nat → Option NodeKind
  | 0 => some .ctx
  | 1 => some .region
  | 2 => some .sieve
  | 3 => some .mtile
  | 4 => some .capsink
  | _ => none

/-- The nodes of a graph section. The reserved bytes of a node record are not looked at (DESIGN CHOICE, log entry 114). -/
def graphNodes (bs : List Byte) : List GraphNode :=
  (List.range (leAt bs 0 4)).map fun i => { image := leAt bs (8 + 8 * i) 4, kind := leAt bs (12 + 8 * i) 1 }

/-- The edges of a graph section: producer node and port, consumer node and port, depth, slots. -/
def graphEdges (bs : List Byte) : List (List Nat) :=
  let base := 8 + 8 * leAt bs 0 4
  (List.range (leAt bs 4 4)).map fun i =>
    let e := bs.drop (base + 8 * i)
    [leAt e 0 2, leAt e 2 1, leAt e 3 2, leAt e 5 1, leAt e 6 1, leAt e 7 1]

/-! ## Node images (R104, R105) -/

/-- The bytes of an image: its header and its arrays. -/
def imageSize (h : List Byte) : Nat := 64 + 8 * leAt h 8 2 + 16 * leAt h 10 2 + 72 * leAt h 12 2 + 16 * leAt h 14 1

/-- The image of an index in the images section: where its bytes begin; no byte is left for an index past its end. -/
def imageFrom (bs : List Byte) : Nat → List Byte
  | 0 => bs
  | n + 1 => imageFrom (bs.drop ((imageSize bs + 7) / 8 * 8)) n

/-- A token entry of an image. -/
structure ImageToken where
  port : Nat
  kind : TokKind
  val  : Vec
  deriving DecidableEq, Repr

/-- A node image. -/
structure Image where
  kind    : NodeKind
  precise : Bool
  idem    : Bool
  page    : Nat
  param   : Nat
  entry   : Nat
  saveh   : Nat
  inb     : Nat
  outb    : Nat
  inv     : Nat
  outv    : Nat
  textva  : Word
  /-- number, level, shape descriptor -/
  handles : List (Nat × Bool × BitVec 32)
  inits   : List (Nat × Word)
  tokens  : List ImageToken
  fmts    : List (Nat × Word)
  /-- dispatch does not refuse it for what stands in it (R105) -/
  ok      : Bool
  deriving DecidableEq, Repr

/-- The kind of an initial token. -/
def tokenKind : Nat → Option TokKind
  | 0 => some .data
  | 1 => some .eos
  | 3 => some .steer
  | _ => none

/-- A register code that an image may initialise (R104). -/
def initCodeOk (n : Nat) : Bool := decide (1 ≤ n ∧ n ≤ 31) || decide (0x41 ≤ n ∧ n ≤ 0x47) || n == 0x80

/-- The entries of an array of an image, each of `size` bytes. -/
def entriesOf (bs : List Byte) (size n : Nat) : List (List Byte) := (List.range n).map fun i => (bs.drop (size * i)).take size

/-- The handle of an entry: number, level, shape descriptor. -/
def imageHandle (e : List Byte) : Nat × Bool × BitVec 32 := (leAt e 0 1, leAt e 1 1 == 1, BitVec.ofNat 32 (leAt e 4 4))

/-- A handle entry keeps to the table (R104). -/
def handleOk (e : List Byte) : Bool :=
  decide (1 ≤ leAt e 0 1 ∧ leAt e 0 1 ≤ 239 ∧ leAt e 1 1 ≤ 1) && zeroAt e 2 2 && shapeOk (leAt e 1 1 == 1) (BitVec.ofNat 32 (leAt e 4 4))

/-- An initial value: register code and value. -/
def imageInit (e : List Byte) : Nat × Word := (leAt e 0 1, BitVec.ofNat 64 (leAt e 8 8))

/-- An initial-value entry keeps to the table (R104, R105). -/
def initOk (e : List Byte) : Bool := initCodeOk (leAt e 0 1) && zeroAt e 1 7

/-- The token of an entry. The value of a scalar port's token lies in its first eight bytes, entry bytes 8 to 15; R104
says that bytes 8 to 71 are zero for a scalar port, which the model reads as the bytes of the value from byte 8 on
(DEDUCED, log entry 115). -/
def imageToken (e : List Byte) : ImageToken :=
  { port := leAt e 0 1, kind := (tokenKind (leAt e 1 1)).getD .data, val := BitVec.ofNat 512 (leAt e 8 64) }

/-- A token entry keeps to the table (R104, R105): a bound port, a kind that a program may be given, and for a scalar
port nothing after the first eight bytes of the value (log entry 115). -/
def tokenOk (e : List Byte) (inb inv : Nat) : Bool :=
  let port := leAt e 0 1
  (tokenKind (leAt e 1 1)).isSome && decide (port < 16) && inb.testBit port && zeroAt e 2 6 && (inv.testBit port || zeroAt e 16 56)

/-- A format entry: index and entry word. -/
def imageFmt (e : List Byte) : Nat × Word := (leAt e 0 1, BitVec.ofNat 64 (leAt e 8 8))

/-- A format entry keeps to the table (R104). -/
def imageFmtOk (e : List Byte) : Bool := decide (leAt e 0 1 < 32) && zeroAt e 1 7

/-- No number stands twice in a list. -/
def distinct (l : List Nat) : Bool := decide l.Nodup

/-- The parameter of an image suits its kind (R104). -/
def paramOk (k : NodeKind) (param : Nat) : Bool :=
  match k with
  | .region => true
  | .mtile => decide (1 ≤ param ∧ param ≤ 3)
  | .ctx | .sieve | .capsink => param == 0

/-- What the bytes of a node image say (R104), read as a node of a kind; `ok` says that dispatch does not refuse the image
for what stands in it (R105). -/
def imageOf (bs : List Byte) (kind : NodeKind) : Image :=
  let flags := leAt bs 1 1
  let nh := leAt bs 8 2
  let ni := leAt bs 10 2
  let nt := leAt bs 12 2
  let nf := leAt bs 14 1
  let inb := leAt bs 16 2
  let inv := leAt bs 20 2
  let param := leAt bs 2 2
  let hs := entriesOf (bs.drop 64) 8 nh
  let is := entriesOf (bs.drop (64 + 8 * nh)) 16 ni
  let ts := entriesOf (bs.drop (64 + 8 * nh + 16 * ni)) 72 nt
  let fs := entriesOf (bs.drop (64 + 8 * nh + 16 * ni + 72 * nt)) 16 nf
  { kind := kind, precise := flags.testBit 0, idem := flags.testBit 1, page := flags / 4 % 4, param := param,
    entry := leAt bs 4 4, saveh := leAt bs 15 1, inb := inb, outb := leAt bs 18 2, inv := inv,
    outv := leAt bs 22 2, textva := BitVec.ofNat 64 (leAt bs 32 8), handles := hs.map imageHandle, inits := is.map imageInit,
    tokens := ts.map imageToken, fmts := fs.map imageFmt,
    ok := nodeKind (leAt bs 0 1) == some kind && decide (flags < 16) && zeroAt bs 24 8 && zeroAt bs 40 24 && decide (nf ≤ 32) &&
      decide (leAt bs 15 1 ≤ 239) && leAt bs 4 4 % 8 == 0 && paramOk kind param && hs.all handleOk && is.all initOk &&
      (ts.all fun e => tokenOk e inb inv) && fs.all imageFmtOk && distinct (hs.map fun e => leAt e 0 1) }

/-- Read a node image of a kind (R104); none when dispatch refuses it (R105). -/
def readImage (bs : List Byte) (kind : NodeKind) : Option Image :=
  let i := imageOf bs kind
  if i.ok then some i else none

/-! ## Bind records and port maps (R238, R239) -/

/-- A byte of a bind record. -/
def recByte (r : BindRec) (n : Nat) : Nat := (r.extractLsb' (8 * n) 8).toNat

/-- A field of a bind record, in bytes. -/
def recField (r : BindRec) (off n : Nat) : Nat := r.toNat / 2 ^ (8 * off) % 2 ^ (8 * n)

/-- KIND. -/
def recKind (r : BindRec) : Nat := recByte r 0
/-- PRIO. -/
def recPrio (r : BindRec) : Nat := recByte r 1
/-- RCAP. -/
def recRcap (r : BindRec) : Bool := recByte r 2 % 2 = 1
/-- WORLD. -/
def recWorld (r : BindRec) : Nat := recByte r 3
/-- LAUNCH. -/
def recLaunch (r : BindRec) : Nat := recField r 4 4
/-- IMAGE. -/
def recImage (r : BindRec) : Word := BitVec.ofNat 64 (recField r 8 8)
/-- PMAP. -/
def recPmap (r : BindRec) : Word := BitVec.ofNat 64 (recField r 16 8)
/-- UNIT. -/
def recUnit (r : BindRec) : Nat := recField r 24 4
/-- HOME. -/
def recHome (r : BindRec) : Nat := recByte r 28

/-- The reserved fields of a record are zero, and its fields are in range (R238). -/
def recOk (r : BindRec) : Bool :=
  decide (recKind r ≤ 3 ∧ recPrio r ≤ 7 ∧ recByte r 2 ≤ 1 ∧ recWorld r ≤ 7 ∧ recHome r ≤ 3) && recField r 29 3 == 0

/-- The kind of a record suits a slot (R237, R238). -/
def recFits (r : BindRec) (slot : Nat) : Bool :=
  if slot < 512 then recKind r == 0 || recKind r == 3
  else if slot < 544 then recKind r == 1
  else recKind r == 2

/-- The kind of node that a record binds. -/
def recNode (r : BindRec) : NodeKind :=
  match recKind r with
  | 0 => .ctx
  | 1 => .region
  | 2 => .sieve
  | _ => .capsink

/-- An entry of a port map (R239). -/
structure PortEnt where
  row0 : Nat
  hnd  : Nat
  circ : Nat
  h    : Bool
  vec  : Bool
  v    : Bool
  phys : Nat
  deriving DecidableEq, Repr

/-- Read an entry of a port map; none when a reserved bit is set. -/
def portEnt (v : Nat) : Option PortEnt :=
  if v / 2 ^ 11 % 2 ^ 17 = 0 && v / 2 ^ 4 % 2 ^ 4 = 0 then
    some { row0 := v / 2 ^ 48 % 2 ^ 16, hnd := v / 2 ^ 40 % 2 ^ 8, circ := v / 2 ^ 28 % 2 ^ 12, h := v.testBit 10,
           vec := v.testBit 9, v := v.testBit 8, phys := v % 16 }
  else none

/-- Read a port map. -/
def readPmap (bs : List Byte) : Option (List PortEnt) := (List.range 32).mapM fun i => portEnt (leAt bs (8 * i) 8)

/-- A port map agrees with the ports of an image (R239): the bound ports and their widths. -/
def pmapAgrees (m : List PortEnt) (i : Image) : Bool :=
  ((m.zip (List.range 32)).all fun p =>
    let (b, v) := if p.2 < 16 then (i.inb.testBit p.2, i.inv.testBit p.2)
      else (i.outb.testBit (p.2 - 16), i.outv.testBit (p.2 - 16))
    p.1.v == b && (!b || p.1.vec == v) && (!p.1.h || (p.2 < 16 && p.1.vec)))

/-! ## Submission entries (R233) -/

/-- A submission entry. -/
structure SqEntry where
  op    : Nat
  prio  : Nat
  home  : Nat
  level : Nat
  job   : Nat
  phase : Nat
  graph : Nat
  va    : Word
  tag   : Word
  count : Nat
  wdog  : Nat
  deriving DecidableEq, Repr

/-- Read an entry. -/
def sqEntry (bs : List Byte) : SqEntry :=
  { op := leAt bs 0 1, prio := leAt bs 1 1, home := leAt bs 2 1, level := leAt bs 3 1, job := leAt bs 4 4,
    phase := leAt bs 8 4, graph := leAt bs 12 4, va := BitVec.ofNat 64 (leAt bs 16 8), tag := BitVec.ofNat 64 (leAt bs 24 8),
    count := leAt bs 32 4, wdog := leAt bs 36 4 }

/-- An entry keeps to the table (R233): its fields in range, and its reserved bytes zero. -/
def sqOk (bs : List Byte) : Bool :=
  let e := sqEntry bs
  decide (1 ≤ e.op ∧ e.op ≤ 6 ∧ e.prio ≤ 7) && (decide (e.home ≤ 3) || e.home == 255) && zeroAt bs 40 24 &&
  (e.op != 1 || e.job == 0) && (e.op != 5 || decide (1 ≤ e.count ∧ e.count ≤ 65535)) &&
  (e.op != 6 || decide (1 ≤ e.level ∧ e.level ≤ 4))

end Sys2Proof.Machine
end

