-- ==== Sys2Proof/Machine/Crypto.lean ====
section
/-! DEFINITION. The ciphers and hashes the spec names: AES-256 in XTS and GCM modes (15_security R280,
R283), SHA-256 (R286, R287), and RSASSA-PSS verification (10_fabric R212, 12_scheduling R244). They
are the published standards' own (FIPS 197, IEEE 1619, SP 800-38D, FIPS 180-4, RFC 8017). -/

namespace Sys2Proof.Machine

/-! ## AES-256 -/

/-- The forward substitution table of AES. -/
def aesBox : List Nat :=
  [0x63, 0x7C, 0x77, 0x7B, 0xF2, 0x6B, 0x6F, 0xC5, 0x30, 0x01, 0x67, 0x2B, 0xFE, 0xD7, 0xAB, 0x76] ++
  [0xCA, 0x82, 0xC9, 0x7D, 0xFA, 0x59, 0x47, 0xF0, 0xAD, 0xD4, 0xA2, 0xAF, 0x9C, 0xA4, 0x72, 0xC0] ++
  [0xB7, 0xFD, 0x93, 0x26, 0x36, 0x3F, 0xF7, 0xCC, 0x34, 0xA5, 0xE5, 0xF1, 0x71, 0xD8, 0x31, 0x15] ++
  [0x04, 0xC7, 0x23, 0xC3, 0x18, 0x96, 0x05, 0x9A, 0x07, 0x12, 0x80, 0xE2, 0xEB, 0x27, 0xB2, 0x75] ++
  [0x09, 0x83, 0x2C, 0x1A, 0x1B, 0x6E, 0x5A, 0xA0, 0x52, 0x3B, 0xD6, 0xB3, 0x29, 0xE3, 0x2F, 0x84] ++
  [0x53, 0xD1, 0x00, 0xED, 0x20, 0xFC, 0xB1, 0x5B, 0x6A, 0xCB, 0xBE, 0x39, 0x4A, 0x4C, 0x58, 0xCF] ++
  [0xD0, 0xEF, 0xAA, 0xFB, 0x43, 0x4D, 0x33, 0x85, 0x45, 0xF9, 0x02, 0x7F, 0x50, 0x3C, 0x9F, 0xA8] ++
  [0x51, 0xA3, 0x40, 0x8F, 0x92, 0x9D, 0x38, 0xF5, 0xBC, 0xB6, 0xDA, 0x21, 0x10, 0xFF, 0xF3, 0xD2] ++
  [0xCD, 0x0C, 0x13, 0xEC, 0x5F, 0x97, 0x44, 0x17, 0xC4, 0xA7, 0x7E, 0x3D, 0x64, 0x5D, 0x19, 0x73] ++
  [0x60, 0x81, 0x4F, 0xDC, 0x22, 0x2A, 0x90, 0x88, 0x46, 0xEE, 0xB8, 0x14, 0xDE, 0x5E, 0x0B, 0xDB] ++
  [0xE0, 0x32, 0x3A, 0x0A, 0x49, 0x06, 0x24, 0x5C, 0xC2, 0xD3, 0xAC, 0x62, 0x91, 0x95, 0xE4, 0x79] ++
  [0xE7, 0xC8, 0x37, 0x6D, 0x8D, 0xD5, 0x4E, 0xA9, 0x6C, 0x56, 0xF4, 0xEA, 0x65, 0x7A, 0xAE, 0x08] ++
  [0xBA, 0x78, 0x25, 0x2E, 0x1C, 0xA6, 0xB4, 0xC6, 0xE8, 0xDD, 0x74, 0x1F, 0x4B, 0xBD, 0x8B, 0x8A] ++
  [0x70, 0x3E, 0xB5, 0x66, 0x48, 0x03, 0xF6, 0x0E, 0x61, 0x35, 0x57, 0xB9, 0x86, 0xC1, 0x1D, 0x9E] ++
  [0xE1, 0xF8, 0x98, 0x11, 0x69, 0xD9, 0x8E, 0x94, 0x9B, 0x1E, 0x87, 0xE9, 0xCE, 0x55, 0x28, 0xDF] ++
  [0x8C, 0xA1, 0x89, 0x0D, 0xBF, 0xE6, 0x42, 0x68, 0x41, 0x99, 0x2D, 0x0F, 0xB0, 0x54, 0xBB, 0x16]

/-- The forward substitution of one byte. -/
def aesSub (x : Nat) : Nat := aesBox.getD x 0

/-- The inverse substitution of one byte. -/
def aesInvSub (x : Nat) : Nat := aesBox.findIdx fun y => y == x

/-- Doubling in the field of AES. -/
def aesDouble (x : Nat) : Nat := if x < 128 then 2 * x else (2 * x - 256) ^^^ 0x1B

/-- Multiplication by a small constant in the field of AES. -/
def aesTimes (k x : Nat) : Nat :=
  let x2 := aesDouble x
  let x4 := aesDouble x2
  let x8 := aesDouble x4
  (if k.testBit 0 then x else 0) ^^^ (if k.testBit 1 then x2 else 0) ^^^ (if k.testBit 2 then x4 else 0)
    ^^^ (if k.testBit 3 then x8 else 0)

/-- Exclusive-or of byte strings. -/
def xorBytes (a b : List Nat) : List Nat := List.zipWith (· ^^^ ·) a b

/-- The key schedule of AES-256: the words made so far, newest first, and how many more. -/
def aesExpand (i : Nat) (ws : List (List Nat)) : Nat → List (List Nat)
  | 0 => ws.reverse
  | n + 1 =>
    let prev := ws.headD []
    let old := ws.getD 7 []
    let t := if i % 8 = 0 then
        xorBytes ((prev.drop 1 ++ prev.take 1).map aesSub) [(List.range (i / 8 - 1)).foldl (fun x _ => aesDouble x) 1, 0, 0, 0]
      else if i % 8 = 4 then prev.map aesSub else prev
    aesExpand (i + 1) (xorBytes old t :: ws) n

/-- Cut a list into pieces of four. -/
def fours (n : Nat) (l : List Nat) : List (List Nat) :=
  match n with
  | 0 => []
  | n + 1 => l.take 4 :: fours n (l.drop 4)

/-- The fifteen round keys of AES-256, of sixteen bytes each. -/
def aesKeys (key : List Nat) : List (List Nat) :=
  let ws := aesExpand 8 (fours 8 key).reverse 52
  (List.range 15).map fun r => ((ws.drop (4 * r)).take 4).flatten

/-- The column mixing of AES with the given first row. -/
def aesMix (c : List Nat) (s : List Nat) : List Nat :=
  (List.range 16).map fun i =>
    (List.range 4).foldl (fun acc j =>
      acc ^^^ aesTimes (c.getD ((j + 4 - i % 4) % 4) 0) (s.getD (i / 4 * 4 + j) 0)) 0

/-- The row shift of AES. -/
def aesShift (s : List Nat) : List Nat := (List.range 16).map fun i => s.getD ((i + 4 * (i % 4)) % 16) 0

/-- The inverse row shift of AES. -/
def aesInvShift (s : List Nat) : List Nat :=
  (List.range 16).map fun i => s.getD ((i + 16 - 4 * (i % 4)) % 16) 0

/-- AES-256 of one block. -/
def aesEnc (key blk : List Nat) : List Nat :=
  match aesKeys key with
  | [] => []
  | k0 :: ks =>
    let s := ks.dropLast.foldl (fun s k => xorBytes (aesMix [2, 3, 1, 1] (aesShift (s.map aesSub))) k)
      (xorBytes blk k0)
    xorBytes (aesShift (s.map aesSub)) (ks.getLastD [])

/-- The inverse of AES-256 of one block. -/
def aesDec (key blk : List Nat) : List Nat :=
  match (aesKeys key).reverse with
  | [] => []
  | kl :: ks =>
    let s := ks.dropLast.foldl (fun s k =>
      aesMix [14, 11, 13, 9] (xorBytes ((aesInvShift s).map aesInvSub) k)) (xorBytes blk kl)
    xorBytes ((aesInvShift s).map aesInvSub) (ks.getLastD [])

/-- The bytes of a number, lowest first. -/
def natBytes (v : Nat) : Nat → List Nat
  | 0 => []
  | n + 1 => v % 256 :: natBytes (v / 256) n

/-- Bytes as a number, lowest first. -/
def bytesNat : List Nat → Nat
  | [] => 0
  | b :: rest => b + 256 * bytesNat rest

/-! ## XTS (R280): one data unit is one block, so the first tweak value is the only one -/

/-- AES-256-XTS encryption of one 16-byte data unit; the key's low 256 bits are the data key. -/
def xtsEnc (key : BitVec 512) (tweak blk : BitVec 128) : BitVec 128 :=
  let k := natBytes key.toNat 64
  let t := aesEnc (k.drop 32) (natBytes tweak.toNat 16)
  BitVec.ofNat 128 (bytesNat (xorBytes (aesEnc (k.take 32) (xorBytes (natBytes blk.toNat 16) t)) t))

/-- AES-256-XTS decryption of one 16-byte data unit. -/
def xtsDec (key : BitVec 512) (tweak blk : BitVec 128) : BitVec 128 :=
  let k := natBytes key.toNat 64
  let t := aesEnc (k.drop 32) (natBytes tweak.toNat 16)
  BitVec.ofNat 128 (bytesNat (xorBytes (aesDec (k.take 32) (xorBytes (natBytes blk.toNat 16) t)) t))

/-! ## GCM (R283) -/

/-- A big-endian number from bytes. -/
def beNat (l : List Nat) : Nat := l.foldl (fun acc b => acc * 256 + b) 0

/-- The bytes of a number, highest first. -/
def beBytes (v n : Nat) : List Nat := (natBytes v n).reverse

/-- Multiplication in the field of GHASH: bit 127 of a number is the first bit. -/
def ghashMul (x y : Nat) : Nat :=
  ((List.range 128).foldl (fun (p : Nat × Nat) i =>
    let z := if x.testBit (127 - i) then p.1 ^^^ p.2 else p.1
    let v := if p.2.testBit 0 then (p.2 / 2) ^^^ (0xE1 * 2 ^ 120) else p.2 / 2
    (z, v)) (0, y)).1

/-- Cut bytes into blocks of sixteen, the last one padded with zeros. -/
def blocks16 (n : Nat) (l : List Nat) : List (List Nat) :=
  match n with
  | 0 => []
  | n + 1 => ((l.take 16) ++ List.replicate (16 - (l.take 16).length) 0) :: blocks16 n (l.drop 16)

/-- AES-256-GCM decryption without associated data: the plaintext and the tag that the ciphertext
should carry (R283). -/
def gcmDec (key iv ct : List Nat) : List Nat × List Nat :=
  let h := beNat (aesEnc key (List.replicate 16 0))
  let n := (ct.length + 15) / 16
  let bs := blocks16 n ct
  let g := bs.foldl (fun acc b => ghashMul (acc ^^^ beNat b) h) 0
  let g := ghashMul (g ^^^ (ct.length * 8)) h
  let tag := xorBytes (beBytes g 16) (aesEnc key (iv ++ [0, 0, 0, 1]))
  let pt := ((List.range n).zip bs).flatMap fun p => xorBytes p.2 (aesEnc key (iv ++ beBytes (p.1 + 2) 4))
  (pt.take ct.length, tag)

/-! ## SHA-256 -/

/-- The round constants of SHA-256. -/
def shaK : List Nat :=
  [0x428A2F98, 0x71374491, 0xB5C0FBCF, 0xE9B5DBA5, 0x3956C25B, 0x59F111F1, 0x923F82A4, 0xAB1C5ED5] ++
  [0xD807AA98, 0x12835B01, 0x243185BE, 0x550C7DC3, 0x72BE5D74, 0x80DEB1FE, 0x9BDC06A7, 0xC19BF174] ++
  [0xE49B69C1, 0xEFBE4786, 0x0FC19DC6, 0x240CA1CC, 0x2DE92C6F, 0x4A7484AA, 0x5CB0A9DC, 0x76F988DA] ++
  [0x983E5152, 0xA831C66D, 0xB00327C8, 0xBF597FC7, 0xC6E00BF3, 0xD5A79147, 0x06CA6351, 0x14292967] ++
  [0x27B70A85, 0x2E1B2138, 0x4D2C6DFC, 0x53380D13, 0x650A7354, 0x766A0ABB, 0x81C2C92E, 0x92722C85] ++
  [0xA2BFE8A1, 0xA81A664B, 0xC24B8B70, 0xC76C51A3, 0xD192E819, 0xD6990624, 0xF40E3585, 0x106AA070] ++
  [0x19A4C116, 0x1E376C08, 0x2748774C, 0x34B0BCB5, 0x391C0CB3, 0x4ED8AA4A, 0x5B9CCA4F, 0x682E6FF3] ++
  [0x748F82EE, 0x78A5636F, 0x84C87814, 0x8CC70208, 0x90BEFFFA, 0xA4506CEB, 0xBEF9A3F7, 0xC67178F2]

/-- The initial hash value of SHA-256. -/
def shaInit : List Nat :=
  [0x6A09E667, 0xBB67AE85, 0x3C6EF372, 0xA54FF53A, 0x510E527F, 0x9B05688C, 0x1F83D9AB, 0x5BE0CD19]

/-- Rotate a 32-bit word right. -/
def rotr (n x : Nat) : Nat := (x / 2 ^ n) ||| (x * 2 ^ (32 - n) % 2 ^ 32)

/-- The message schedule of SHA-256, newest word first. -/
def shaSched (ws : List Nat) : Nat → List Nat
  | 0 => ws.reverse
  | n + 1 =>
    let w2 := ws.getD 1 0
    let w7 := ws.getD 6 0
    let w15 := ws.getD 14 0
    let w16 := ws.getD 15 0
    let s0 := rotr 7 w15 ^^^ rotr 18 w15 ^^^ (w15 / 8)
    let s1 := rotr 17 w2 ^^^ rotr 19 w2 ^^^ (w2 / 1024)
    shaSched ((w16 + s0 + w7 + s1) % 2 ^ 32 :: ws) n

/-- One round of SHA-256 on the eight working variables. -/
def shaRound (v : List Nat) (kw : Nat) : List Nat :=
  match v with
  | [a, b, c, d, e, f, g, h] =>
    let s1 := rotr 6 e ^^^ rotr 11 e ^^^ rotr 25 e
    let ch := (e &&& f) ^^^ ((2 ^ 32 - 1 - e) &&& g)
    let t1 := h + s1 + ch + kw
    let s0 := rotr 2 a ^^^ rotr 13 a ^^^ rotr 22 a
    let mj := (a &&& b) ^^^ (a &&& c) ^^^ (b &&& c)
    [(t1 + s0 + mj) % 2 ^ 32, a, b, c, (d + t1) % 2 ^ 32, e, f, g]
  | _ => v

/-- SHA-256 of one 64-byte block from a hash value. -/
def shaBlock (hv blk : List Nat) : List Nat :=
  let ws := shaSched ((fours 16 blk).map beNat).reverse 48
  let v := (List.zipWith (· + ·) shaK ws).foldl shaRound hv
  List.zipWith (fun a b => (a + b) % 2 ^ 32) hv v

/-- Fold whole 64-byte blocks into a hash value. -/
def shaBlocks (hv l : List Nat) : Nat → List Nat
  | 0 => hv
  | n + 1 => shaBlocks (shaBlock hv (l.take 64)) (l.drop 64) n

/-- SHA-256 of bytes. -/
def sha256 (m : List Nat) : List Nat :=
  let pad := 63 - (m.length + 8) % 64
  let l := m ++ [0x80] ++ List.replicate pad 0 ++ beBytes (m.length * 8) 8
  (shaBlocks shaInit l (l.length / 64)).flatMap fun w => beBytes w 4

/-! ## RSASSA-PSS -/

/-- A power modulo a number, by the bits of the exponent, lowest first. -/
def powMod (m : Nat) (base acc e : Nat) : Nat → Nat
  | 0 => acc
  | n + 1 => powMod m (base * base % m) (if e % 2 = 1 then acc * base % m else acc) (e / 2) n

/-- The mask generation function MGF1 with SHA-256. -/
def mgf1 (seed : List Nat) (len : Nat) : List Nat :=
  ((List.range ((len + 31) / 32)).flatMap fun i => sha256 (seed ++ beBytes i 4)).take len

/-- RSASSA-PSS verification with SHA-256 and a 32-byte salt over a modulus of 3,072 bits: `h` is the
digest of the message and `sig` its signature, highest byte first. -/
def pssVerify (modulus exponent : Nat) (h sig : List Nat) : Bool :=
  let em := beBytes (powMod modulus (beNat sig) 1 exponent 32) 384
  let db0 := em.take 351
  let hh := (em.drop 351).take 32
  let db := xorBytes db0 (mgf1 hh 351)
  let db := (db.headD 0 % 128) :: db.drop 1
  let salt := db.drop 319
  sig.length == 384 && decide (beNat sig < modulus) && em.getLastD 0 == 0xBC && decide (db0.headD 0 < 128)
    && db.take 318 == List.replicate 318 0 && (db.drop 318).headD 0 == 1
    && sha256 (List.replicate 8 0 ++ h ++ salt) == hh

end Sys2Proof.Machine
end

