-- ==== Sys2Proof/Machine/Memory.lean ====
section
/-! DEFINITION. Global memory: homes and copies (R139), the bytes a die sees and the encryption of what is
stored (R280), writes in flight, their performance at the home and their application at the other dies
(R190, R191, R427), atomics at the home (R199), ECC of sectors (R148), and acknowledgements (R48, R200). -/

namespace Sys2Proof.Machine

/-! ## Places -/

/-- A physical address lies in another package or in host memory (R139). -/
def State.isRemote (s : State) (pa : Nat) : Bool := pa / 2 ^ 44 ≠ s.pkg || pa.testBit 43

/-- The address of a byte in `MemSt.bytes`: PA[38:0] in the package, 2^52 + PA elsewhere (R139). -/
def State.cell (s : State) (pa : Nat) : Nat := if s.isRemote pa then 2 ^ 52 + pa else pa % 2 ^ 39

/-- The home die of a cell: that of the stack of its line's first byte (R139). -/
def homeDie (a : Nat) : Nat := if cellRemote a then 4 else a / 192 * 192 / 4096 % 8 / 2

/-- The sector of a cell (R4). -/
def sectorOf (a : Nat) : Nat := a / 48

/-- The line of a cell: 192 bytes (R139). -/
def lineOf (a : Nat) : Nat := a / 192

/-- L2 slices of a compute die (R139). -/
def l2Slices : Nat := 256

/-- The lines that an L2 slice of 512 KiB holds (R139). -/
def sliceLines : Nat := 512 * 1024 / 192

/-- The home slice of a line: the exclusive-or of the eight-bit fields of its number (R139). -/
def homeSlice (l : Nat) : Nat := (List.range 4).foldl (fun x i => x ^^^ (l / l2Slices ^ i % l2Slices)) 0

/-- The HBM channel of a cell: stack and channel within it (R139). -/
def channelOf (a : Nat) : Nat := a / 4096 % 256

/-- A memory in canonical form: addresses strictly rising, and no entry equal to what an unlisted
address reads as. -/
def memWf (m : List Host.Cell) : Bool := Map.sorted m && m.all fun p => p.2 ≠ 0

/-! ## What a die sees -/

/-- What is seen of a byte: its value, its place in coherence order, the write in flight it came from. -/
structure Seen where
  val : Byte
  idx : Nat
  src : Option Nat
  own : Bool
  deriving DecidableEq, Repr

/-- A byte at its home. -/
def MemSt.atHome (m : MemSt) (a : Nat) : Seen :=
  { val := Map.get m.bytes 0 a, idx := Map.get m.idx 0 a, src := Map.find m.lastW a, own := false }

/-- The key of a die's copy of a byte. -/
def copyKey (d a : Nat) : Nat := d * 2 ^ 39 + a

/-- A byte as a die sees it (R427). -/
def MemSt.view (m : MemSt) (d a : Nat) : Seen :=
  if cellRemote a || homeDie a == d then m.atHome a
  else match Map.find m.copies (copyKey d a) with
    | some c => { val := c.val, idx := c.idx, src := c.src, own := c.own }
    | none => m.atHome a

/-- A die holds a copy of a cell's line (R139). -/
def MemSt.holds (m : MemSt) (e a : Nat) : Bool := (Map.get m.masks 0 (lineOf a)).testBit e

/-- A die gives up its copy of a line: its bit leaves the mask of the home slice (R139). -/
def MemSt.dropLine (m : MemSt) (e l : Nat) : MemSt :=
  let old := Map.get m.masks 0 l
  let new := if old.testBit e then old - 2 ^ e else old
  { m with masks := if new = 0 then Map.drop m.masks l else Map.put m.masks l new }

/-- A die takes a copy of a cell's line into its slice of the same number (R139): a line whose home is elsewhere in the
package. A full slice gives up its lowest line (DESIGN CHOICE, log entry 122). -/
def MemSt.takeLine (m : MemSt) (e a : Nat) : MemSt :=
  if cellRemote a || homeDie a == e || m.holds e a then m
  else
    let l := lineOf a
    let there := m.masks.filter fun (p : Nat × Nat) => p.2.testBit e && homeSlice p.1 == homeSlice l
    let m := if there.length < sliceLines then m
      else match there with
        | p :: _ => m.dropLine e p.1
        | [] => m
    { m with masks := Map.put m.masks l (Map.get m.masks 0 l + 2 ^ e) }

/-- A die has read cells, from its own copies of their lines (R139). -/
def State.tookLines (s : State) (e : Nat) (cells : List Nat) : State :=
  s.onMem fun m => (cells.map fun a => a / 192 * 192).dedup.foldl (fun (m : MemSt) a => m.takeLine e a) m

/-- The key material of an entry of the ring. -/
def KeySt.material (k : KeySt) (n : Nat) : BitVec 512 :=
  match k.ring[n]? with
  | some r => r.key
  | none => 0

/-- Two entries hold one key, or both are none. -/
def KeySt.same (k : KeySt) (a b : Option Nat) : Bool :=
  match a, b with
  | none, none => true
  | some x, some y => x == y || k.material x == k.material y
  | none, some _ | some _, none => false

/-- The tweak of a 16-byte block: PA[51:4] (R280). -/
def State.tweak (s : State) (block : Nat) : BitVec 128 :=
  BitVec.ofNat 128 (if 2 ^ 48 ≤ block then block - 2 ^ 48 else block + s.pkg * 2 ^ 40)

/-- A block written under one key as an access under another key reads it (R280). -/
def State.rekey (s : State) (block : Nat) (old new : Option Nat) (v : BitVec 128) : BitVec 128 :=
  if s.keys.same old new then v
  else
    let c := match old with
      | some k => xtsEnc (s.keys.material k) (s.tweak block) v
      | none => v
    match new with
    | some k => xtsDec (s.keys.material k) (s.tweak block) c
    | none => c

/-- The sixteen bytes of a block as `f` gives them. -/
def blockOf (f : Nat → Byte) (block : Nat) : BitVec 128 :=
  BitVec.ofNat 128 (leNat ((List.range 16).map fun i => f (block * 16 + i)))

/-- A byte as an access under a key reads it. -/
def State.byteAs (s : State) (f : Nat → Byte) (key : Option Nat) (a : Nat) : Byte :=
  let tag := Map.find s.mem.keys (a / 16)
  if s.keys.same tag key then f a
  else (s.rekey (a / 16) tag key (blockOf f (a / 16))).extractLsb' (a % 16 * 8) 8

/-- Bytes of memory as a die sees them under a key, at the home when `home` is set. -/
def State.memBytes (s : State) (d : Nat) (home : Bool) (key : Option Nat) (a n : Nat) : List Byte :=
  (List.range n).map fun i =>
    s.byteAs (fun x => if home then (s.mem.atHome x).val else (s.mem.view d x).val) key (a + i)

/-- Bytes at the home as they were written, whatever their key: what a table walk reads (R141). -/
def State.homeBytes (s : State) (a n : Nat) : List Byte :=
  (List.range n).map fun i => (s.mem.atHome (a + i)).val

/-- Bytes at the home as they are stored, in cipher form: what a physical access through BAR2 reads
(R280). -/
def State.storedBytes (s : State) (a n : Nat) : List Byte :=
  (List.range n).map fun i => s.byteAs (fun x => (s.mem.atHome x).val) none (a + i)

/-- Hardware sets A and D bits of a page table entry with an atomic update at its home (R143). -/
def State.setPageBits (s : State) (loc bits : Nat) : State :=
  let b := (s.mem.atHome loc).val
  let b' := b ||| BitVec.ofNat 8 bits
  if b = b' then s
  else s.onMem fun m =>
    { m with bytes := putByte m.bytes loc b', idx := Map.put m.idx loc (Map.get m.idx 0 loc + 1),
             copies := m.copies.filter fun (p : Nat × Copy) => p.1 % 2 ^ 39 ≠ loc }

/-! ## Performing a write at its home -/

/-- A block takes the key of a write: its other bytes are read under their old key and kept (R280). The
other dies' copies of a block whose key changes are dropped. -/
def State.takeKey (s : State) (key : Option Nat) (block : Nat) : State :=
  let tag := Map.find s.mem.keys block
  let old := blockOf (fun x => (s.mem.atHome x).val) block
  let s := if (Map.find s.mem.dirty block).isSome || cellRemote (block * 16) then s
    else s.onMem fun m => { m with dirty := Map.put m.dirty block (old, tag) }
  if tag = key then s
  else
    let new := s.rekey block tag key old
    s.onMem fun m =>
      { m with
        keys := match key with
          | some k => Map.put m.keys block k
          | none => Map.drop m.keys block,
        bytes := putBytes m.bytes (block * 16) (leBytes new.toNat 16),
        copies := if s.keys.same tag key then m.copies
          else m.copies.filter fun (p : Nat × Copy) => p.1 % 2 ^ 39 / 16 ≠ block }

/-- The blocks a run of bytes touches. -/
def blocksOf (a n : Nat) : List Nat := (List.range ((a % 16 + n + 15) / 16)).map fun i => a / 16 + i

/-- One byte is performed at its home (R191): it takes the next place in coherence order; the dies in
`now` see it at once, and every other die keeps what it saw. A byte of a sealed frame keeps its value (R283). -/
def MemSt.homeByte (m : MemSt) (id : Nat) (now : List Nat) (a : Nat) (b : Byte) : MemSt :=
  let old := m.atHome a
  let b := if (Map.find m.sealed (a / 4096)).isSome then old.val else b
  let h := homeDie a
  let copies := if cellRemote a then m.copies else
    allDies.foldl (fun cs e =>
      if e = h then cs
      else if now.contains e then
        match Map.find cs (copyKey e a) with
        | some c => if c.own && c.src ≠ some id then cs else Map.drop cs (copyKey e a)
        | none => cs
      else
        match Map.find cs (copyKey e a) with
        | some _ => cs
        | none => Map.put cs (copyKey e a) { val := old.val, idx := old.idx, src := old.src, own := false })
      m.copies
  { m with bytes := putByte m.bytes a b, idx := Map.put m.idx a (old.idx + 1),
           lastW := Map.put m.lastW a id, copies := copies }

/-- Bytes are performed at their home one after another. -/
def MemSt.homeWrite (m : MemSt) (id : Nat) (now : List Nat) (a : Nat) : List Byte → MemSt
  | [] => m
  | b :: rest => MemSt.homeWrite (m.homeByte id now a b) id now (a + 1) rest

/-- The places in coherence order of a run of bytes. -/
def MemSt.idxOf (m : MemSt) (a n : Nat) : List Nat := (List.range n).map fun i => Map.get m.idx 0 (a + i)

/-- A plain write in flight gives way, at a die that has applied it, to an older plain write that arrives there later
(R427), while nothing counts on where it has been applied: then it arrives there once more. -/
def MemSt.givesWay (m : MemSt) (src : Option Nat) (id : Nat) : Bool :=
  match src with
  | none => false
  | some n => n != id && m.writes.any fun w =>
      w.id == n && !w.causal && w.amo.isNone && !w.dup && !w.fixed && !(allDies.all fun e => w.appliedAt e)

/-- A write that has given way at a byte of a die is to arrive there again. -/
def MemSt.unapply (m : MemSt) (e a : Nat) (src : Option Nat) : MemSt :=
  let f (p : WritePart) : WritePart :=
    if p.pa ≤ a && a < p.pa + p.data.length then { p with applied := p.applied.filter fun x => x ≠ e } else p
  { m with writes := m.writes.map fun w => if some w.id = src then { w with parts := w.parts.map f } else w }

/-- A write that was performed at its home arrives at a die (R191, R427). A later write of coherence order stays in its
place, but for a plain one that gives way to a plain one (R427). -/
def MemSt.applyByte (m : MemSt) (e id a : Nat) (plain : Bool) (b : Byte) (idx : Nat) : MemSt :=
  let older (src : Option Nat) : MemSt :=
    if plain && m.givesWay src id then
      let k : Copy := { val := b, idx := idx, src := some id, own := false }
      { m.unapply e a src with copies := Map.put m.copies (copyKey e a) k }
    else m
  if cellRemote a || homeDie a == e then m
  else match Map.find m.copies (copyKey e a) with
    | none => if idx < Map.get m.idx 0 a then older (Map.find m.lastW a) else m
    | some c =>
      if c.own && c.src ≠ some id then m
      else if idx = c.idx && !c.own then m
      else if idx < c.idx && !c.own then older c.src
      else if idx = Map.get m.idx 0 a then { m with copies := Map.drop m.copies (copyKey e a) }
      else
        let k : Copy := { val := b, idx := idx, src := some id, own := false }
        { m with copies := Map.put m.copies (copyKey e a) k }

/-- A die applies a part of a write, and its copies of the part's lines are invalid (R139, R190). -/
def MemSt.applyPart (m : MemSt) (e id : Nat) (plain : Bool) (p : WritePart) : MemSt :=
  let m := ((p.data.zip p.idx).zip (List.range p.data.length)).foldl
    (fun m x => m.applyByte e id (p.pa + x.2) plain x.1.1 x.1.2) m
  if cellRemote p.pa then m
  else [lineOf p.pa, lineOf (p.pa + p.data.length - 1)].foldl (fun (m : MemSt) l => m.dropLine e l) m

/-- A die reads its own causal write at once, before the home performs it (R190). -/
def MemSt.ownPart (m : MemSt) (e id : Nat) (p : WritePart) : MemSt :=
  if cellRemote p.pa || homeDie p.pa == e then m
  else (p.data.zip (List.range p.data.length)).foldl (fun m x =>
    let k : Copy := { val := x.1, idx := 0, src := some id, own := true }
    { m with copies := Map.put m.copies (copyKey e (p.pa + x.2)) k }) m

/-! ## Writes in flight -/

/-- Change a write in flight. -/
def State.onWrite (s : State) (id : Nat) (f : MemWrite → MemWrite) : State :=
  s.onMem fun m => { m with writes := m.writes.map fun w => if w.id = id then f w else w }

/-- Every part has been performed at its home. -/
def MemWrite.allDone (w : MemWrite) : Bool := w.parts.all fun p => p.done

/-- A write has been performed at its homes. -/
def State.isDone (s : State) (id : Nat) : Bool :=
  match s.write id with
  | none => true
  | some w => w.allDone

/-- The clock test of a causal write at a die (R190 step 2). -/
def stampTest (vc stamp : Stamp) (d : Nat) : Bool :=
  (List.finRange 5).all fun i =>
    if i.val = d then vc[i] + 1 == stamp[i] else stamp[i] ≤ vc[i]

/-- Every entry of a clock has reached another clock (R190 step 4). -/
def Stamp.covers (vc k : Stamp) : Bool := (List.finRange 5).all fun i => k[i] ≤ vc[i]

/-- The entry-by-entry maximum of two clocks (R190 step 3). -/
def Stamp.join (a b : Stamp) : Stamp := Vector.ofFn fun i => max a[i] b[i]

/-- Set one entry of a clock. -/
def Stamp.put (a : Stamp) (d v : Nat) : Stamp := Vector.ofFn fun i => if i.val = d then v else a[i]

/-- The entry of a clock for a die. -/
def Stamp.get (a : Stamp) (d : Nat) : Nat := a.toList.getD d 0

/-- The clock of a die (R190). -/
def State.vc (s : State) (d : Nat) : Stamp := (s.die d).vc

/-- A die has applied a causal write whole: its clock moves on (R190 step 2). -/
def State.advanceClock (s : State) (e : Nat) (w : MemWrite) : State :=
  s.onDie e fun x => { x with vc := Stamp.put x.vc w.die (max (x.vc.get w.die) (w.stamp.get w.die)) }

/-- The orders that come before a write at a die hold: the writes it comes after are applied there, and a
causal write passes the clock test (R190, R192). What comes before it for the agents of its own die is applied on that die
first (R187). -/
def State.mayApply (s : State) (e : Nat) (w : MemWrite) : Bool :=
  (w.after.all fun n => s.isApplied e n) && (w.near.all fun n => s.isApplied w.die n) &&
  (!w.causal || e == w.die || stampTest (s.vc e) w.stamp w.die || w.parts.any fun p => p.applied.contains e)

/-- A channel serves accesses: it is not paused for recalibration (R33). -/
def MemSt.serves (m : MemSt) (a : Nat) : Bool := cellRemote a || !m.paused.contains (channelOf a)

/-- Change the CAPSINK unit of a slot (R229). -/
def State.onSink (s : State) (d n : Nat) (f : SinkSt → SinkSt) : State :=
  s.onSlot d n fun x => { x with sink := x.sink.map f }

/-- A write to the ring of a CAPSINK unit faults: the unit has ended by a fault, and the management core is told
(R229). -/
def State.sinkFault (s : State) (d n : Nat) (code : FCode) : State :=
  (s.onSink d n fun x => { x with failed := true }).notify d (.nodeFault n code.num)

/-- Who is told of a fault that the home finds after acceptance; a spill write spoils the escape of its capsule (R228). -/
def State.writerFault (s : State) (w : MemWrite) (code : FCode) : State :=
  match w.src with
  | .ctx c => s.queueTrap c (impreciseReq code w.pc w.va none .none)
  | .engine c op =>
    let fail (o : Option EngOp) : Option EngOp := o.map fun x =>
      if x.id = op && x.failed.isNone then { x with failed := some (code, w.va) } else x
    s.onCore c.coreId fun x => { x with ce := { x.ce with active := fail x.ce.active } }
  | .mgmt d =>
    let mine (f : CapFlight) : Bool := f.escaping == some w.id
    if s.net.flights.any mine then
      { s with net := { s.net with flights := s.net.flights.map fun f => if mine f then { f with spoiled := true } else f } }
    else s.notify d (.report code (match w.parts with
      | p :: _ => p.pa
      | [] => 0))
  | .sink d n => s.sinkFault d n code
  | .gone _ | .sec | .other => s

/-- The sectors of a part that it writes only in part. -/
def WritePart.partSectors (p : WritePart) : List Nat :=
  let n := p.data.length
  if n = 0 then [] else
  let first := sectorOf p.pa
  let last := sectorOf (p.pa + n - 1)
  ((if p.pa % 48 = 0 && first * 48 + 48 ≤ p.pa + n then [] else [first])
    ++ (if (p.pa + n) % 48 = 0 && p.pa ≤ last * 48 then [] else [last])).dedup

/-- The sectors of a part. -/
def WritePart.sectors (p : WritePart) : List Nat :=
  if p.data.length = 0 then [] else
  (List.range (sectorOf (p.pa + p.data.length - 1) - sectorOf p.pa + 1)).map fun i => sectorOf p.pa + i

/-- The other parts of the same write cover a sector whole (R148): a 64-byte store is one write. -/
def MemWrite.covers (w : MemWrite) (sec : Nat) : Bool :=
  (List.range 48).all fun i => w.parts.any fun p =>
    p.pa ≤ sec * 48 + i && sec * 48 + i < p.pa + p.data.length

/-- Perform one part of a write at its home (R191): the bytes take their places in coherence order; a
partial write to a sector whose other bytes are bad is not performed and raises ECC-RMW (R148). -/
def State.performPart (s : State) (w : MemWrite) (i : Nat) (p : WritePart) : State :=
  let h := homeDie p.pa
  let bad := p.partSectors.filter fun sec => !w.covers sec && eccBlocks s.mem.ecc [sec]
  let here := if cellRemote p.pa then allDies else if w.causal && w.amo.isNone then [h, w.die] else [h]
  let now := if w.dup then allDies else here
  let s := if bad.isEmpty then
      let s := (blocksOf p.pa p.data.length).foldl (fun s b => s.takeKey p.key b) s
      s.onMem fun m =>
        let ecc := eccClear m.ecc (p.sectors.filter w.covers)
        { m.homeWrite w.id now p.pa p.data with
            ecc := if p.poison then p.sectors.foldl (fun e n => Map.put e n .poison) ecc else ecc }
    else
      (s.onMem fun m => { m with ecc := bad.foldl (fun e n => Map.put e n .poison) m.ecc }).writerFault w .eccRmw
  let idx := s.mem.idxOf p.pa p.data.length
  let p' := if bad.isEmpty then
      { p with done := true, idx := idx, applied := here.foldl (fun l e => if l.contains e then l else e :: l) p.applied }
    else { p with done := true, data := [], idx := [], applied := allDies }
  let s := s.onWrite w.id fun x => { x with parts := x.parts.set i p' }
  match s.write w.id with
  | none => s
  | some w' => if w.causal && h ≠ w.die && w'.appliedAt h then s.advanceClock h w' else s

/-- Change the ordering state of a management core (R186). -/
def State.onHartOrder (s : State) (d : Nat) (f : Order → Order) : State :=
  s.onDie d fun x => { x with mgmt := { x.mgmt with order := f x.mgmt.order } }

/-- The coherence floor that a context's own write leaves (R191). -/
def State.ownFloor (s : State) (w : MemWrite) (p : WritePart) : State :=
  let f (m : Map Nat) : Map Nat := ((List.range p.data.length).foldl (fun m k =>
    Map.put m (p.pa + k) (max (Map.get m 0 (p.pa + k)) (Map.get s.mem.idx 0 (p.pa + k)))) m)
  let floors (o : Order) : Order := { o with seen := f o.seen, causal := if w.causal then f o.causal else o.causal }
  match w.src with
  | .ctx c => s.onOrder c floors
  | .mgmt d => s.onHartOrder d fun o => floors o
  | .engine _ _ | .sink _ _ | .gone _ | .sec | .other => s

/-- HOME_WRITE_PERFORM: perform part `i` of write `id`, when its orders hold and its channel serves it
(R191, R33). -/
def State.homePerform (s : State) (id i : Nat) : State :=
  match s.write id with
  | none => s
  | some w =>
    match w.parts[i]? with
    | none => s
    | some p =>
      if p.done || w.amo.isSome || !s.mem.serves p.pa || !s.mayApply (homeDie p.pa) w then s
      else (s.performPart w i p).ownFloor w p

/-- A causal atomic of a die that the die has not applied writes a byte: the die's clock counts it already (R190 step 1). -/
def State.amoOpen (s : State) (d a : Nat) : Bool :=
  s.mem.writes.any fun w => w.causal && w.amo.isSome && w.die == d && !w.appliedAt d &&
    w.parts.any fun p => p.pa ≤ a && a < p.pa + p.data.length

/-- A write leaves the list when it is acknowledged and every die has applied it. -/
def State.retireWrite (s : State) (id : Nat) : State :=
  match s.write id with
  | none => s
  | some w =>
    if w.acked && w.sysAck && allDies.all fun e => w.appliedAt e then
      s.onMem fun m =>
        { m with writes := m.writes.filter fun x => x.id ≠ id,
                 lastW := m.lastW.filter fun (p : Nat × Nat) => p.2 ≠ id,
                 copies := m.copies.map fun (p : Nat × Copy) =>
                   (p.1, if p.2.src = some id then { p.2 with src := none } else p.2) }
    else s

/-- A die applies every part of a write that it has not applied (R190 step 2, R427). -/
def State.applyAll (s : State) (w : MemWrite) (e : Nat) : State :=
  let s := s.onMem fun m => w.parts.foldl (fun m p =>
    if p.applied.contains e then m else m.applyPart e w.id (!w.causal) p) m
  let s := s.onWrite w.id fun x =>
    { x with parts := x.parts.map fun p =>
        if p.applied.contains e then p else { p with applied := e :: p.applied } }
  if w.causal then s.advanceClock e w else s

/-- CAUSAL_WRITE_APPLY: a die applies a causal write that its homes have performed, when its clock
passes the test (R190). -/
def State.causalApply (s : State) (id e : Nat) : State :=
  match s.write id with
  | none => s
  | some w =>
    if !w.causal || !w.allDone || w.appliedAt e || !s.mayApply e w then s
    else (s.applyAll w e).retireWrite id

/-- PLAIN_WRITE_APPLY: a plain write that its home has performed arrives at a die (R427). -/
def State.plainApply (s : State) (id i e : Nat) : State :=
  match s.write id with
  | none => s
  | some w =>
    match w.parts[i]? with
    | none => s
    | some p =>
      if w.causal || !p.done || p.applied.contains e || !s.mayApply e w then s
      else
        let s := s.onMem fun m => m.applyPart e id true p
        (s.onWrite id fun x => { x with parts := x.parts.set i { p with applied := e :: p.applied } }).retireWrite id

/-- Change the bound unit of a context. -/
def State.onUnit (s : State) (c : CtxId) (f : UnitRef → UnitRef) : State :=
  s.onCtx c fun x => { x with unit := x.unit.map f }

/-- STORE_ACK: the home acknowledges a write that it has performed, and the store-acknowledgement count
of the unit falls (R48); for another package or the host a second acknowledgement counts at system scope
(R200). -/
def State.ackWrite (s : State) (id : Nat) : State :=
  match s.write id with
  | none => s
  | some w =>
    if !w.allDone then s
    else if w.acked then (s.onWrite id fun x => { x with sysAck := true }).retireWrite id
    else
      let s := s.onWrite id fun x => { x with acked := true, sysAck := x.sysAck || x.parts.all fun p => !cellRemote p.pa }
      let s := match w.src with
        | .ctx c => s.onUnit c fun u => { u with pending := u.pending - 1 }
        | .engine c _ => s.onUnit c fun u => { u with pending := u.pending - 1 }
        | .sink d n => s.onSink d n fun x => { x with pending := x.pending - 1 }
        | .mgmt _ | .gone _ | .sec | .other => s
      s.retireWrite id

/-! ## Issuing a write -/

/-- Cut a run of bytes into parts that are single-copy atomic (R198): whole when it is aligned and of 8
bytes or less, in aligned sixteens when it is an aligned vector, and byte by byte otherwise. -/
def atomParts (va : Nat) (n : Nat) : List (Nat × Nat) :=
  if n ≤ 8 && va % n = 0 then [(0, n)]
  else if n = 64 && va % 16 = 0 then [(0, 16), (16, 16), (32, 16), (48, 16)]
  else (List.range n).map fun i => (i, 1)

/-- The parts of a store at cells given byte by byte, each with its key. -/
def writeParts (va : Nat) (cells : List (Nat × Option Nat)) (data : List Byte) : List WritePart :=
  (atomParts va data.length).map fun p =>
    .issue (cells.getD p.1 (0, none)).1 ((data.drop p.1).take p.2) (cells.getD p.1 (0, none)).2 false

/-- Something counts on where some writes have been applied: no older write takes their place any more (R427). -/
def State.fixWrites (s : State) (ids : List Nat) : State :=
  if ids.isEmpty then s
  else s.onMem fun m => { m with writes := m.writes.map fun w => if ids.contains w.id then { w with fixed := true } else w }

/-- A new write takes its number and, when it is causal, its stamp; the issuing die sees a causal write
at once (R190 step 1). -/
def State.sendWrite (s : State) (w : MemWrite) : State :=
  let id := s.fresh
  let s := if w.causal then s.onDie w.die fun x => { x with vc := Stamp.put x.vc w.die (x.vc.get w.die + 1) } else s
  let w := { w with id := id, stamp := if w.causal then s.vc w.die else Stamp.zero }
  let s := ((s.fixWrites (joinIds w.after w.near)).onMem fun m => { m with writes := m.writes ++ [w] }).bump
  if w.causal && w.amo.isNone then
    (w.parts.zip (List.range w.parts.length)).foldl (fun s p =>
      if homeDie p.1.pa = w.die && s.mem.serves p.1.pa then (s.performPart w p.2 p.1).ownFloor w p.1
      else
        let s := s.onMem fun m => m.ownPart w.die id p.1
        s.onWrite id fun x => { x with parts := x.parts.set p.2 { p.1 with applied := [w.die] } }) s
  else s

/-! ## Atomics at the home (R199) -/

/-- A late result is dropped: its register keeps its old value, and a latch that waits for it becomes
invalid (R293, R250). -/
def State.dropLate (s : State) (c : CtxId) (id : Nat) : State :=
  let s := s.onRegs c fun r => { r with l := r.l.map fun x => if x.pend = some id then Latch.invalid else x }
  s.onWait c fun w => { w with lates := w.lates.filter fun x => x.id ≠ id }

/-- The late result of a context that waits for an atomic. -/
def State.lateOfAmo (s : State) (c : CtxId) (id : Nat) : Option Late :=
  (s.ctx c).wait.lates.find? fun l => l.src == .amo id

/-- The late result that a writer waits for with an atomic. -/
def State.lateOf (s : State) (w : Writer) (id : Nat) : Option Late :=
  match w with
  | .ctx c => s.lateOfAmo c id
  | .engine .. | .mgmt _ | .sink .. | .gone _ | .sec | .other => none

/-- An atomic that meets uncorrectable or poisoned data at its home: it writes nothing, and its context
takes the fault as I (R298). -/
def State.amoFault (s : State) (w : MemWrite) (q : AmoReq) (p : WritePart) (code : FCode) : State :=
  let s := s.onWrite w.id fun x => { x with parts := [{ p with data := [], done := true, applied := allDies }] }
  match w.src with
  | .ctx c =>
    match s.lateOfAmo c w.id with
    | none => s
    | some l =>
      let k : AccKind := .amo q.op q.size w.causal false l.d q.operand q.compare
      let s := s.dropLate c l.id
      if (s.ctx c).ctl.precise then
        s.queueTrap c { preciseReq code w.pc w.va with resume := some w.pc }
      else s.queueTrap c (impreciseReq code w.pc w.va (some k) l.d)
  | .sink d n => s.sinkFault d n code
  | .engine _ _ | .mgmt _ | .gone _ | .sec | .other => s

/-- AMO_HOME_PERFORM: the home reads and writes in one step of coherence order; a CAS that finds a
mismatch is a read only (R297). -/
def State.amoPerform (s : State) (id : Nat) : State :=
  match s.write id with
  | none => s
  | some w =>
    match w.amo, w.parts with
    | some q, p :: _ =>
      if p.done || !s.mem.serves p.pa || !s.mayApply (homeDie p.pa) w then s
      else
        let h := homeDie p.pa
        let r := eccRead s.mem.ecc [sectorOf p.pa]
        let s := s.onMem fun m => { m with ecc := eccAfterRead m.ecc [sectorOf p.pa] }
        let s := match w.src, s.lateOf w.src id with
          | .ctx c, some l => if r.corrected = 0 then s else s.countEvents c w.pc false (evCorrected r.corrected) l.d
          | _, _ => s
        match r.fault with
        | some code => s.amoFault w q p code
        | none =>
          let old := leNat (s.memBytes h true p.key p.pa q.size)
          let srcs := (List.range q.size).filterMap fun i => (s.mem.atHome (p.pa + i)).src
          let p' := { p with data := (amoBytes q.op q.size old q.operand q.compare).getD [] }
          -- what it read happens before its own write (R192)
          let w' := { w with parts := [p'], amo := some { q with old := some (BitVec.ofNat 64 old), srcs := srcs.dedup },
                             after := joinIds w.after srcs.dedup }
          let s := (s.fixWrites srcs).onWrite id fun _ => w'
          let s := if p'.data.isEmpty then s else s.setPageBits q.loc 0x20
          (s.performPart w' 0 p').ownFloor w' p'
    | _, _ => s

end Sys2Proof.Machine
end

