-- ==== Sys2Proof/Machine/Translate.lean ====
section
/-! DEFINITION. Translation: page table walks (R141, R142), the checks of an access in their order (R143,
R280, R283, R31), and the TLBs (R144). -/

namespace Sys2Proof.Machine

/-- What an access is, for its checks: a write, a fetch, a sealing copy under a named slot, and the SEAL
fault it meets on a sealed page (R143, R284). -/
structure XKind where
  write : Bool
  fetch : Bool
  sealing : Option Nat
  sealCode : FCode
  deriving DecidableEq, Repr

/-- A read by an instruction. -/
def xRead : XKind := { write := false, fetch := false, sealing := none, sealCode := .sealLd }
/-- A write by an instruction. -/
def xWrite : XKind := { write := true, fetch := false, sealing := none, sealCode := .sealLd }
/-- An instruction fetch. -/
def xFetch : XKind := { write := false, fetch := true, sealing := none, sealCode := .sealLd }
/-- A read by the copy engine. -/
def xCopyRead : XKind := { write := false, fetch := false, sealing := none, sealCode := .sealCpy }
/-- A write by the copy engine. -/
def xCopyWrite : XKind := { write := true, fetch := false, sealing := none, sealCode := .sealCpy }

/-- A fault of a translation: its code, FREC's address word, and whether the management core is offered it
(R146). -/
structure XFault where
  code    : FCode
  addr    : Word
  offered : Bool
  deriving DecidableEq, Repr

/-- A translated address: its cell, the key of the access, whether it is served at its home only (a page of
TYPE 10, another package), and the entry that gave it. -/
structure Xlat where
  cell  : Nat
  key   : Option Nat
  atHome : Bool
  entry : TlbEntry
  deriving DecidableEq, Repr

/-! ## Entries (R142) -/

/-- A field of a page table entry. -/
def pteField (p : Word) (lo n : Nat) : Nat := (p.extractLsb' lo n).toNat
/-- V. -/
def pteV (p : Word) : Bool := p.getLsbD 0
/-- L. -/
def pteLeaf (p : Word) : Bool := p.getLsbD 1
/-- W. -/
def pteW (p : Word) : Bool := p.getLsbD 2
/-- X. -/
def pteX (p : Word) : Bool := p.getLsbD 3
/-- D. -/
def pteD (p : Word) : Bool := p.getLsbD 5
/-- TYPE. -/
def pteType (p : Word) : Nat := pteField p 6 2
/-- DUP. -/
def pteDup (p : Word) : Bool := p.getLsbD 8
/-- C. -/
def pteC (p : Word) : Bool := p.getLsbD 9
/-- PA, as an address. -/
def ptePa (p : Word) : Nat := pteField p 12 40 * 4096
/-- WORLD. -/
def pteWorld (p : Word) : Nat := pteField p 52 4
/-- KEY. -/
def pteKey (p : Word) : Nat := pteField p 56 6

/-- The checks of R143's first row on an entry at a level. A level-0 entry with L = 0 points to a table that no level has: it
is taken for an entry that does not exist, PG-NP (DESIGN CHOICE, log entry 123). -/
def pteBad (p : Word) (level : Nat) : Bool :=
  !pteV p || pteField p 62 2 != 0 || pteField p 10 2 != 0 || pteType p == 3 || decide (7 < pteWorld p)
    || (pteLeaf p && decide (3 ≤ level)) || (pteC p && level != 0) || (!pteLeaf p && level == 0)

/-- Bytes of a page of a size code (R145). -/
def pageBytes (size : Nat) : Nat :=
  match size with
  | 0 => 2 ^ 12
  | 1 => 2 ^ 16
  | 2 => 2 ^ 21
  | _ => 2 ^ 30

/-- The virtual address is canonical (R141). -/
def vaOk (va : Word) : Bool :=
  let top := va.extractLsb' 56 8
  top == 0 || top == BitVec.allOnes 8

/-- The sixteen entries of a 64 KiB page agree (R142). -/
def State.setOk (s : State) (loc : Nat) (p : Word) : Bool :=
  let base := loc / 128 * 128
  let rest (q : Word) : Word := q &&& ~~~(0xF030 : Word)
  (List.range 16).all fun i =>
    let q := BitVec.ofNat 64 (leNat (s.homeBytes (base + 8 * i) 8))
    rest q == rest p && pteField q 12 4 == i

/-- A cell lies in a retired channel (R31). -/
def State.isRetired (s : State) (a : Nat) : Bool := !cellRemote a && s.mem.retired.contains (channelOf a)

/-- A walk from a table at a level (R141): the leaf, or a fault code with FREC's address word. A walk that reaches a retired
channel records the physical address (R31). -/
def State.walkFrom (s : State) (world : Nat) (va : Word) (level table : Nat) : Except (FCode × Word) TlbEntry :=
  let at' := table + 8 * (va.extractLsb' (12 + 9 * level) 9).toNat
  let loc := s.cell at'
  let p := BitVec.ofNat 64 (leNat (s.homeBytes loc 8))
  if s.isRetired loc then .error (.pgNp, BitVec.ofNat 64 at')
  else if pteBad p level then .error (.pgNp, va)
  else if pteLeaf p then
    let size := if level = 0 then (if pteC p then 1 else 0) else level + 1
    if level = 0 && pteC p && !s.setOk loc p then .error (.pgSize, va)
    else
      .ok { world := world, size := size, va := va.toNat / pageBytes size * pageBytes size, pte := p, loc := loc }
  else
    match level with
    | 0 => .error (.pgNp, va)
    | l + 1 => s.walkFrom world va l (ptePa p)

/-- A walk from the root of a world (R141). -/
def State.walk (s : State) (world : Nat) (va : Word) : Except (FCode × Word) TlbEntry :=
  s.walkFrom world va 4 (Map.get s.roots 0 world)

/-- The entry of a TLB that maps an address. -/
def tlbFind (l : List TlbEntry) (world : Nat) (va : Word) : Option TlbEntry :=
  l.find? fun e => e.world == world && e.va == va.toNat / pageBytes e.size * pageBytes e.size

/-- The physical address of a virtual one under an entry. R142 says that PA's low bits are zero to the page size; others are
ignored (DESIGN CHOICE, log entry 123). -/
def TlbEntry.pa (e : TlbEntry) (va : Word) : Nat :=
  ptePa e.pte / pageBytes e.size * pageBytes e.size + va.toNat % pageBytes e.size

/-! ## Checks (R143, R280, R283) -/

/-- A key slot. -/
def KeySt.slot (k : KeySt) (n : Nat) : KeySlot := Map.get k.slots KeySlot.reset n

/-- Every frame of `n` bytes from a cell is sealed under a slot (R283). -/
def MemSt.sealedUnder (m : MemSt) (a n slot : Nat) : Bool :=
  (m.sealed.filter fun (p : Nat × Nat) => decide (a / 4096 ≤ p.1 ∧ p.1 < (a + n) / 4096) && p.2 == slot).length == n / 4096

/-- The checks of an access to a leaf, in the order of R143 and R280; an access that passes them reaches its channel, which
may be retired (R31). -/
def State.leafFault (s : State) (world : Nat) (k : XKind) (e : TlbEntry) (va : Word) : Option XFault :=
  let p := e.pte
  let pa := e.pa va
  let a := s.cell pa
  let page (c : FCode) : Option XFault := some { code := c, addr := va, offered := true }
  let direct (c : FCode) : Option XFault := some { code := c, addr := va, offered := false }
  let slot := s.keys.slot (pteKey p)
  if pteWorld p ≠ world then page .pgPerm
  else if k.write && !pteW p then page .pgPerm
  else if k.fetch && !pteX p then page .pgPerm
  else if pa.testBit 43 && pteType p != 2 then page .pgPerm
  else if pteType p = 1 && !s.mem.sealedUnder (s.cell (ptePa p / pageBytes e.size * pageBytes e.size)) (pageBytes e.size)
      (pteKey p) then page .pgPerm
  else
    let reach : Option XFault :=
      if s.isRetired a then some { code := .pgNp, addr := BitVec.ofNat 64 pa, offered := true } else none
    match k.sealing with
    | some n =>
      if pteType p ≠ 1 || pteKey p ≠ n || slot.kind = .xts || slot.world ≠ world then direct .pgPerm
      else if slot.phase ≠ .active then direct .keyRevoked
      else reach
    | none =>
      if pteType p = 1 then direct k.sealCode
      else if k.write && pteDup p then some { code := .pgDupw, addr := va, offered := true }
      else if pteType p = 2 then reach
      else if slot.phase ≠ .active then direct .keyRevoked
      else if slot.world ≠ world || slot.kind = .gcm then direct .pgPerm
      else reach

/-- Translate one address of a world (R143): through the entries of a TLB, else by a walk; `bound` is the
page size an engine must meet (R144). -/
def State.xlate (s : State) (tlb : List TlbEntry) (world : Nat) (bound : Option Nat) (k : XKind) (va : Word) :
    Except XFault Xlat :=
  if !vaOk va then .error { code := .pgNp, addr := va, offered := true }
  else
    let r : Except (FCode × Word) TlbEntry := match tlbFind tlb world va with
      | some e => .ok e
      | none => s.walk world va
    match r with
    | .error (c, a) => .error { code := c, addr := a, offered := true }
    | .ok e =>
      if bound.isSome && bound ≠ some e.size then .error { code := .pgSize, addr := va, offered := true }
      else
        match s.leafFault world k e va with
        | some f => .error f
        | none =>
          let pa := e.pa va
          .ok { cell := s.cell pa, key := if pteType e.pte = 2 then none else some (s.keys.slot (pteKey e.pte)).ring,
                atHome := pteType e.pte == 2 || s.isRemote pa, entry := e }

/-- The translations of a run of bytes: one for each page it touches, with the offset at which it begins. -/
def State.xlateRun (s : State) (tlb : List TlbEntry) (world : Nat) (bound : Option Nat) (k : XKind) (va : Word)
    (n : Nat) : Except XFault (List (Nat × Xlat)) := do
  let first ← s.xlate tlb world bound k va
  let cut := 4096 - va.toNat % 4096
  if n ≤ cut then return [(0, first)]
  else
    let second ← s.xlate tlb world bound k (va + BitVec.ofNat 64 cut)
    return [(0, first), (cut, second)]

/-- The cell and key of byte `i` of a translated run. -/
def runCell (xs : List (Nat × Xlat)) (i : Nat) : Nat × Option Nat :=
  match xs with
  | [(_, a), (cut, b)] => if i < cut then (a.cell + i, a.key) else (b.cell + (i - cut), b.key)
  | (_, a) :: _ => (a.cell + i, a.key)
  | [] => (0, none)

/-- The run, or a part of it, is served at its home only. -/
def runAtHome (xs : List (Nat × Xlat)) : Bool := xs.any fun x => x.2.atHome

/-- The size a TLB and a stream TLB hold (R144). -/
def tlbSize (stream : Bool) : Nat := if stream then 16 else 64

/-- Put an entry into a TLB: the oldest entry leaves a full one. -/
def tlbAdd (l : List TlbEntry) (n : Nat) (e : TlbEntry) : List TlbEntry :=
  if l.contains e then l else (e :: l.filter fun x => !(x.world == e.world && x.va == e.va && x.size == e.size)).take n

/-- A core's TLB for an access. -/
def State.tlbOf (s : State) (c : CoreId) (stream : Bool) : List TlbEntry :=
  if stream then (s.core c).stlb else (s.core c).tlb

/-- Fill a TLB with the entries of a run, and set the A bits of the leaves, and their D bits for a write (R143). The table
entries that the walk passes keep their A bits: A is set by an access of the page that an entry maps (DEDUCED, log entry
123). -/
def State.fillTlb (s : State) (c : CoreId) (stream : Bool) (xs : List (Nat × Xlat)) (bits : Nat) : State :=
  xs.foldl (fun s x =>
    let e := { x.2.entry with pte := x.2.entry.pte ||| BitVec.ofNat 64 bits }
    let s := s.onCore c fun y =>
      if stream then { y with stlb := tlbAdd y.stlb 16 e } else { y with tlb := tlbAdd y.tlb 64 e }
    s.setPageBits e.loc bits) s

end Sys2Proof.Machine
end

