-- ==== Sys2Proof/Machine/Access.lean ====
section
/-! DEFINITION. Global accesses of contexts: what comes before them (R190, R192, R193), their issue and
faults (R344, R382, R297, R345, R383, R298), page faults and writes to duplicated pages (R146, R147),
replays (R252, R253), and the return of data (R344, R293). -/

namespace Sys2Proof.Machine

/-! ## What an access comes after (R192, R193) -/

/-- The writes that happen before an access that now issues: before a write, those that do so for every agent; what comes
before it on its own die only is its `near` (R187). -/
def State.ordersOf (s : State) (c : CtxId) (write causal : Bool) (deps : List Nat) : List Nat :=
  let o := (s.ctx c).order
  s.liveOf (joinIds (joinIds o.afterA deps) (joinIds (if write then [] else o.near) (if causal then o.afterC else [])))

/-- A write may issue: the die's clock has reached what the context acquired (R190 step 4), and a causal
write's own die has applied what comes before it. -/
def State.mayIssue (s : State) (c : CtxId) (causal : Bool) (deps : List Nat) : Bool :=
  Stamp.covers (s.vc c.die) (s.ctx c).order.acq &&
  (!causal || (joinIds (s.ordersOf c true true deps) (s.liveOf (s.ctx c).order.near)).all fun n => s.isApplied c.die n)

/-- The stamps and sources of a read's value are carried back (R190 step 3): a causal read acquires them
at once, and what it read happens before the context's later causal accesses (R192). -/
def Order.carry (o : Order) (s : State) (srcs : List Nat) (causal : Bool) : Order :=
  let st := srcs.foldl (fun acc n => match s.write n with
    | some w => if w.causal then Stamp.join acc w.stamp else acc
    | none => acc) Stamp.zero
  let kept := Stamp.join o.kept st
  { o with
    kept := if causal then Stamp.zero else kept,
    acq := if causal then Stamp.join o.acq kept else o.acq,
    readW := joinIds o.readW srcs,
    afterC := if causal then joinIds o.afterC srcs else o.afterC }

/-- A context's read carries back. -/
def State.carryBack (s : State) (c : CtxId) (srcs : List Nat) (causal : Bool) : State :=
  s.onOrder c fun o => o.carry s srcs causal

/-- The places in coherence order of bytes that were read: the floors of later causal reads and of reads after a fence
(R191, R195). -/
def Order.floors (o : Order) (l : List (Nat × Nat)) (causal : Bool) : Order :=
  let f (m : Map Nat) : Map Nat := l.foldl (fun m x => Map.put m x.1 (max (Map.get m 0 x.1) x.2)) m
  { o with seen := f o.seen, causal := if causal then f o.causal else o.causal }

/-- The edges of a fence of a scope (R187, R192, R195, R197): `hb` are the writes read from, and those that happen before
them. -/
def Order.fenced (o : Order) (sc : Scope) (kind : FenceKind) (hb : List Nat) : Order :=
  let fence := o.seen.foldl (fun m p => Map.put m p.1 (max (Map.get m 0 p.1) p.2)) o.fence
  if kind = .rel then { o with fence := fence }
  else
    let o := { o with fence := fence, acq := Stamp.join o.acq o.kept, kept := Stamp.zero }
    match sc with
    | .pkg | .sys => { o with afterA := joinIds o.afterA o.readW, readW := [] }
    | .core | .die => { o with near := joinIds o.near hb }
    | .ctx => o

/-! ## Kinds of access -/

/-- Bytes of an access. -/
def AccKind.bytes : AccKind → Nat
  | .load n .. => n
  | .store data .. => data.length
  | .amo _ n .. => n
  | .submit _ | .rmreq _ => 64

/-- The access writes. -/
def AccKind.writes : AccKind → Bool
  | .load .. | .submit _ | .rmreq _ => false
  | .store .. | .amo .. => true

/-- The access is a switch point (R56). -/
def AccKind.switches : AccKind → Bool
  | .load .. => true
  | .store .. | .amo .. | .submit _ | .rmreq _ => false

/-- The access is causal (R188). -/
def AccKind.isCausal : AccKind → Bool
  | .load _ _ _ c _ _ => c
  | .store _ c _ => c
  | .amo _ _ c .. => c
  | .submit _ | .rmreq _ => false

/-- The destination of an access. -/
def AccKind.dest : AccKind → Dest
  | .load _ _ _ _ _ d => d
  | .store .. => .none
  | .amo _ _ _ _ d _ _ => d
  | .submit d | .rmreq d => d

/-- The dependency key of a destination (R193). -/
def destKey : Dest → Option Nat
  | .g r => some (depG r)
  | .v r => some (depV r)
  | .t _ | .none => none

/-! ## Faults of an access -/

/-- Where an access comes from: the instruction at PC, or a replay that TRET.R issued (R253). -/
structure AccFrom where
  /-- the instruction's address, for the fault record -/
  pc     : Word
  deps   : List Nat
  replay : Bool
  deriving DecidableEq, Repr

/-- An access's instruction completes without waiting. -/
def State.accDone (s : State) (c : CtxId) (f : AccFrom) (sw : Bool) : State :=
  if f.replay then s.onWait c fun w => { w with park := none }
  else
    let s := if sw then s.invalidate c else s
    s.advance c sw

/-- The replay record that an imprecise fault of an access leaves (R252): a record's read leaves none, and neither does
PG-DUPW (R383). -/
def AccKind.replayOf (k : AccKind) (code : FCode) : Option AccKind :=
  match k with
  | .load .. | .store .. | .amo .. => if code = .pgDupw then none else some k
  | .submit _ | .rmreq _ => none

/-- A fault of an access that no one resolves (R250, R252, R253): precise under the precise bit, and
otherwise imprecise with a replay record. -/
def State.accFault (s : State) (c : CtxId) (k : AccKind) (f : AccFrom) (code : FCode) (addr : Word) : State :=
  if f.replay then
    let t := { impreciseReq code f.pc addr (k.replayOf code) k.dest with resume := some (s.pc c) }
    (s.accDone c f false).queueTrap c { t with deps := f.deps }
  else if (s.ctx c).ctl.precise then
    (s.onWait c fun w => { w with park := none }).raisePrecise c code addr
  else (s.queueTrap c { impreciseReq code f.pc addr (k.replayOf code) k.dest with deps := f.deps }).accDone c f k.switches

/-- A context parks on a fault that the management core is told of (R146, R147). -/
def State.parkFault (s : State) (c : CtxId) (k : AccKind) (f : AccFrom) (va : Word) (x : XFault) : State :=
  let id := s.fresh
  let dup := x.code = .pgDupw
  let p : PageFault :=
    { who := .ctx c, code := x.code, va := va, addr := x.addr, kind := some k, pc := f.pc,
      deps := f.deps, dup := dup, replay := f.replay }
  let s := (s.onMem fun m => { m with faults := Map.put m.faults id p }).bump
  let s := s.tellFault c id
  let s := if !k.switches || f.replay then s else s.invalidate c
  let s := s.onWait c fun w =>
    { w with park := some (if dup then .dupWrite id else .pageFault id), hold := none }
  s.giveUp c

/-! ## Issuing an access -/

/-- A load issues and parks until its data returns (R344). -/
def State.sendLoad (s : State) (c : CtxId) (k : AccKind) (f : AccFrom) (va : Word) (xs : List (Nat × Xlat)) :
    State :=
  let n := k.bytes
  let ends := (xs.map fun x => x.1).drop 1 ++ [n]
  let req : LoadReq :=
    { pieces := (xs.zip ends).map fun p => (p.1.2.cell, p.2 - p.1.1),
      kind := k, va := va, pc := f.pc, keys := xs.map fun x => x.2.key, atHome := xs.map fun x => x.2.atHome,
      dup := xs.map fun x => pteDup x.2.entry.pte, early := [],
      after := s.ordersOf c false (k.isCausal && !runAtHome xs) f.deps, replay := f.replay }
  let s := if f.replay then s else s.invalidate c
  let s := s.onWait c fun w => { w with load := some req, park := some .load, hold := none }
  s.giveUp c

/-- The write that a store or an atomic sends. -/
def accWrite (s : State) (c : CtxId) (f : AccFrom) (va : Word) (causal : Bool) (parts : List WritePart)
    (amo : Option AmoReq) : MemWrite :=
  { MemWrite.issue c.die (.ctx c) f.pc va causal parts amo (s.ordersOf c true causal f.deps) with
      near := s.liveOf (s.ctx c).order.near }

/-- A store issues (R382); `dup` marks the replay of a write to a duplicated page (R147). -/
def State.sendStore (s : State) (c : CtxId) (data : List Byte) (causal : Bool) (f : AccFrom) (va : Word)
    (xs : List (Nat × Xlat)) (dup : Bool) : State :=
  let cells := (List.range data.length).map fun i => runCell xs i
  let w := accWrite s c f va (causal && !runAtHome xs) (writeParts va.toNat cells data) none
  let s := s.sendWrite { w with dup := dup }
  s.onUnit c fun u => { u with pending := u.pending + 1 }

/-- An atomic issues (R297): its result is late (R293), and it counts as a store until its reply. -/
def State.sendAmo (s : State) (c : CtxId) (op : AmoOp) (size : Nat) (causal : Bool) (d : Dest)
    (operand compare : Word) (f : AccFrom) (va : Word) (xs : List (Nat × Xlat)) (dup : Bool) : State :=
  let cells := (List.range size).map fun i => runCell xs i
  let loc := match xs with
    | (_, x) :: _ => x.entry.loc
    | [] => 0
  let q : AmoReq :=
    { op := op, size := size, operand := operand, compare := compare, loc := loc, old := none, srcs := [] }
  let parts := (writeParts va.toNat cells (List.replicate size 0)).take 1
  let w := accWrite s c f va (causal && !runAtHome xs) parts (some q)
  let id := s.fresh
  let s := s.sendWrite { w with dup := dup }
  let s := s.onUnit c fun u => { u with pending := u.pending + 1 }
  if f.replay then
    let late : Late := { id := s.fresh, d := d, src := .amo id, value := none }
    (s.onWait c fun w => { w with lates := w.lates ++ [late] }).bump
  else s.issueLate c d (.amo id) f.deps

/-- The physical core behind a logical number (R11). -/
def State.physCore (s : State) (k : CoreId) : Nat := Map.get (s.die k.die).spare k.core k.core

/-- CID (R72). -/
def State.cid (s : State) (c : CtxId) : Word :=
  BitVec.ofNat 64 (s.physCore c.coreId % 256 * 2 ^ 19 + s.pkg % 256 * 2 ^ 11 + c.die % 4 * 2 ^ 9 + c.core % 128 * 4 + c.ctx % 4)

/-- The result of SUBMIT or RMREQ lands (R236, R215): a replay pushes nothing (R253). -/
def State.tagResult (s : State) (c : CtxId) (f : AccFrom) (d : Dest) (v : Word) : State :=
  match d with
  | .g x => if f.replay then s.setG c x v else s.resultG c false x v []
  | .v _ | .t _ | .none => if f.replay then s else s.resultG c true 0 v []

/-- The bytes that a translated run holds now, as the die sees them. -/
def State.runBytes (s : State) (d : Nat) (xs : List (Nat × Xlat)) (n : Nat) : List Byte :=
  (List.range n).map fun i =>
    let p := runCell xs i
    s.byteAs (fun a => if runAtHome xs then (s.mem.atHome a).val else (s.mem.view d a).val) p.2 p.1

/-- SUBMIT queues its record on the home die, or answers 0 when sixteen wait (R236). -/
def State.queueSubmit (s : State) (c : CtxId) (f : AccFrom) (d : Dest) (xs : List (Nat × Xlat)) : State :=
  match (s.ctx c).unit with
  | none => s
  | some u =>
    let q := (s.die u.home).sched
    if 16 ≤ q.submits.length then s.tagResult c f d 0
    else
      let r : SubmitRec :=
        { entry := BitVec.ofNat 512 (leNat (s.runBytes c.die xs 64)), world := s.worldOf c.coreId, cid := s.cid c,
          user := !(s.ctx c).ctl.s, launch := u.launch, home := u.home }
      let s := s.onDie u.home fun x => { x with sched := { x.sched with submits := q.submits ++ [r], submitted := q.submitted + 1 } }
      s.tagResult c f d (BitVec.ofNat 64 (1 + q.submitted % (2 ^ 32 - 1)))

/-- The next tag of a die's region manager (R215). -/
def RmSt.next (x : RmSt) : Nat := if x.tag < 65535 then x.tag + 1 else 1

/-- Sixteen requests of a die wait (R215). -/
def RmSt.full (x : RmSt) : Bool := decide (16 ≤ x.queue.length)

/-- A request joins the queue of the die that issued it: its status word is pending (R215, R216). -/
def RmSt.push (x : RmSt) (r : RmReq) : RmSt :=
  { queue := x.queue ++ [r], tag := r.tag, status := ((r.tag, r.world, 0) :: x.status.filter (fun q => q.1 ≠ r.tag)).take 64 }

/-- RMREQ queues its request (R215): the manager reads the record after every earlier store of the context. -/
def State.queueRmreq (s : State) (c : CtxId) (f : AccFrom) (d : Dest) (xs : List (Nat × Xlat)) : State :=
  let m := (s.die c.die).rm
  if m.full then s.tagResult c f d 0
  else
    let own := (s.mem.writes.filter fun w => w.src == .ctx c).map fun w => w.id
    let r : RmReq :=
      { tag := m.next, world := s.worldOf c.coreId, record := none, cells := (List.range 64).map fun i => runCell xs i,
        atHome := runAtHome xs, after := own, acq := (s.ctx c).order.acq }
    (s.onDie c.die fun x => { x with rm := m.push r }).tagResult c f d (BitVec.ofNat 64 m.next)

/-- Host memory accepts ADD, SWP and CAS only (R199). -/
def hostAmoOk : AmoOp → Bool
  | .add | .swp | .cas => true
  | .min | .max | .minu | .maxu | .and | .or | .xor => false

/-- Perform an access of a context (R143, R344, R382, R297): translate it, and issue it or fault. `dup`
marks the replay of a write to a duplicated page, which the DUP bit no longer stops (R147). -/
def State.access (s : State) (c : CtxId) (k : AccKind) (f : AccFrom) (va : Word) (dup : Bool) : State :=
  let n := k.bytes
  let kind := if k.writes then xWrite else xRead
  let core := c.coreId
  match s.xlateRun (s.tlbOf core false) (s.worldOf core) none kind va n with
  | .error x =>
    if x.code = .pgDupw then
      if dup then
        match s.xlateRun (s.tlbOf core false) (s.worldOf core) none xRead va n with
        | .error _ => s.accFault c k f x.code x.addr
        | .ok xs => issue s xs core
      else s.parkFault c k f va x
    else if x.offered then s.parkFault c k f va x
    else s.accFault c k f x.code x.addr
  | .ok xs => issue s xs core
where
  /-- The access has translated. -/
  issue (s : State) (xs : List (Nat × Xlat)) (core : CoreId) : State :=
    let s' := s.fillTlb core false xs (match k with
      | .load .. => 0x10
      | .store .. => 0x30
      | .amo .. | .submit _ | .rmreq _ => 0x10)
    match k with
    | .load .. => s'.sendLoad c k f va xs
    | .store data causal _ => (s'.sendStore c data causal f va xs dup).accDone c f false
    | .amo op size causal _ d operand compare =>
      if cellHost (runCell xs 0).1 && !hostAmoOk op then s.accFault c k f .pgPerm va
      else (s'.sendAmo c op size causal d operand compare f va xs dup).accDone c f false
    | .submit d =>
      let secs := ((List.range 64).map fun i => sectorOf (runCell xs i).1).dedup
      let e := eccRead s.mem.ecc secs
      let s := s.onMem fun m => { m with ecc := eccAfterRead m.ecc secs }
      let s := if e.corrected = 0 then s else s.countEvents c f.pc false (evCorrected e.corrected) d
      match e.fault with
      | some code => s.accFault c k f code va
      | none => ((s.fillTlb core false xs 0x10).queueSubmit c f d xs).accDone c f false
    | .rmreq d => (s'.queueRmreq c f d xs).accDone c f false

/-! ## The return of data -/

/-- The cells of a load, byte by byte, with their keys and whether they are served at home. -/
def LoadReq.cells (r : LoadReq) : List (Nat × Option Nat × Bool) :=
  ((r.pieces.zip r.keys).zip r.atHome).flatMap fun p =>
    (List.range p.1.1.2).map fun i => (p.1.1.1 + i, p.1.2, p.2)

/-- The cells of a load that the home tracks in its slice (R139, R147): those of pages that are neither served at their
home only nor duplicated. -/
def LoadReq.tracked (r : LoadReq) : List Nat :=
  ((r.pieces.zip r.dup).zip r.atHome).flatMap fun p =>
    if p.1.2 || p.2 then [] else (List.range p.1.1.2).map fun i => p.1.1.1 + i

/-- The writes that some writes in flight come after, and those themselves: through `n` edges (R192). -/
def State.hbWrites (s : State) : Nat → List Nat → List Nat
  | 0, ids => ids
  | n + 1, ids => s.hbWrites n (joinIds ids (ids.flatMap fun i => match s.write i with
      | some w => joinIds w.after w.near
      | none => []))

/-- A write of a die that its home has not performed, seen on the die alone, happens before an access that has acquired a
clock and comes after some writes (R190, R192, R195). -/
def State.ownComesFirst (s : State) (d : Nat) (acq : Stamp) (after : List Nat) (a : Nat) : Bool :=
  let x := s.mem.view d a
  x.own && match x.src with
    | none => true
    | some id => (s.hbWrites s.mem.writes.length after).contains id || match s.write id with
        | some w => w.stamp.get w.die ≤ acq.get w.die
        | none => true

/-- The die's own write to a byte, which its home has not performed, is one of the context's. -/
def State.ownByCtx (s : State) (c : CtxId) (a : Nat) : Bool :=
  let x := s.mem.view c.die a
  x.own && match x.src with
    | some id => s.mem.writes.any fun w => w.id == id && w.src == .ctx c
    | none => true

/-- A byte may be read now on die `d`, at the home or from the die's own copy, by an access that comes after some writes:
no write that the context must see is missing (R191, R195), and its channel serves it (R33). -/
def State.byteReady (s : State) (c : CtxId) (home causal : Bool) (after : List Nat) (a : Nat) : Bool :=
  let o := (s.ctx c).order
  let x := if home then s.mem.atHome a else s.mem.view c.die a
  s.mem.serves a && (x.own || Map.get o.fence 0 a ≤ x.idx) &&
  (!causal || x.own || Map.get o.causal 0 a ≤ x.idx) &&
  !(home && ((causal && (s.mem.view c.die a).own) || s.ownByCtx c a || s.ownComesFirst c.die o.acq after a)) &&
  !s.amoOpen c.die a

/-- Some bytes of a load, by their offsets, can be read: the die's clock has reached what the context acquired, the writes
that come before the load are there, and each byte is ready or has been read before. -/
def State.loadReady (s : State) (c : CtxId) (home : Bool) (r : LoadReq) (is : List Nat) : Bool :=
  Stamp.covers (s.vc c.die) (s.ctx c).order.acq &&
  (r.after.all fun n => if home then s.isDone n else s.isApplied c.die n) &&
  is.all fun i => (Map.find r.early i).isSome || match r.cells[i]? with
    | some x => s.byteReady c (home || x.2.2) r.kind.isCausal r.after x.1
    | none => true

/-- What a load reads of a byte: what it has read before, or what is there now. -/
def State.loadByte (s : State) (c : CtxId) (home : Bool) (r : LoadReq) (i : Nat) : Byte × Nat × Option Nat × Bool :=
  match Map.find r.early i with
  | some q => q
  | none => match r.cells[i]? with
    | none => (0, 0, none, false)
    | some x =>
      let view (a : Nat) : Seen := if home || x.2.2 then s.mem.atHome a else s.mem.view c.die a
      let v := view x.1
      (s.byteAs (fun a => (view a).val) x.2.1 x.1, v.idx, v.src, v.own)

/-- A part of a load that is single-copy atomic is read before the rest (R198). -/
def State.loadPart (s : State) (c : CtxId) (home : Bool) (k : Nat) : State :=
  match (s.ctx c).wait.load with
  | none => s
  | some r =>
    match (atomParts r.va.toNat r.kind.bytes)[k]? with
    | none => s
    | some p =>
      let is := (List.range p.2).map fun i => p.1 + i
      if !s.loadReady c home r is then s
      else
        let early := is.foldl (fun m i => Map.put m i (s.loadByte c home r i)) r.early
        s.onWait c fun w => { w with load := some { r with early := early } }

/-- Write the result of a load, extended as LD extends (R344, R404): a replay pushes nothing (R253). -/
def State.loadResult (s : State) (c : CtxId) (r : LoadReq) (bs : List Byte) (ds : List Nat) : State :=
  match r.kind with
  | .load n signed vec _ _ d =>
    if vec then
      let v := BitVec.ofNat 512 (leNat bs)
      match d with
      | .v x => if r.replay then (s.setV c x v).onOrder c fun o => o.setDep (depV x) ds else s.resultV c false x v ds
      | .g _ | .t _ | .none => if r.replay then s else s.resultV c true 0 v ds
    else
      let v := extendLoad n signed (leNat bs)
      match d with
      | .g x => if r.replay then (s.setG c x v).onOrder c fun o => o.setDep (depG x) ds else s.resultG c false x v ds
      | .v _ | .t _ | .none => if r.replay then s else s.resultG c true 0 v ds
  | .store .. | .amo .. | .submit _ | .rmreq _ => s

/-- LOAD_DATA_RETURN: the data of a context's load returns, served by the home or by the die's own copy;
the value is written and the context goes on (R344). -/
def State.loadReturn (s : State) (c : CtxId) (home : Bool) : State :=
  match (s.ctx c).wait.load with
  | none => s
  | some r =>
    let is := List.range r.kind.bytes
    if !s.loadReady c home r is then s
    else
      let f : AccFrom := { pc := r.pc, deps := r.after, replay := r.replay }
      let cells := r.cells
      let secs := (cells.map fun x => sectorOf x.1).dedup
      let e := eccRead s.mem.ecc secs
      let s := s.onMem fun m => { m with ecc := eccAfterRead m.ecc secs }
      let got := is.map fun i => s.loadByte c home r i
      let s := s.onWait c fun w => { w with load := none, park := none }
      let s := if e.corrected = 0 then s else s.countEvents c r.pc false (evCorrected e.corrected) r.kind.dest
      match e.fault with
      | some code =>
        -- the access itself faults: it writes nothing (R345, R148)
        s.accFault c r.kind f code r.va
      | none =>
        let srcs := (got.filterMap fun q => q.2.2.1).dedup
        let seen := (cells.zip got).filterMap fun x => if x.2.2.2.2 then none else some (x.1.1, x.2.2.1)
        let causal := r.kind.isCausal && !(r.atHome.any fun b => b)
        let s := (s.carryBack c srcs causal).onOrder c fun o => o.floors seen causal
        let s := if home then s else s.tookLines c.die r.tracked
        (s.loadResult c r (got.map fun q => q.1) (s.liveOf (joinIds srcs r.after))).accDone c f false

/-- LATE_RESULT_ARRIVE for an atomic: the reply lands, the clocks it carries are merged, and the reply is
the acknowledgement (R293, R298, R199). -/
def State.amoArrive (s : State) (c : CtxId) (l : Late) (id : Nat) : State :=
  match s.write id with
  | none => s
  | some w =>
    match w.amo with
    | none => s
    | some q =>
      match q.old with
      | none => s
      | some old =>
        let s := s.carryBack c q.srcs w.causal
        let ds := s.liveOf (joinIds q.srcs w.after)
        let latches := [0, 1, 2, 3].filter fun i => ((s.ctx c).regs.l.toList.getD i Latch.invalid).pend == some l.id
        let s := s.onOrder c fun o =>
          let o := match destKey l.d with
            | some k => o.setDep k ds
            | none => o
          latches.foldl (fun (o : Order) i => o.setDep (96 + i) ds) o
        (s.landLate c l (extendLoad q.size true old.toNat)).ackWrite id

/-! ## Page faults and duplicated pages (R146, R147) -/

/-- PAGE_FAULT_RESOLVE for a context: the management core has mapped the page, and the access replays; a
fetch is made again. -/
def State.resolveCtx (s : State) (c : CtxId) (id : Nat) (p : PageFault) (dup : Bool) : State :=
  let s := s.onMem fun m => { m with faults := Map.drop m.faults id }
  let s := s.onWait c fun w => { w with park := none }
  match p.kind with
  | none => s
  | some k => s.access c k { pc := p.pc, deps := p.deps, replay := p.replay } p.va dup

/-- PAGE_FAULT_DECLINE for a context: the fault is delivered (R146, R250). -/
def State.declineCtx (s : State) (c : CtxId) (id : Nat) (p : PageFault) : State :=
  let s := s.onMem fun m => { m with faults := Map.drop m.faults id }
  let s := s.onWait c fun w => { w with park := none }
  match p.kind with
  | none => s.raisePrecise c p.code p.addr
  | some k => s.accFault c k { pc := p.pc, deps := p.deps, replay := p.replay } p.code p.addr

/-! ## The precise bit (R251) -/

/-- Under the precise bit, a context issues nothing until its last store or atomic has been accepted by
its home. -/
def State.drained (s : State) (c : CtxId) : Bool :=
  !(s.ctx c).ctl.precise || !(s.mem.writes.any fun w => w.src == .ctx c && !w.allDone)

end Sys2Proof.Machine
end

