-- ==== Sys2Proof/Machine/Streams.lean ====
section
/-! DEFINITION. The stream instructions: SRD, SPEEK, SWR, SEOS, SSTEER, VSRD and VSWR (R376 to R379, R407),
with the credits they return (R152) and the order they give (R156, R192). -/

namespace Sys2Proof.Machine

/-! ## Ports -/

/-- Change the networks. -/
def State.onNet (s : State) (f : NetSt → NetSt) : State := { s with net := f s.net }

/-- The physical port that a read names, checked (R377): unbound or bound to a handle raises PORT-UNBOUND,
and a port of the other width STREAM-PROTO (R153). -/
def State.readPort (s : State) (c : CtxId) (n : Nat) (vec : Bool) : Act Nat :=
  match (s.ctx c).unit with
  | none => .error (.raise .portUnbound 0)
  | some u =>
    if (Map.find u.rings n).isSome then .error (.raise .portUnbound 0)
    else
      match Map.find u.ports n with
      | none => .error (.raise .portUnbound 0)
      | some (p, v) => if v = vec then .ok p else .error (.raise .streamProto 0)

/-- The physical port that a write names, checked (R378). -/
def State.writePort (s : State) (c : CtxId) (n : Nat) (vec : Bool) : Act Nat :=
  match s.outPhys c n with
  | none => .error (.raise .portUnbound 0)
  | some (p, v) =>
    if v ≠ vec then .error (.raise .streamProto 0)
    else if (s.outPort c.coreId p).eos then .error (.raise .streamProto 0)
    else .ok p

/-- A credit sets out from a consumer's port to its producer (R152). -/
def State.returnCredit (s : State) (r : PortRef) (p : InPort) : State :=
  s.onNet fun n => { n with credits := n.credits ++ [{ ref := r, circ := p.circ, launch := p.launch }] }

/-- The token at the head of an input port is removed and its credit returned (R152). -/
def State.dropToken (s : State) (k : CoreId) (p : Nat) : State :=
  (s.onIn k p fun x => { x with buf := x.buf.drop 1 }).returnCredit (.core k.die k.core p) (s.inPort k p)

/-- A context acquires a clock, together with the stamps it has kept (R190 step 4): the causal writes that
the clock covers happen before its later accesses. -/
def State.acquireClock (s : State) (c : CtxId) (clock : Stamp) : State :=
  let ids := (s.mem.writes.filter fun w => w.causal && Stamp.covers clock w.stamp).map fun w => w.id
  s.onOrder c fun o =>
    { o with acq := Stamp.join (Stamp.join o.acq clock) o.kept, kept := Stamp.zero,
             afterA := joinIds o.afterA ids }

/-- A context consumes the token at the head of an input port (R152, R156). -/
def State.consumeToken (s : State) (c : CtxId) (p : Nat) (t : Token) : State :=
  let s := s.dropToken c.coreId p
  match t.clock with
  | some k => s.acquireClock c k
  | none => s

/-- A token enters an output buffer (R151). -/
def State.placeToken (s : State) (k : CoreId) (p : Nat) (t : Token) : State :=
  s.onOut k p fun x => { x with buf := x.buf ++ [t], eos := x.eos || t.kind == .eos }

/-! ## Reads -/

/-- The predicate a read sets at EOS (R377). -/
def eosK (b : Bool) : Word := predOf b

/-- The kind of a token as SPEEK.K gives it (R377). -/
def kindNum : TokKind → Word
  | .data => 0
  | .eos => 1
  | .marker => 2
  | .steer => 3

/-- SRD and SPEEK after their checks (R377). -/
def State.readScalar (s : State) (c : CtxId) (w : Bool) (d : GReg) (n p : Nat) (e : KReg)
    (take kind nb : Bool) : Act State :=
  let s' := s.invalidate c
  match (s.inPort c.coreId p).head with
  | none =>
    if nb then .ok (((s'.resultK c e 0 []).resultG c w d (if kind then 4 else 0) []).advance c true)
    else .error (.park (.tokenIn n) none)
  | some t =>
    if t.kind = .eos then
      if e = 0 && !kind then .error (.raise .streamProto 0)
      else
        let s' := s'.resultK c e (eosK true) []
        .ok ((if kind then s'.resultG c w d 1 [] else s').advance c true)
    else
      let s' := s'.resultK c e (eosK false) []
      let v := if kind then kindNum t.kind else t.val.extractLsb' 0 64
      let s' := if take then s'.consumeToken c p t else s'
      .ok ((s'.resultG c w d v []).advance c true)

/-- SRD (R377). -/
def execSrd (g : Guard) (w : Bool) (d : GReg) (port : BitVec 4) (e : KReg) (s : State) :
    Host.Outcome State Fault Refusal :=
  switchRun g s fun c => do
    let p ← s.readPort c port.toNat false
    s.useDestG c w d
    s.readScalar c w d port.toNat p e true false false

/-- SPEEK (R377). -/
def execSpeek (g : Guard) (w : Bool) (d : GReg) (port : BitVec 4) (e : KReg) (kind nb : Bool) (s : State) :
    Host.Outcome State Fault Refusal :=
  switchRun g s fun c => do
    let p ← s.readPort c port.toNat false
    s.useDestG c w d
    s.readScalar c w d port.toNat p e false kind nb

/-- VSRD (R407). -/
def execVsrd (g : Guard) (w : Bool) (d : VReg) (port : BitVec 4) (e : KReg) (s : State) :
    Host.Outcome State Fault Refusal :=
  switchRun g s fun c => do
    let p ← s.readPort c port.toNat true
    s.useDestV c w d
    let s' := s.invalidate c
    match (s.inPort c.coreId p).head with
    | none => .error (.park (.tokenIn port.toNat) none)
    | some t =>
      if t.kind = .eos then
        if e = 0 then .error (.raise .streamProto 0)
        else return (s'.resultK c e (eosK true) []).advance c true
      else
        let s' := (s'.resultK c e (eosK false) []).consumeToken c p t
        return (s'.resultV c w d t.val []).advance c true

/-! ## Writes -/

/-- What the instruction at PC captured at its first issue. -/
def State.captured (s : State) (c : CtxId) : Option Captured :=
  ((s.ctx c).wait.captured.find? fun p => p.1 == s.pc c).map fun p => p.2

/-- The source of a stream write: read at the first issue, and kept while the instruction is parked
(R378). -/
def State.capturedOr (s : State) (c : CtxId) (f : Act Vec) : Act Vec :=
  match s.captured c with
  | some (.value v) => .ok v
  | some (.wait ..) | none => f

/-- SWR, SEOS, SSTEER and VSWR (R378): `check` is the rule on the value. -/
def streamWrite (g : Guard) (s : State) (port : BitVec 4) (vec : Bool) (kind : TokKind) (check : Vec → Bool)
    (src : CtxId → Act Vec) : Host.Outcome State Fault Refusal :=
  switchRun g s fun c => do
    let v ← s.capturedOr c (src c)
    let p ← s.writePort c port.toNat vec
    must (check v) .streamProto
    if (s.outPort c.coreId p).buf.length < 4 then
      if s.mayRelease c then
        let t : Token := { kind := kind, val := v, clock := some (s.vc c.die) }
        return ((s.invalidate c).placeToken c.coreId p t).advance c true
      else .error (.hold .fence)
    else .error (.park (.roomOut port.toNat) (some (.value v)))

/-- SWR (R378). -/
def execSwr (g : Guard) (port : BitVec 4) (a : Src) (s : State) : Host.Outcome State Fault Refusal :=
  streamWrite g s port false .data (fun _ => true) fun c => do
    let v ← s.readSrc c a
    return v.zeroExtend 512

/-- SEOS (R378). -/
def execSeos (g : Guard) (port : BitVec 4) (s : State) : Host.Outcome State Fault Refusal :=
  streamWrite g s port false .eos (fun _ => true) fun _ => .ok 0

/-- SSTEER (R378): the value is a route index, 0 to 15. -/
def execSsteer (g : Guard) (port : BitVec 4) (a : Src) (s : State) : Host.Outcome State Fault Refusal :=
  streamWrite g s port false .steer (fun v => decide (v.toNat ≤ 15)) fun c => do
    let v ← s.readSrc c a
    return v.zeroExtend 512

/-- The source of VSWR (R407): a vector register, or a latch, a scalar one in its low eight bytes. -/
def State.readVPort (s : State) (c : CtxId) (a : VPortSrc) : Act Vec :=
  match a with
  | .v r => s.readV c r
  | .l r => do
    let l ← s.readL c r
    return if l.isVec then l.val else (l.val.extractLsb' 0 64).zeroExtend 512

/-- VSWR (R407). -/
def execVswr (g : Guard) (port : BitVec 4) (a : VPortSrc) (s : State) : Host.Outcome State Fault Refusal :=
  streamWrite g s port true .data (fun _ => true) fun c => s.readVPort c a

end Sys2Proof.Machine
end

