-- ==== Sys2Proof/Machine/Work.lean ====
section
/-! DEFINITION. Work objects and their completion counters (02_work R35 to R37, R50), and the completion entries that
the host reads (12_scheduling R232 to R234). -/

namespace Sys2Proof.Machine

/-! ## Objects (R35, R36) -/

/-- Change the work of the package. -/
def State.onWork (s : State) (f : WorkSt → WorkSt) : State := { s with work := f s.work }

/-- Change what dispatch and the firmware of a die keep. -/
def State.onSched (s : State) (d : Nat) (f : SchedSt → SchedSt) : State :=
  s.onDie d fun x => { x with sched := f x.sched }

/-- An object of a world (R36). -/
def State.obj (s : State) (world : Nat) (l : Level) (id : Nat) : Option WorkObj :=
  s.work.objs.find? fun o => o.world == world && o.level == l && o.id == id

/-- The object is the one named. -/
def WorkObj.named (o : WorkObj) (world : Nat) (l : Level) (id : Nat) : Bool :=
  o.world == world && o.level == l && o.id == id

/-- Change an object of a world. -/
def State.onObj (s : State) (world : Nat) (l : Level) (id : Nat) (f : WorkObj → WorkObj) : State :=
  s.onWork fun x => { x with objs := x.objs.map fun o => if o.named world l id then f o else o }

/-- The level above, with the code of each level (R35). -/
def levelUp : Level → Option Level
  | .launch => some .graph
  | .graph => some .phase
  | .phase => some .job
  | .job => none

/-- The level code (R35). -/
def levelCode : Level → Nat
  | .launch => 1
  | .graph => 2
  | .phase => 3
  | .job => 4

/-- The level that a code names. -/
def levelOf : Nat → Option Level
  | 1 => some .launch
  | 2 => some .graph
  | 3 => some .phase
  | 4 => some .job
  | _ => none

/-- The number of a status (R243). -/
def ObjStatus.code : ObjStatus → Nat
  | .running => 0
  | .done => 1
  | .cancelled => 2
  | .faulted => 3

/-! ## Host memory and completion rings (R232, R234) -/

/-- The cell of a host address (R139). -/
def State.hostCell (s : State) (a : Nat) : Nat := 2 ^ 52 + s.pkg * 2 ^ 44 + 2 ^ 43 + a % 2 ^ 43

/-- The device writes host memory. -/
def State.putHost (s : State) (a : Nat) : List Byte → State
  | [] => s
  | b :: rest =>
    let c := s.hostCell a
    let s := s.onMem fun m => { m with bytes := putByte m.bytes c b, idx := Map.put m.idx c (Map.get m.idx 0 c + 1) }
    s.putHost (a + 1) rest

/-- The device reads host memory. -/
def State.getHost (s : State) (a n : Nat) : List Byte :=
  (List.range n).map fun i => Map.get s.mem.bytes 0 (s.hostCell (a + i))

/-- A host queue. -/
def State.queue (s : State) (n : Nat) : QueueSt := Map.get s.work.queues QueueSt.reset n

/-- Change a host queue. -/
def State.onQueue (s : State) (n : Nat) (f : QueueSt → QueueSt) : State :=
  s.onWork fun x => { x with queues := Map.upd x.queues QueueSt.reset n f }

/-- A field of QCTL (R232). -/
def QueueSt.field (q : QueueSt) (lo n : Nat) : Nat := (q.qctl.extractLsb' lo n).toNat
/-- EN. -/
def QueueSt.en (q : QueueSt) : Bool := q.qctl.getLsbD 31
/-- WORLD. -/
def QueueSt.world (q : QueueSt) : Nat := q.field 24 3
/-- PRIO. -/
def QueueSt.prio (q : QueueSt) : Nat := q.field 21 3
/-- VEC. -/
def QueueSt.vec (q : QueueSt) : Nat := q.field 10 6
/-- HOME. -/
def QueueSt.home (q : QueueSt) : Nat := q.field 8 2
/-- Entries of the submission ring. -/
def QueueSt.sqSize (q : QueueSt) : Nat := 2 ^ (q.field 4 4 + 4)
/-- Entries of the completion ring. -/
def QueueSt.cqSize (q : QueueSt) : Nat := 2 ^ (q.field 0 4 + 4)

/-- The completion ring takes an entry: the queue is enabled, and the ring has a free entry (R234). -/
def QueueSt.room (q : QueueSt) : Bool := q.en && decide (q.unread < q.cqSize)

/-- The bytes of a completion entry (R234). -/
def CqEntry.bytes (e : CqEntry) (phase : Bool) : List Byte :=
  leBytes e.tag.toNat 8 ++ leBytes e.id 4 ++ leBytes e.level 1 ++ leBytes e.status 1 ++ leBytes e.fcode 1 ++
    leBytes (if phase then 1 else 0) 1 ++ leBytes e.detail 4 ++ leBytes 0 12

/-- A world exists for its virtual function: its memory key is ACTIVE (R23, R280). -/
def State.worldExists (s : State) (w : Nat) : Bool :=
  decide (w < 8) && (Map.get s.keys.slots KeySlot.reset w).phase == .active

/-- The function whose MSI-X table holds the vectors of a world's queues (R23): its virtual function, when it exists (DESIGN
CHOICE, log entry 125). -/
def State.msiFn (s : State) (w : Nat) : Nat := if s.worldExists w then w + 1 else 0

/-- An MSI-X vector of a function is raised (R24): it is sent, or is pending while it is masked. -/
def State.raiseMsi (s : State) (fn v : Nat) : State :=
  if s.dev.unmasked.contains (64 * fn + v) then s.onWork fun x => { x with msi := x.msi ++ [(fn, v)] }
  else
    let n := 64 * fn + v
    { s with dev := { s.dev with pba := if s.dev.pba.contains n then s.dev.pba else s.dev.pba ++ [n] } }

/-- A vector of a function is masked, or unmasked: one that is pending is sent then (R24). -/
def State.maskMsi (s : State) (fn v : Nat) (mask : Bool) : State :=
  let n := 64 * fn + v
  let others := s.dev.unmasked.filter (· ≠ n)
  let s : State := { s with dev := { s.dev with unmasked := if mask then others else others ++ [n] } }
  if mask || !s.dev.pba.contains n then s
  else
    let s : State := { s with dev := { s.dev with pba := s.dev.pba.filter (· ≠ n) } }
    s.raiseMsi fn v

/-- COMPLETION_POST (R234): an entry is written, the write index moves on, and the vector of the queue is raised. -/
def State.writeCq (s : State) (n : Nat) (e : CqEntry) : State :=
  let q := s.queue n
  let s := s.putHost (q.cqbase.toNat + 32 * q.cqw) (e.bytes q.phase)
  let w := (q.cqw + 1) % q.cqSize
  let s := s.onQueue n fun q => { q with cqw := w, unread := q.unread + 1, phase := if w = 0 then !q.phase else q.phase }
  s.raiseMsi (s.msiFn q.world) q.vec

/-- An entry that no counter waits for joins the queue's entries, and those that have room are written. -/
def State.flushCq (s : State) (n : Nat) : Nat → State
  | 0 => s
  | k + 1 =>
    match (s.queue n).held with
    | [] => s
    | e :: rest =>
      if (s.queue n).room then ((s.onQueue n fun q => { q with held := rest }).writeCq n e).flushCq n k else s

/-- Post an entry that no counter waits for. -/
def State.post (s : State) (n : Nat) (e : CqEntry) : State :=
  let s := s.onQueue n fun q => { q with held := q.held ++ [e] }
  s.flushCq n (s.queue n).held.length

/-! ## Completion (R37) -/

/-- A submission entry that waits in a ring of a world names a graph in a LAUNCH (R35). -/
def State.launchQueued (s : State) (world graph : Nat) : Bool :=
  let names (bs : List Byte) : Bool := leNat (bs.take 1) == 5 && leNat ((bs.drop 12).take 4) == graph
  ((List.range 64).any fun n =>
    let q := s.queue n
    q.world == world && q.en && (List.range ((q.sqw + q.sqSize - q.sqr) % q.sqSize)).any fun i =>
      names (s.getHost (q.sqbase.toNat + 64 * ((q.sqr + i) % q.sqSize)) 16)) ||
  (List.range 4).any fun d => (s.die d).sched.submits.any fun r =>
    r.world == world && names (leBytes r.entry.toNat 16)

/-- A write of a stopped unit of a launch is not acknowledged yet (R201). -/
def State.owesAcks (s : State) (key : Nat) : Bool :=
  s.mem.writes.any fun w => w.src == .gone key && !w.acked

/-- The counter of an object has reached zero, and nothing more will be added (R35). -/
def State.isOver (s : State) (o : WorkObj) : Bool :=
  !o.posted && o.counter == 0 &&
  match o.level with
  | .launch => !s.owesAcks (launchKey o.world o.id)
  | .graph => o.status != .running || (o.opened && !s.launchQueued o.world o.id)
  | .phase => o.status != .running || o.opened
  | .job => o.status != .running || o.closed

/-- The completion entry of an object (R234): a STATUS that its report gives, or that of its status. -/
def WorkObj.entry (o : WorkObj) : CqEntry :=
  let st := if o.report.status ≠ 0 then o.report.status else match o.status with
    | .running | .done => 0
    | .cancelled => 1
    | .faulted => 2
  { tag := o.tag, id := o.id, level := levelCode o.level, status := st, fcode := o.report.fcode, detail := o.report.detail }

/-- OBJECT_COMPLETE (R37): the status is set, the entry is posted, and then the counter of the parent falls. -/
def State.completeObj (s : State) (o : WorkObj) : State :=
  let s := s.writeCq o.queue o.entry
  let s := s.onObj o.world o.level o.id fun x =>
    { x with status := if x.status = .running then .done else x.status, posted := true }
  match levelUp o.level with
  | none => s
  | some l =>
    if o.level = .graph && !o.opened then s
    else s.onObj o.world l o.parent fun x => { x with counter := x.counter - 1 }

/-- A counter that has reached zero sets the status DONE, unless the object is already cancelled or faulted (R37). -/
def State.markDone (s : State) : State :=
  let f (o : WorkObj) : WorkObj := if s.isOver o && o.status == .running then { o with status := .done } else o
  s.onWork fun x => { x with objs := x.objs.map f }

/-- Complete every object that is over and whose completion ring has room (R37, R234). -/
def State.settleFuel (s : State) : Nat → State
  | 0 => s
  | k + 1 =>
    let s := s.markDone
    match s.work.objs.find? fun o => s.isOver o && (s.queue o.queue).held.isEmpty && (s.queue o.queue).room with
    | none => s
    | some o => (s.completeObj o).settleFuel k

/-- Complete every object that is over. -/
def State.settle (s : State) : State := s.settleFuel s.work.objs.length

/-- A capsule joins its launch (R50). -/
def State.joinLaunch (s : State) (world launch : Nat) : State :=
  s.onObj world .launch launch fun o => { o with counter := o.counter + 1 }

/-- A capsule leaves its launch (R50). -/
def State.leaveLaunch (s : State) (world launch : Nat) : State :=
  (s.onObj world .launch launch fun o => { o with counter := o.counter - 1 }).settle

/-- The units of a launch that have not ended (R35). -/
def WorkObj.live (o : WorkObj) : Nat := (o.units.filter fun u => u.stage != .ended).length

/-- The capsules of a launch in flight (R50). -/
def WorkObj.capsules (o : WorkObj) : Nat := o.counter - o.live

end Sys2Proof.Machine
end

