-- ==== Sys2Proof/Machine/Capsules.lean ====
section
/-! DEFINITION. The capsule instructions (R224, R225, R307, R308) and sends (R226). -/

namespace Sys2Proof.Machine

/-! ## Headers -/

/-- A byte of a header. -/
def hdrByte (h : CapHdr) (n : Nat) : Nat := capByte h n

/-- The hop word at an index (R220). -/
def capHop (h : CapHdr) (i : Nat) : BitVec 32 := capWord h (6 + i)

/-- The hop words of a header. -/
def capHops (h : CapHdr) : List (BitVec 32) := (List.range 10).map (capHop h)

/-- A header with its ten hop words replaced. -/
def capSetHops (h : CapHdr) (hs : List (BitVec 32)) : CapHdr :=
  (List.range 10).foldl (fun h i => capSetWord h (6 + i) (hs.getD i 0)) h

/-- The package, die and core of a place (R221). -/
def placePkg (p : BitVec 17) : Nat := (p.extractLsb' 9 8).toNat
/-- The die of a place. -/
def placeDie (p : BitVec 17) : Nat := (p.extractLsb' 7 2).toNat
/-- The logical core of a place. -/
def placeCore (p : BitVec 17) : Nat := (p.extractLsb' 0 7).toNat

/-- A place is in a world (R221): an active core of the package that belongs to the world, or a place of
another package of the domain that does. -/
def State.placeIn (s : State) (world : Nat) (p : BitVec 17) : Bool :=
  if placePkg p = s.pkg then
    let e := s.part (placeDie p) (placeCore p)
    e.v && e.world == world && !e.busy && !(s.die (placeDie p)).retired.contains (placeCore p)
  else Map.find s.far p.toNat == some world

/-- The held capsule, unless none is held or it is being sent (R225, R226). -/
def State.heldCap (s : State) (c : CtxId) : Act HeldCap :=
  match (s.ctx c).cap with
  | some k => if k.sending.isSome then .error (.raise .hinval 0) else .ok k
  | none => .error (.raise .hinval 0)

/-- Replace the header of the held capsule. -/
def State.setHdr (s : State) (c : CtxId) (h : CapHdr) : State :=
  s.onCtx c fun x => { x with cap := x.cap.map fun k => { k with hdr := h } }

/-! ## CAPRECV (R225, R308) -/

/-- CAPRECV: it takes the oldest capsule and parks until the whole capsule has moved (R308). -/
def execCaprecv (g : Guard) (w : Bool) (d : GReg) (s : State) : Host.Outcome State Fault Refusal :=
  switchRun g s fun c => do
    must (match (s.ctx c).cap with
      | some k => k.sending.isSome
      | none => true) .hinval
    s.useDestG c w d
    match (s.ctx c).cap, (s.core c.coreId).capFor (s.worldOf c.coreId) c.ctx with
    | none, some k =>
      let s := s.onCore c.coreId fun x =>
        { x with rxbuf := x.rxbuf.map fun y => if y.id = k.id then { y with taken := some c.ctx } else y }
      return s.parkAt c (.capMove w d) none
    | _, _ => .error (.park .capsule none)

/-- CAPRECV's result for a capsule (R225): the operation, the hop flags and the kind. -/
def recvResult (k : Capsule) : Word × CapHdr :=
  let h := k.hdr
  let kind : Nat := if capFlt h then 2 else if (capByte h 6).testBit 1 then 3
    else match k.role with
      | .sink => 1
      | .hop | .fault => 0
  if kind = 0 then
    let hop := capHop h (capCur h)
    (((hop.extractLsb' 17 8).zeroExtend 64 ||| ((hop.extractLsb' 25 4).zeroExtend 64 <<< 8)),
      capSetByte h 4 (capCur h + 1))
  else (BitVec.ofNat 64 (kind * 4096), h)

/-- Set up the capsule handle of a context: zero-filled, then its data with every full bit set, or clear
for a new capsule (R225). -/
def CoreSt.fillCap (x : CoreSt) (ctx : Nat) (h : CapHdr) (data : List Byte) (full : Bool) : CoreSt :=
  let x := x.zeroSpace { capHandle ctx h with units := 17 }
  let a := capBase ctx
  let gs := (List.range (capSize h / 16)).map fun i => a / 16 + i
  { x with scratch := putBytes x.scratch a data, full := if full then setFull x.full gs true else x.full }

/-- CAPSULE_RECEIVE_DONE: the whole capsule has moved (R308); the context acquires what its send released
(R192), and a capsule taken at its sink or fault place leaves its launch (R50). -/
def State.receiveDone (s : State) (c : CtxId) : State :=
  match (s.ctx c).wait.park with
  | some (.capMove w d) =>
    match (s.core c.coreId).rxbuf.find? fun k => k.taken == some c.ctx with
    | none => s
    | some k =>
      let (v, h) := recvResult k
      let s := s.onCore c.coreId fun x =>
        { x.fillCap c.ctx h k.data true with rxbuf := x.rxbuf.filter fun y => y.id ≠ k.id }
      let s := s.onCtx c fun x => { x with cap := some { hdr := h, launch := k.launch, home := k.home, sending := none } }
      let s := s.acquireClock c k.clock
      let s := match k.role with
        | .hop => s
        | .sink | .fault => s.leaveLaunch (hdrByte k.hdr 7) k.launch
      (s.resultG c w d v []).advance c true
  | _ => s

/-! ## Reading and editing the itinerary -/

/-- CAPHDR (R225). -/
def execCaphdr (g : Guard) (w : Bool) (d : GReg) (word : BitVec 4) (s : State) :
    Host.Outcome State Fault Refusal :=
  plainRun g s fun c => do
    let k ← s.heldCap c
    s.finishG c w d ((capWord k.hdr word.toNat).zeroExtend 64) []

/-- CAPNEXT (R225): the predicate is bit 0 (R225 assigns 1). -/
def execCapnext (g : Guard) (w : Bool) (d : GReg) (k : KReg) (s : State) : Host.Outcome State Fault Refusal :=
  plainRun g s fun c => do
    let x ← s.heldCap c
    let done := capCur x.hdr == capNhop x.hdr
    let v := if done then 0 else (capHop x.hdr (capCur x.hdr)).zeroExtend 64
    (s.resultK c k (if done then 1 else 0) []).finishG c w d v []

/-- CAPINS (R225). -/
def execCapins (g : Guard) (a : Src) (i : BitVec 4) (s : State) : Host.Outcome State Fault Refusal :=
  plainRun g s fun c => do
    let v ← s.readSrc c a
    let k ← s.heldCap c
    let h := k.hdr
    let n := i.toNat
    must (capNhop h ≠ 10 && capCur h ≤ n && n ≤ capNhop h) .capHops
    must (v.extractLsb' 32 32 = 0 && v.extractLsb' 29 3 = 0) .capFmt
    let hop := v.extractLsb' 0 32
    must (s.placeIn (hdrByte h 7) (placeOf hop)) .capPlace
    let hs := capHops h
    let h' := capSetHops (capSetByte h 5 (capNhop h + 1)) (hs.take n ++ hop :: hs.drop n)
    return (s.setHdr c h').advance c false

/-- CAPDEL (R225). -/
def execCapdel (g : Guard) (i n : BitVec 4) (s : State) : Host.Outcome State Fault Refusal :=
  plainRun g s fun c => do
    let k ← s.heldCap c
    let h := k.hdr
    must (capCur h ≤ i.toNat && i.toNat + n.toNat ≤ capNhop h) .capHops
    let hs := capHops h
    let h' := capSetHops (capSetByte h 5 (capNhop h - n.toNat)) (hs.take i.toNat ++ hs.drop (i.toNat + n.toNat))
    return (s.setHdr c h').advance c false

/-! ## Sends (R226) -/

/-- The engine operations that a send waits for (R226 step 3). -/
def State.sendWaits (s : State) (c : CtxId) : List Nat :=
  let x := s.core c.coreId
  ((x.me.ops ++ x.ce.ops).filter fun op => op.ctx == c.ctx && op.mayWriteCap x).map fun op => op.id

/-- A send begins (R226 steps 1 and 2): the causal writes before it are released, the capsule handle becomes
unusable, and tile records that name it no longer do (R63). -/
def State.beginSend (s : State) (c : CtxId) (h : CapHdr) (place : BitVec 17) (role : CapRole) : Act State :=
  if s.mayRelease c then
    let n := 0xFC + c.ctx
    let send : CapSend :=
      { place := place, role := role, id := s.fresh, clock := s.vc c.die, ops := s.sendWaits c }
    let s := s.onCtx c fun x =>
      { x with cap := x.cap.map fun k => { k with hdr := h, sending := some send }, sent := s.fresh :: x.sent }
    let s := s.onCore c.coreId fun x => x.unlinkHandle n
    .ok (s.bump.advance c false)
  else .error (.hold .fence)

/-- CAPSEND (R225). -/
def execCapsend (g : Guard) (s : State) : Host.Outcome State Fault Refusal :=
  plainRun g s fun c => do
    let k ← s.heldCap c
    must (capCur k.hdr ≠ capNhop k.hdr) .capHops
    let p := placeOf (capHop k.hdr (capCur k.hdr))
    must (s.placeIn (hdrByte k.hdr 7) p) .capPlace
    s.beginSend c k.hdr p .hop

/-- CAPEND (R225). -/
def execCapend (g : Guard) (s : State) : Host.Outcome State Fault Refusal :=
  plainRun g s fun c => do
    let k ← s.heldCap c
    s.beginSend c k.hdr (placeOf (capWord k.hdr 4)) .sink

/-- CAPFLT (R225). -/
def execCapflt (g : Guard) (a : Src) (s : State) : Host.Outcome State Fault Refusal :=
  plainRun g s fun c => do
    let v ← s.readSrc c a
    let k ← s.heldCap c
    s.beginSend c (capFaulted k.hdr (v.extractLsb' 0 8).toNat) (placeOf (capWord k.hdr 5)) .fault

/-- The router of a logical core, as 16 × row + column (R18): a spare takes the port of the core it replaces. -/
def coreRouter (core : Nat) : Nat := if core < 64 then 32 + core / 4 else 112 + (core / 4 - 16)

/-- The 64-byte beats of a capsule (R226): its header and its data. -/
def capBeats (h : CapHdr) : Nat := 1 + (capSize h + 63) / 64

/-- The next router has room for a beat in its channel's buffer (R161). -/
def DieNet.room (x : DieNet) (r inp : Nat) (b : Beat) : Bool :=
  (x.beats.filter fun q => q.router == r && q.inp == inp && q.chan == b.chan && q.world == b.world).length < 16

/-- Beats that wait to enter a router's input buffer go in as far as there is room, each channel's in order (R161). -/
def DieNet.feedBeats (x : DieNet) : DieNet :=
  x.feed.foldl (fun (y : DieNet) b =>
    let before := y.feed.any fun q => q.router == b.router && q.inp == b.inp && q.chan == b.chan && q.world == b.world
    if !before && y.room b.router b.inp b then { y with beats := y.beats ++ [b] } else { y with feed := y.feed ++ [b] })
    { x with feed := [] }

/-- A capsule enters the network at a router, as packets on its world's capsule channel (R161, R226). -/
def State.launchCap (s : State) (cap : Capsule) (place : BitVec 17) (sender : CtxId) (die router inp : Nat) : State :=
  let n := capBeats cap.hdr
  let b : Beat :=
    { cap := cap.id, chan := .capsule, world := (cap.hdr.extractLsb' 56 8).toNat, place := place, router := router,
      inp := inp, ready := 0 }
  let fl : CapFlight :=
    { cap := cap, place := place, sender := sender, waiting := false, since := 0, left := n, die := die, router := router,
      escaping := none, spoiled := false }
  let s := s.onDie die fun x => { x with net := { x.net with feed := x.net.feed ++ List.replicate n b }.feedBeats }
  s.onNet fun x => { x with flights := x.flights ++ [fl] }

/-- CAPSULE_READOUT_END: the operations the send waits for have ended, and the header and data have been
read out into the network (R226 steps 3 to 5). -/
def State.readoutEnd (s : State) (c : CtxId) : State :=
  match (s.ctx c).cap with
  | none => s
  | some k =>
    match k.sending with
    | none => s
    | some d =>
      let x := s.core c.coreId
      if x.ops.any fun op => d.ops.contains op.id then s
      else
        let cap : Capsule :=
          { hdr := k.hdr, data := x.scratchBytes (capBase c.ctx) (capSize k.hdr), launch := k.launch, home := k.home,
            id := d.id, clock := d.clock, role := d.role, taken := none, sink := none }
        (s.onCtx c fun y => { y with cap := none }).launchCap cap d.place c c.die (coreRouter c.core)
          (26 + c.core % 4)

/-! ## CAPNEW (R225, R308) -/

/-- A template that CAPNEW accepts (R225): its fields in range and every reserved bit zero. -/
def capFmtOk (t : CapHdr) : Bool :=
  let b := capByte t
  b 4 == 0 && b 6 == 0 && b 12 == 0 && b 13 == 0 && decide (1 ≤ b 8 ∧ b 8 ≤ 64) && decide (1 ≤ b 9 ∧ b 9 ≤ 16) &&
    decide (b 5 ≤ 10) && b 10 / 16 == 0 && b 11 == 0 && b 14 == 0 && b 15 == 0 &&
    (capWord t 4).extractLsb' 17 15 == 0 && (capWord t 5).extractLsb' 17 15 == 0 &&
    (List.range 10).all fun i =>
      if i < b 5 then (capHop t i).extractLsb' 29 3 == 0 else capHop t i == 0

/-- Every place of a template is in a world (R225). -/
def State.capPlacesOk (s : State) (t : CapHdr) (world : Nat) : Bool :=
  s.placeIn world (placeOf (capWord t 4)) && s.placeIn world (placeOf (capWord t 5)) &&
    (List.range (capByte t 5)).all fun i => s.placeIn world (placeOf (capHop t i))

/-- CAPNEW (R225, R308). -/
def execCapnew (g : Guard) (a : Src) (s : State) : Host.Outcome State Fault Refusal :=
  plainRun g s fun c => do
    let v ← s.readSrc c a
    must (s.ctx c).cap.isNone .hinval
    must (v.extractLsb' 40 24 = 0) .hinval
    let h := (v.extractLsb' 32 8).zeroExtend 64
    let row := (v.extractLsb' 0 32).zeroExtend 64
    let x ← s.scrCheck c h row 0 64 1 1
    let s' ← s.scrRead c (granulesOf x row.toNat 0 64) (handleAddr h row) false false .none
    let t := BitVec.ofNat 512 (leNat ((s.core c.coreId).scratchBytes (x.addr row.toNat 0) 64))
    must (capFmtOk t) .capFmt
    let world := s.worldOf c.coreId
    must (s.capPlacesOk t world) .capPlace
    let hdr := capSetByte t 7 world
    let (launch, home) := match (s.ctx c).unit with
      | some u => (u.launch, u.home)
      | none => (0, c.die)
    let s' := s'.onCore c.coreId fun y => y.fillCap c.ctx hdr [] false
    let s' := s'.onCtx c fun y => { y with cap := some { hdr := hdr, launch := launch, home := home, sending := none } }
    return (s'.joinLaunch world launch).advance c false

end Sys2Proof.Machine
end

