-- ==== Sys2Proof/Machine/Codecs.lean ====
section
/-! DEFINITION. The codecs of copies: the E-codec (05_numbers R127, R128) and the Z-codec (R129, R130). -/

namespace Sys2Proof.Machine

/-! ## The E-codec -/

/-- A variant of the E-codec (R127): fraction bits, exponent bits, bytes of a block, the largest base exponent. -/
structure EVariant where
  mb    : Nat
  eb    : Nat
  block : Nat
  top   : Nat
  deriving DecidableEq, Repr

/-- The variant of a handle, by the type field of its shape descriptor (R127). -/
def eVariant (desc : BitVec 32) : EVariant :=
  if desc.extractLsb' 28 4 = 6 then { mb := 10, eb := 5, block := 57, top := 25 }
  else { mb := 7, eb := 8, block := 45, top := 249 }

/-- The canonical NaN of a variant. -/
def EVariant.nan (v : EVariant) : Nat := (2 ^ v.eb - 1) * 2 ^ v.mb + 2 ^ (v.mb - 1)

/-- One element of a block whose base exponent is `base`, from its field (R128). -/
def EVariant.element (v : EVariant) (base x : Nat) : Nat :=
  let sign := x / 2 ^ (v.mb + 3) % 2 * 2 ^ 15
  let off := x / 2 ^ v.mb % 8
  if off = 7 then sign
  else if v.top < base then v.nan
  else sign + (base + off) % 2 ^ v.eb * 2 ^ v.mb + x % 2 ^ v.mb

/-- Decode a block of 32 elements (R128): its 64 bytes, and whether its base byte is out of range. -/
def EVariant.decode (v : EVariant) (blk : List Byte) : List Byte × Bool :=
  let base := (blk.headD 0).toNat
  let field := leNat (blk.drop 1)
  ((List.range 32).flatMap fun i => leBytes (v.element base (field / 2 ^ ((v.mb + 4) * i) % 2 ^ (v.mb + 4))) 2,
    decide (v.top < base))

/-- The sixteen-bit elements of bytes. -/
def halves (bs : List Byte) : List Nat := (List.range (bs.length / 2)).map fun i => leNat ((bs.drop (2 * i)).take 2)

/-- The exponent field of an element. -/
def EVariant.expOf (v : EVariant) (x : Nat) : Nat := x / 2 ^ v.mb % 2 ^ v.eb

/-- The field of one element under a base exponent, and whether it is flushed (R128). Of offset 7 the rule keeps the sign
only; the fraction of such a field is 0 (DESIGN CHOICE, log entry 129). -/
def EVariant.field (v : EVariant) (base x : Nat) : Nat × Bool :=
  let sign := x / 2 ^ 15 % 2 * 2 ^ (v.mb + 3)
  if x % 2 ^ 15 = 0 then (sign + 7 * 2 ^ v.mb, false)
  else if v.expOf x < base then (sign + 7 * 2 ^ v.mb, true)
  else (sign + (v.expOf x - base) * 2 ^ v.mb + x % 2 ^ v.mb, false)

/-- Encode 64 bytes as a block (R128): its bytes, and how many elements were flushed. -/
def EVariant.encode (v : EVariant) (bs : List Byte) : List Byte × Nat :=
  let xs := halves bs
  let m := xs.foldl (fun m x => max m (v.expOf x)) 0
  let base := m - 6
  let fs := xs.map fun x => v.field base x
  let n := fs.foldr (fun f acc => f.1 + 2 ^ (v.mb + 4) * acc) 0
  (BitVec.ofNat 8 base :: leBytes n (v.block - 1), (fs.filter fun f => f.2).length)

/-! ## The Z-codec -/

/-- A frame as its header gives it (R129): declared and compressed sizes. -/
structure ZHead where
  dsize : Nat
  csize : Nat
  deriving DecidableEq, Repr

/-- The header of a frame. -/
def zHead (bs : List Byte) : ZHead := { dsize := leNat (bs.take 4), csize := leNat ((bs.drop 4).take 4) }

/-- Expand one block: its 64 bytes from a map and what follows it, what is left, and whether bytes are
missing. -/
def zBlock (map : Nat) (i : Nat) (body : List Byte) : Nat → List Byte × List Byte × Bool
  | 0 => ([], body, false)
  | n + 1 =>
    if map.testBit i then
      let (bs, rest, miss) := zBlock map (i + 1) (body.drop 1) n
      (body.headD 0 :: bs, rest, miss || body.isEmpty)
    else
      let (bs, rest, miss) := zBlock map (i + 1) body n
      (0 :: bs, rest, miss)

/-- Expand blocks until `len` bytes result or no whole map is left (R130): the bytes, what is left of the
body, and whether bytes were missing. -/
def zExpand (len : Nat) (body : List Byte) : Nat → List Byte × List Byte × Bool
  | 0 => ([], body, false)
  | n + 1 =>
    if len = 0 || body.length < 8 then ([], body, false)
    else
      let (bs, rest, miss) := zBlock (leNat (body.take 8)) 0 (body.drop 8) 64
      let (more, left, m) := zExpand (len - 64) rest n
      (bs ++ more, left, miss || m)

/-- Decode a frame into a row (R130): its bytes, whether expansion would pass its length, and whether bytes
were missing. `body` is what follows the header, within the bytes that the decoder reads. What passes L is a byte beyond L
that is not zero, or a byte of the body that is left when L has been reached: the zeros that fill the last block's 64 bytes
do not (DESIGN CHOICE, log entry 130). -/
def zDecode (h : ZHead) (body : List Byte) (rowBytes : Nat) : List Byte × Bool × Bool :=
  let len := min h.dsize rowBytes
  let (bs, left, miss) := zExpand len body (rowBytes / 64 + 1)
  let past := (bs.drop len).any fun b => b ≠ 0
  let excess := decide (rowBytes < h.dsize) || past || (decide (len ≤ bs.length) && !left.isEmpty)
  let got := bs.take len
  (got ++ List.replicate (rowBytes - got.length) 0, excess, miss || decide (got.length < len))

/-- The map of a block of bytes. -/
def zMap : List Byte → Nat
  | [] => 0
  | b :: rest => (if b = 0 then 0 else 1) + 2 * zMap rest

/-- The blocks of a row. -/
def zBlocks (bs : List Byte) : Nat → List Byte
  | 0 => []
  | n + 1 =>
    if bs.isEmpty then []
    else leBytes (zMap (bs.take 64)) 8 ++ (bs.take 64).filter (fun b => b ≠ 0) ++ zBlocks (bs.drop 64) n

/-- Encode a row as a frame (R129). -/
def zEncode (row : List Byte) : List Byte :=
  let body := zBlocks row (row.length / 64 + 1)
  leBytes row.length 4 ++ leBytes (16 + body.length) 4 ++ List.replicate 8 0 ++ body

end Sys2Proof.Machine
end

