-- ==== Sys2Proof/WellFormed.lean ====
section
/-! DEFINITION. Which instructions are well formed: the operand rules that a word alone decides and
that R76 answers with ILL-OPND. The decoder ends with this check and the encoder is stated for the
instructions that pass it. -/

namespace Sys2Proof

/-- The element width in bits (R81). -/
def ETy.bits : ETy → Nat
  | .s8 | .u8 => 8
  | .s16 | .u16 | .bf16 | .f16 => 16
  | .s32 | .f32 => 32

/-- The lane count of a type (R58). -/
def ETy.lanes (t : ETy) : Nat := 512 / t.bits

/-- The float types of Format V. -/
def ETy.isFloat : ETy → Bool
  | .bf16 | .f16 | .f32 => true
  | _ => false

/-- The signed integer types of Format V. -/
def ETy.isSigned : ETy → Bool
  | .s8 | .s16 | .s32 => true
  | _ => false

/-- A tile slice is accepted in an operand of this type (R82, R391). -/
def ETy.sliceable : ETy → Bool
  | .s32 | .f32 => true
  | _ => false

/-- The operand is a tile slice. -/
def VSrc.isSlice : VSrc → Bool
  | .slice .. | .rslice .. => true
  | _ => false

/-- The destination is a tile slice. -/
def VDst.isSlice : VDst → Bool
  | .slice .. | .rslice .. => true
  | _ => false

/-- The rules of every Format V destination (R391): a slice only in an operand of a 32-bit type, and
never with W. -/
def dstWf (w : Bool) (own : Bool) (d : VDst) : Bool := !d.isSlice || (own && !w)

/-- The rule of every Format V source (R391): a slice only in an operand of a 32-bit type. -/
def srcWf (own : Bool) (a : VSrc) : Bool := !a.isSlice || own

/-- The destination has its head's type. -/
def VHead.wf (h : VHead) : Bool := dstWf h.w h.t.sliceable h.d

/-- EXT, EXTU and INS: the field lies within the form's width (R331). -/
def FieldArgs.wf (x : FieldArgs) : Bool :=
  x.pos.toNat + x.wm1.toNat + 1 ≤ if x.w32 then 32 else 64

/-- LPSET: the displacement is at least one word (R64, R348). -/
def dispWf (d : BitVec 36) : Bool := 1 ≤ d.toInt

/-- The parts a conversion has (R401). -/
def cvtParts (src dst : ETy) : Nat := (max src.bits dst.bits) / (min src.bits dst.bits)

/-- The code type's zero-point rule (R405). -/
def codeWf (ct : CodeTy) (zp : BitVec 8) : Bool := !(ct == .s8) || zp == 0

/-- The type rule of a VRED or VSCAN operation (R406). -/
def redWf (op : RedOp) (t : ETy) : Bool :=
  match op with
  | .add | .min | .max => true
  | .and | .or | .xor => !t.isFloat

/-- The type rule of a VCMP condition (R397). -/
def vcondWf (c : VCond) (t : ETy) : Bool :=
  match c with
  | .tst => !t.isFloat
  | .un => t.isFloat
  | _ => true

/-- VRED's destination type: the integer sum is an S32, every other result has type t (R406). -/
def redDst (op : RedOp) (t : ETy) : Bool := t.sliceable || (op == .add && !t.isFloat)

/-- An event names parts; its own meaning says what a name of no part does. -/
def Instr.wf : Instr → Bool
  | .ext x | .extu x | .ins x => x.wf
  | .lpsetReg _ _ _ disp | .lpsetImm _ _ _ disp => dispWf disp
  | .amoh _ op _ _ d _ => !(op == .cas) || d.toNat % 2 == 0
  | .halloc _ _ _ _ level rl => !(level && rl)
  | .wait _ _ _ a mask => !(a == .g 0 && mask == 0)
  | .vadd h sat a b | .vsub h sat a b | .vmul h sat a b =>
      h.wf && srcWf h.t.sliceable a && srcWf h.t.sliceable b && !(sat && h.t.isFloat)
  | .vfma h a b c =>
      h.wf && srcWf h.t.sliceable a && srcWf h.t.sliceable b && srcWf h.t.sliceable c
  | .vmin h a b | .vmax h a b | .vand h a b | .vor h a b | .vxor h a b | .vperm h a b =>
      h.wf && srcWf h.t.sliceable a && srcWf h.t.sliceable b
  | .vabs h a | .vneg h a | .vnot h a | .vmov h a | .vcomp h a _ =>
      h.wf && srcWf h.t.sliceable a
  | .vdot _ w d a b c => dstWf w true d && srcWf false a && srcWf false b && srcWf true c
  | .vshl h a b | .vshr h a b | .vsar h a b =>
      h.wf && srcWf h.t.sliceable a && srcWf h.t.sliceable b && !h.t.isFloat
  | .vcmp _ t _ c a b => srcWf t.sliceable a && srcWf t.sliceable b && vcondWf c t
  | .vsel h a b _ _ => h.wf && srcWf h.t.sliceable a && srcWf h.t.sliceable b
  | .vcvt h src part a => h.wf && srcWf src.sliceable a && part.toNat < cvtParts src h.t
  | .vqnt h ct zp a b =>
      dstWf h.w false h.d && srcWf h.t.sliceable a && srcWf true b && h.t.isFloat && codeWf ct zp
  | .vdqnt h ct zp a b =>
      h.wf && srcWf false a && srcWf true b && h.t.isFloat && codeWf ct zp
  | .vexpm _ w d a => dstWf w true d && srcWf true a
  | .valign _ w d _ a b => dstWf w true d && srcWf true a && srcWf true b
  | .vred h op a => dstWf h.w (redDst op h.t) h.d && srcWf h.t.sliceable a && redWf op h.t
  | .vscan h op a => h.wf && srcWf h.t.sliceable a && redWf op h.t
  | .vbcast h a j | .vins h a j => h.wf && srcWf h.t.sliceable a && j.toNat < h.t.lanes
  | .vexp2 h a | .vlog2 h a | .vrcp h a | .vrsq h a | .vtanh h a =>
      h.wf && srcWf h.t.sliceable a && h.t.isFloat
  | .vext w t d a j => dstWf w t.sliceable d && srcWf t.sliceable a && j.toNat < t.lanes
  | .vli h _ => h.wf
  | _ => true

end Sys2Proof
end

