-- ==== Sys2Proof/Decode.lean ====
section
/-! DEFINITION. The decoder of instruction words, total and rejecting by name in the order of R76,
and after it the encoder, both written from the encodings of 04_encoding R74 to R95 and of each
entry of the instruction reference. A word is first cut into the fields of its format, so that each
rule about a field is read off one structure. -/

namespace Sys2Proof

/-- The faults a word alone decides (R76, R91). -/
inductive DecodeFault where
  | illMajor | illFunc | illRsv | illOpnd | engIll
  deriving DecidableEq, Repr

/-- A decoded word or the first fault of R76. -/
abbrev Decoded := Except DecodeFault Instr

/-! ## Formats -/

/-- Format A (R77). -/
structure FmtA where
  major : BitVec 6
  func  : BitVec 6
  k     : BitVec 3
  kn    : BitVec 1
  w     : BitVec 1
  d     : BitVec 5
  a     : BitVec 6
  b     : BitVec 6
  i     : BitVec 1
  imm   : BitVec 29
  deriving DecidableEq, Repr

/-- Format M (R78). -/
structure FmtM where
  major : BitVec 6
  func  : BitVec 6
  k     : BitVec 3
  kn    : BitVec 1
  w     : BitVec 1
  d     : BitVec 5
  a     : BitVec 6
  b     : BitVec 6
  q     : BitVec 3
  rsv   : BitVec 3
  imm   : BitVec 24
  deriving DecidableEq, Repr

/-- Format B (R79). -/
structure FmtB where
  major : BitVec 6
  func  : BitVec 6
  k     : BitVec 3
  kn    : BitVec 1
  z     : BitVec 2
  a     : BitVec 5
  b     : BitVec 5
  disp  : BitVec 36
  deriving DecidableEq, Repr

/-- Format C (R80). -/
structure FmtC where
  major : BitVec 6
  func  : BitVec 6
  k     : BitVec 3
  kn    : BitVec 1
  w     : BitVec 1
  d     : BitVec 5
  a     : BitVec 6
  creg  : BitVec 16
  imm   : BitVec 20
  deriving DecidableEq, Repr

/-- Format V (R81). -/
structure FmtV where
  major : BitVec 6
  func  : BitVec 7
  k     : BitVec 3
  w     : BitVec 1
  t     : BitVec 3
  d     : BitVec 11
  a     : BitVec 11
  b     : BitVec 11
  c     : BitVec 11
  deriving DecidableEq, Repr

/-- Format E (R85). -/
structure FmtE where
  major  : BitVec 6
  engine : BitVec 2
  n      : BitVec 2
  rsv    : BitVec 6
  word0  : BitVec 16
  word1  : BitVec 16
  word2  : BitVec 16
  deriving DecidableEq, Repr

/-- The fields of a word read as Format A. -/
def FmtA.ofWord (w : Word) : FmtA :=
  { major := w.extractLsb' 58 6, func := w.extractLsb' 52 6, k := w.extractLsb' 49 3,
    kn := w.extractLsb' 48 1, w := w.extractLsb' 47 1, d := w.extractLsb' 42 5,
    a := w.extractLsb' 36 6, b := w.extractLsb' 30 6, i := w.extractLsb' 29 1,
    imm := w.extractLsb' 0 29 }

/-- The word whose Format A fields these are. -/
def FmtA.toWord (f : FmtA) : Word :=
  f.major ++ f.func ++ f.k ++ f.kn ++ f.w ++ f.d ++ f.a ++ f.b ++ f.i ++ f.imm

/-- The fields of a word read as Format M. -/
def FmtM.ofWord (w : Word) : FmtM :=
  { major := w.extractLsb' 58 6, func := w.extractLsb' 52 6, k := w.extractLsb' 49 3,
    kn := w.extractLsb' 48 1, w := w.extractLsb' 47 1, d := w.extractLsb' 42 5,
    a := w.extractLsb' 36 6, b := w.extractLsb' 30 6, q := w.extractLsb' 27 3,
    rsv := w.extractLsb' 24 3, imm := w.extractLsb' 0 24 }

/-- The word whose Format M fields these are. -/
def FmtM.toWord (f : FmtM) : Word :=
  f.major ++ f.func ++ f.k ++ f.kn ++ f.w ++ f.d ++ f.a ++ f.b ++ f.q ++ f.rsv ++ f.imm

/-- The fields of a word read as Format B. -/
def FmtB.ofWord (w : Word) : FmtB :=
  { major := w.extractLsb' 58 6, func := w.extractLsb' 52 6, k := w.extractLsb' 49 3,
    kn := w.extractLsb' 48 1, z := w.extractLsb' 46 2, a := w.extractLsb' 41 5,
    b := w.extractLsb' 36 5, disp := w.extractLsb' 0 36 }

/-- The word whose Format B fields these are. -/
def FmtB.toWord (f : FmtB) : Word :=
  f.major ++ f.func ++ f.k ++ f.kn ++ f.z ++ f.a ++ f.b ++ f.disp

/-- The fields of a word read as Format C. -/
def FmtC.ofWord (w : Word) : FmtC :=
  { major := w.extractLsb' 58 6, func := w.extractLsb' 52 6, k := w.extractLsb' 49 3,
    kn := w.extractLsb' 48 1, w := w.extractLsb' 47 1, d := w.extractLsb' 42 5,
    a := w.extractLsb' 36 6, creg := w.extractLsb' 20 16, imm := w.extractLsb' 0 20 }

/-- The word whose Format C fields these are. -/
def FmtC.toWord (f : FmtC) : Word :=
  f.major ++ f.func ++ f.k ++ f.kn ++ f.w ++ f.d ++ f.a ++ f.creg ++ f.imm

/-- The fields of a word read as Format V. -/
def FmtV.ofWord (w : Word) : FmtV :=
  { major := w.extractLsb' 58 6, func := w.extractLsb' 51 7, k := w.extractLsb' 48 3,
    w := w.extractLsb' 47 1, t := w.extractLsb' 44 3, d := w.extractLsb' 33 11,
    a := w.extractLsb' 22 11, b := w.extractLsb' 11 11, c := w.extractLsb' 0 11 }

/-- The word whose Format V fields these are. -/
def FmtV.toWord (f : FmtV) : Word :=
  f.major ++ f.func ++ f.k ++ f.w ++ f.t ++ f.d ++ f.a ++ f.b ++ f.c

/-- The fields of a word read as Format E. -/
def FmtE.ofWord (w : Word) : FmtE :=
  { major := w.extractLsb' 58 6, engine := w.extractLsb' 56 2, n := w.extractLsb' 54 2,
    rsv := w.extractLsb' 48 6, word0 := w.extractLsb' 32 16, word1 := w.extractLsb' 16 16,
    word2 := w.extractLsb' 0 16 }

/-- The word whose Format E fields these are. -/
def FmtE.toWord (f : FmtE) : Word :=
  f.major ++ f.engine ++ f.n ++ f.rsv ++ f.word0 ++ f.word1 ++ f.word2

/-! ## Operand fields -/

/-- One bit as a Bool. -/
def bit (b : BitVec 1) : Bool := b == 1

/-- A Bool as one bit. -/
def unbit (b : Bool) : BitVec 1 := if b then 1 else 0

/-- Refuse a word with the fault `e` unless `c` holds. -/
def need (c : Bool) (e : DecodeFault) : Except DecodeFault Unit := if c then .ok () else .error e

/-- The value of a field that names something, or ILL-OPND. -/
def opnd {α : Type} (x : Option α) : Except DecodeFault α :=
  match x with
  | some v => .ok v
  | none => .error .illOpnd

/-- The last check of a decoder: the operand rules that involve several fields (ILL-OPND). -/
def finish (i : Instr) : Decoded := if i.wf then .ok i else .error .illOpnd

/-- A source field (R77): 0 to 31 a register, 32 to 35 a latch. -/
def srcOf (f : BitVec 6) : Option Src :=
  if f.toNat < 32 then some (.g (f.extractLsb' 0 5))
  else if f.toNat < 36 then some (.l (f.extractLsb' 0 2)) else none

/-- The source field of a source. -/
def srcField : Src → BitVec 6
  | .g r => (0 : BitVec 1) ++ r
  | .l r => (8 : BitVec 4) ++ r

/-- The b field of Format M (R78): 63 means none. -/
def idxOf (f : BitVec 6) : Option (Option Src) :=
  if f.toNat = 63 then some none else (srcOf f).map some

/-- The b field of Format M of an index. -/
def idxField : Option Src → BitVec 6
  | none => 63
  | some s => srcField s

/-- The element types of R81. -/
def tyOf (t : BitVec 3) : ETy :=
  match t.toNat with
  | 0 => .s8 | 1 => .u8 | 2 => .s16 | 3 => .u16 | 4 => .s32 | 5 => .bf16 | 6 => .f16 | _ => .f32

/-- The code of an element type (R81). -/
def tyField : ETy → BitVec 3
  | .s8 => 0 | .u8 => 1 | .s16 => 2 | .u16 => 3 | .s32 => 4 | .bf16 => 5 | .f16 => 6 | .f32 => 7

/-- The slice directions of R83. -/
def dirOf (d : BitVec 2) : Dir :=
  match d.toNat with
  | 0 => .h | 1 => .v | 2 => .d | _ => .x

/-- The code of a slice direction (R83). -/
def dirField : Dir → BitVec 2
  | .h => 0 | .v => 1 | .d => 2 | .x => 3

/-- The bits of an operand field that its kind leaves unused are zero (R82). -/
def vfieldRsvOk (f : BitVec 11) : Bool :=
  match (f.extractLsb' 9 2).toNat with
  | 0 => f.extractLsb' 5 4 == 0
  | 2 =>
    match (f.extractLsb' 6 3).toNat with
    | 0 => f.extractLsb' 2 4 == 0
    | 1 => f.extractLsb' 5 1 == 0
    | 2 => f.extractLsb' 0 6 == 0
    | _ => true
  | _ => true

/-- A source operand field of Format V (R82). -/
def vsrcOf (f : BitVec 11) : Option VSrc :=
  match (f.extractLsb' 9 2).toNat with
  | 0 => some (.v (f.extractLsb' 0 5))
  | 1 => some (.slice (dirOf (f.extractLsb' 7 2)) (f.extractLsb' 4 3) (f.extractLsb' 0 4))
  | 2 =>
    match (f.extractLsb' 6 3).toNat with
    | 0 => some (.latch (f.extractLsb' 0 2))
    | 1 => some (.bcast (f.extractLsb' 0 5))
    | 2 => some .zero
    | _ => none
  | _ => some (.rslice (dirOf (f.extractLsb' 7 2)) (f.extractLsb' 4 3) (f.extractLsb' 0 4))

/-- A destination operand field of Format V (R82). -/
def vdstOf (f : BitVec 11) : Option VDst :=
  match vsrcOf f with
  | some (.v r) => some (.v r)
  | some (.slice dr m i) => some (.slice dr m i)
  | some (.rslice dr m i) => some (.rslice dr m i)
  | some (.bcast g) => some (.g g)
  | _ => none

/-- The operand field of a source (R82). -/
def vsrcField : VSrc → BitVec 11
  | .v r => (0 : BitVec 6) ++ r
  | .slice dr m i => (1 : BitVec 2) ++ dirField dr ++ m ++ i
  | .latch l => (0b100000000 : BitVec 9) ++ l
  | .bcast g => (0b100010 : BitVec 6) ++ g
  | .zero => 0b10010000000
  | .rslice dr m i => (3 : BitVec 2) ++ dirField dr ++ m ++ i

/-- The operand field of a destination (R82). -/
def vdstField : VDst → BitVec 11
  | .v r => vsrcField (.v r)
  | .slice dr m i => vsrcField (.slice dr m i)
  | .rslice dr m i => vsrcField (.rslice dr m i)
  | .g r => vsrcField (.bcast r)

/-- The control register numbers of R71. -/
def cregOf (f : BitVec 16) : Option Creg :=
  let n := f.toNat
  if n = 0x000 then some .cid else if n = 0x001 then some .cyc
  else if n = 0x002 then some .mode else if n = 0x003 then some .fpmode
  else if n = 0x010 then some .tshape else if n = 0x011 then some .tsaveh
  else if n = 0x020 then some .trapv
  else if 0x021 ≤ n ∧ n ≤ 0x024 then some (.frec (BitVec.ofNat 2 (n - 0x021)))
  else if 0x030 ≤ n ∧ n ≤ 0x037 then some (.evcnt (BitVec.ofNat 3 (n - 0x030)))
  else if 0x038 ≤ n ∧ n ≤ 0x03F then some (.evth (BitVec.ofNat 3 (n - 0x038)))
  else if n = 0x040 then some .evwin else if n = 0x041 then some .evact
  else if n = 0x050 then some .ftbind else if n = 0x060 then some .world else none

/-- The number of a control register (R71). -/
def cregField : Creg → BitVec 16
  | .cid => 0x000 | .cyc => 0x001 | .mode => 0x002 | .fpmode => 0x003
  | .tshape => 0x010 | .tsaveh => 0x011 | .trapv => 0x020
  | .frec n => 0x021 + n.zeroExtend 16
  | .evcnt n => 0x030 + n.zeroExtend 16
  | .evth n => 0x038 + n.zeroExtend 16
  | .evwin => 0x040 | .evact => 0x041 | .ftbind => 0x050 | .world => 0x060

/-- The guard fields. -/
def guardOf (k : BitVec 3) (kn : BitVec 1) : Guard := { k := k, kn := bit kn }

/-! ## Format A decoders -/

/-- Format A's own unused-field rule (R76): I selects between b and imm29. -/
def FmtA.rsvOk (f : FmtA) : Bool := if bit f.i then f.b == 0 else f.imm == 0

/-- The second source of Format A (R77). -/
def FmtA.src2 (f : FmtA) : Except DecodeFault Src2 :=
  if bit f.i then .ok (.imm f.imm) else do
    let s ← opnd (srcOf f.b)
    return .reg s

/-- A two-source scalar instruction (R294). -/
def FmtA.alu (f : FmtA) (mk : AluArgs → Instr) : Decoded := do
  need f.rsvOk .illRsv
  let a ← opnd (srcOf f.a)
  let b ← f.src2
  finish (mk { guard := guardOf f.k f.kn, w32 := f.func.getLsbD 5, w := bit f.w, d := f.d, a := a, b := b })

/-- A one-source scalar instruction (R294): b, I and imm29 are zero. -/
def FmtA.una (f : FmtA) (mk : UnArgs → Instr) : Decoded := do
  need (f.b == 0 && f.i == 0 && f.imm == 0) .illRsv
  let a ← opnd (srcOf f.a)
  finish (mk { guard := guardOf f.k f.kn, w32 := f.func.getLsbD 5, w := bit f.w, d := f.d, a := a })

/-- EXT, EXTU and INS (R331). -/
def FmtA.field (f : FmtA) (mk : FieldArgs → Instr) : Decoded := do
  need (f.b == 0 && f.rsvOk && f.imm.extractLsb' 12 17 == 0) .illRsv
  need (bit f.i) .illOpnd
  let a ← opnd (srcOf f.a)
  finish (mk { guard := guardOf f.k f.kn, w32 := f.func.getLsbD 5, w := bit f.w, d := f.d, a := a,
               pos := f.imm.extractLsb' 0 6, wm1 := f.imm.extractLsb' 6 6 })

/-- MOV (R358): a is zero. -/
def FmtA.decMov (f : FmtA) : Decoded := do
  need (f.a == 0 && f.rsvOk) .illRsv
  let b ← f.src2
  finish (.mov { guard := guardOf f.k f.kn, w32 := f.func.getLsbD 5, w := bit f.w, d := f.d, b := b })

/-- MOVHI (R359): the 32-bit form does not exist and I is one. -/
def FmtA.decMovhi (f : FmtA) : Decoded := do
  need (!f.func.getLsbD 5) .illFunc
  need (f.b == 0 && f.rsvOk) .illRsv
  need (bit f.i) .illOpnd
  let a ← opnd (srcOf f.a)
  finish (.movhi { guard := guardOf f.k f.kn, w := bit f.w, d := f.d, a := a, imm := f.imm })

/-- The scalar ALU, major 0x01 (R88). -/
def FmtA.decAlu (f : FmtA) : Decoded :=
  match (f.func.extractLsb' 0 5).toNat with
  | 0 => f.alu .add | 1 => f.alu .sub | 2 => f.alu .and | 3 => f.alu .or
  | 4 => f.alu .xor | 5 => f.alu .andn | 6 => f.alu .shl | 7 => f.alu .shr
  | 8 => f.alu .sar | 9 => f.alu .min | 10 => f.alu .max | 11 => f.alu .minu
  | 12 => f.alu .maxu | 13 => f.alu .mul | 14 => f.alu .mulh | 15 => f.alu .mulhu
  | 16 => f.alu .div | 17 => f.alu .divu | 18 => f.alu .rem | 19 => f.alu .remu
  | 20 => f.una .clz | 21 => f.una .ctz | 22 => f.una .popc
  | 23 => f.field .ext | 24 => f.field .extu | 25 => f.field .ins
  | 26 => f.alu .sel | 27 => f.decMov | 28 => f.decMovhi
  | _ => .error .illFunc

/-- The conditions of CMP (R314). -/
def condOf (c : BitVec 3) : Cond :=
  match c.toNat with
  | 0 => .eq | 1 => .ne | 2 => .lt | 3 => .ge | 4 => .ltu | 5 => .geu | 6 => .tst | _ => .ntst

/-- The code of a condition (R314). -/
def condField : Cond → BitVec 3
  | .eq => 0 | .ne => 1 | .lt => 2 | .ge => 3 | .ltu => 4 | .geu => 5 | .tst => 6 | .ntst => 7

/-- CMP, major 0x02 (R314). -/
def FmtA.decCmp (f : FmtA) : Decoded := do
  need (f.func.extractLsb' 3 2 == 0) .illFunc
  need f.rsvOk .illRsv
  need (!bit f.w && f.d.extractLsb' 3 2 == 0) .illOpnd
  let a ← opnd (srcOf f.a)
  let b ← f.src2
  finish (.cmp { guard := guardOf f.k f.kn, w32 := f.func.getLsbD 5,
                 cond := condOf (f.func.extractLsb' 0 3), d := f.d.extractLsb' 0 3, a := a, b := b })

/-- PAND, POR and PXOR (R365). A word with I = 0 and imm29 not 0, or with I = 1 and b not 0, has an unused field that is
not zero (R76), and ILL-RSV comes before the ILL-OPND of R365 (DEDUCED, log entry 121). -/
def FmtA.pred (f : FmtA) (mk : PredArgs → Instr) : Decoded := do
  need f.rsvOk .illRsv
  need (f.i == 0 && f.imm == 0 && !bit f.w && f.d.extractLsb' 3 2 == 0 &&
        f.a.extractLsb' 3 3 == 0 && f.b.extractLsb' 3 3 == 0) .illOpnd
  finish (mk { guard := guardOf f.k f.kn, d := f.d.extractLsb' 0 3, a := f.a.extractLsb' 0 3,
               b := f.b.extractLsb' 0 3 })

/-- The predicate instructions, major 0x03 (R365). -/
def FmtA.decPred (f : FmtA) : Decoded :=
  match f.func.toNat with
  | 0 => f.pred .pand
  | 1 => f.pred .por
  | 2 => f.pred .pxor
  | 3 => do
    need (f.b == 0 && f.rsvOk) .illRsv
    need (f.i == 0 && f.imm == 0 && !bit f.w && f.d.extractLsb' 3 2 == 0 &&
          f.a.extractLsb' 3 3 == 0) .illOpnd
    finish (.pnot (guardOf f.k f.kn) (f.d.extractLsb' 0 3) (f.a.extractLsb' 0 3))
  | 4 => do
    need (f.b == 0 && f.rsvOk) .illRsv
    need (f.i == 0 && f.imm == 0 && !bit f.w && f.d.extractLsb' 3 2 == 0) .illOpnd
    let a ← opnd (srcOf f.a)
    finish (.pmovGToK (guardOf f.k f.kn) (f.d.extractLsb' 0 3) a)
  | 5 => do
    need (f.b == 0 && f.rsvOk) .illRsv
    need (f.i == 0 && f.imm == 0 && f.a.extractLsb' 3 3 == 0) .illOpnd
    finish (.pmovKToG (guardOf f.k f.kn) (bit f.w) f.d (f.a.extractLsb' 0 3))
  | _ => .error .illFunc

/-! ## Format B decoders -/

/-- The branches, major 0x04 (R303, R304, R372). -/
def FmtB.decBranch (f : FmtB) : Decoded :=
  let g := guardOf f.k f.kn
  match f.func.toNat with
  | 0 => do
    need (f.z == 0 && f.a == 0 && f.b == 0) .illRsv
    finish (.br g f.disp)
  | 1 => do
    need (f.z == 0 && f.b == 0 && f.disp == 0) .illRsv
    finish (.brx g f.a)
  | 2 => do
    need (f.z == 0 && f.a == 0 && f.b == 0) .illRsv
    finish (.call g f.disp)
  | 3 => do
    need (f.z == 0 && f.b == 0 && f.disp == 0) .illRsv
    finish (.callx g f.a)
  | 4 => do
    need (f.z == 0 && f.b == 0 && f.disp == 0) .illRsv
    finish (.ret g f.a)
  | _ => .error .illFunc

/-- The selectors of LPGET and LPRST (R347). -/
def lpSelOf (s : BitVec 2) : Option LpSel :=
  match s.toNat with
  | 0 => some .cnt | 1 => some .start | 2 => some .fin | _ => none

/-- The code of a selector (R347). -/
def lpSelField : LpSel → BitVec 2
  | .cnt => 0 | .start => 1 | .fin => 2

/-- The loop instructions, major 0x05 (R347). -/
def FmtB.decLoop (f : FmtB) : Decoded :=
  let g := guardOf f.k f.kn
  let z := f.z.getLsbD 0
  match f.func.toNat with
  | 0 => do
    need (f.b == 0) .illRsv
    need (f.z.toNat < 2) .illOpnd
    finish (.lpsetReg g z f.a f.disp)
  | 1 => do
    need (f.a == 0) .illRsv
    need (f.z.toNat < 2) .illOpnd
    finish (.lpsetImm g z f.b f.disp)
  | 2 => do
    need (f.a == 0 && f.b == 0 && f.disp == 0) .illRsv
    need (f.z.toNat < 2) .illOpnd
    finish (.lpclr g z)
  | 3 => do
    need (f.b == 0 && f.disp.extractLsb' 2 34 == 0) .illRsv
    need (f.z.toNat < 2) .illOpnd
    let s ← opnd (lpSelOf (f.disp.extractLsb' 0 2))
    finish (.lpget { guard := g, z := z, a := f.a, sel := s })
  | 4 => do
    need (f.b == 0 && f.disp.extractLsb' 2 34 == 0) .illRsv
    need (f.z.toNat < 2) .illOpnd
    let s ← opnd (lpSelOf (f.disp.extractLsb' 0 2))
    finish (.lprst { guard := g, z := z, a := f.a, sel := s })
  | _ => .error .illFunc

/-! ## Format M decoders -/

/-- The load sizes of R89. -/
def ldSizeOf (s : BitVec 3) : Option LdSize :=
  match s.toNat with
  | 0 => some .b | 1 => some .h | 2 => some .w | 3 => some .d
  | 4 => some .bu | 5 => some .hu | 6 => some .wu | _ => none

/-- The code of a load size (R89). -/
def ldSizeField : LdSize → BitVec 3
  | .b => 0 | .h => 1 | .w => 2 | .d => 3 | .bu => 4 | .hu => 5 | .wu => 6

/-- The store sizes of R89. -/
def stSizeOf (s : BitVec 3) : Option StSize :=
  match s.toNat with
  | 0 => some .b | 1 => some .h | 2 => some .w | 3 => some .d | _ => none

/-- The code of a store size (R89). -/
def stSizeField : StSize → BitVec 3
  | .b => 0 | .h => 1 | .w => 2 | .d => 3

/-- The qualifiers of a scratch load (R340). -/
def ldWaitOf (q : BitVec 3) : Option LdWait :=
  match q.toNat with
  | 0 => some .plain | 1 => some .fw | 2 => some .fc | _ => none

/-- The q field of a scratch load (R340). -/
def ldWaitField : LdWait → BitVec 3
  | .plain => 0 | .fw => 1 | .fc => 2

/-- The qualifiers of ST (R380). -/
def stWaitOf (q : BitVec 3) : Option StWait :=
  match q.toNat with
  | 0 => some .plain | 1 => some .ew | 2 => some .ns | _ => none

/-- The q field of ST (R380). -/
def stWaitField : StWait → BitVec 3
  | .plain => 0 | .ew => 1 | .ns => 2

/-- The qualifier of VST and TST: plain or .NS (R403, R389). -/
def nsOf (q : BitVec 3) : Option Bool :=
  match q.toNat with
  | 0 => some false | 2 => some true | _ => none

/-- The q field of VST and TST. -/
def nsField (ns : Bool) : BitVec 3 := if ns then 2 else 0

/-- The scratch address fields (R78, R135). -/
def FmtM.scr (f : FmtM) : Except DecodeFault ScrAddr := do
  let a ← opnd (srcOf f.a)
  let b ← opnd (idxOf f.b)
  return { a := a, b := b, imm := f.imm }

/-- The global address fields (R78, R344). -/
def FmtM.glo (f : FmtM) : Except DecodeFault GloAddr := do
  let a ← opnd (srcOf f.a)
  let b ← opnd (idxOf f.b)
  return { a := a, b := b, imm := f.imm }

/-- The scratch accesses, major 0x06 (R340, R380, R403, R389). -/
def FmtM.decScratch (f : FmtM) : Decoded :=
  let g := guardOf f.k f.kn
  match (f.func.extractLsb' 3 3).toNat with
  | 0 =>
    match ldSizeOf (f.func.extractLsb' 0 3) with
    | none => .error .illFunc
    | some size => do
      need (f.rsv == 0) .illRsv
      let addr ← f.scr
      let q ← opnd (ldWaitOf f.q)
      finish (.ld g size q (bit f.w) f.d addr)
  | 1 =>
    match stSizeOf (f.func.extractLsb' 0 3) with
    | none => .error .illFunc
    | some size => do
      need (f.rsv == 0) .illRsv
      need (!bit f.w) .illOpnd
      let addr ← f.scr
      let q ← opnd (stWaitOf f.q)
      finish (.st g size q f.d addr)
  | 2 => do
    need (f.func.extractLsb' 0 3 == 0) .illFunc
    need (f.rsv == 0) .illRsv
    let addr ← f.scr
    let q ← opnd (ldWaitOf f.q)
    finish (.vld g q (bit f.w) f.d addr)
  | 3 => do
    need (f.func.extractLsb' 0 3 == 0) .illFunc
    need (f.rsv == 0) .illRsv
    need (!bit f.w) .illOpnd
    let addr ← f.scr
    let ns ← opnd (nsOf f.q)
    finish (.vst g ns f.d addr)
  | 4 => do
    need (f.func.extractLsb' 0 3 == 0) .illFunc
    need (f.rsv == 0) .illRsv
    need (!bit f.w && f.d.extractLsb' 3 2 == 0 && f.q == 0) .illOpnd
    let addr ← f.scr
    finish (.tld g (f.d.extractLsb' 0 3) addr)
  | 5 => do
    need (f.func.extractLsb' 0 3 == 0) .illFunc
    need (f.rsv == 0) .illRsv
    need (!bit f.w && f.d.extractLsb' 3 2 == 0) .illOpnd
    let addr ← f.scr
    let ns ← opnd (nsOf f.q)
    finish (.tst g ns (f.d.extractLsb' 0 3) addr)
  | _ => .error .illFunc

/-- The global accesses, major 0x07 (R343, R382, R404, R368). -/
def FmtM.decGlobal (f : FmtM) : Decoded :=
  let g := guardOf f.k f.kn
  let c := f.q.getLsbD 0
  let nt := f.q.getLsbD 1
  match (f.func.extractLsb' 3 3).toNat with
  | 0 =>
    match ldSizeOf (f.func.extractLsb' 0 3) with
    | none => .error .illFunc
    | some size => do
      need (f.rsv == 0) .illRsv
      need (!f.q.getLsbD 2) .illOpnd
      let addr ← f.glo
      finish (.ldg g size c nt (bit f.w) f.d addr)
  | 1 =>
    match stSizeOf (f.func.extractLsb' 0 3) with
    | none => .error .illFunc
    | some size => do
      need (f.rsv == 0) .illRsv
      need (!bit f.w && !f.q.getLsbD 2) .illOpnd
      let addr ← f.glo
      finish (.stg g size c nt f.d addr)
  | 2 => do
    need (f.func.extractLsb' 0 3 == 0) .illFunc
    need (f.rsv == 0) .illRsv
    need (!f.q.getLsbD 2) .illOpnd
    let addr ← f.glo
    finish (.vldg g c nt (bit f.w) f.d addr)
  | 3 => do
    need (f.func.extractLsb' 0 3 == 0) .illFunc
    need (f.rsv == 0) .illRsv
    need (!bit f.w && !f.q.getLsbD 2) .illOpnd
    let addr ← f.glo
    finish (.vstg g c nt f.d addr)
  | 4 => do
    need (f.func.extractLsb' 0 3 == 0) .illFunc
    need (f.rsv == 0 && f.d == 0) .illRsv
    need (!bit f.w && !f.q.getLsbD 0 && !f.q.getLsbD 2) .illOpnd
    let addr ← f.glo
    finish (.pref g nt addr)
  | _ => .error .illFunc

/-- The operations of an atomic (R296). -/
def amoOf (o : BitVec 4) : Option AmoOp :=
  match o.toNat with
  | 0 => some .add | 1 => some .min | 2 => some .max | 3 => some .minu | 4 => some .maxu
  | 5 => some .and | 6 => some .or | 7 => some .xor | 8 => some .swp | 9 => some .cas | _ => none

/-- The code of an atomic operation (R296). -/
def amoField : AmoOp → BitVec 4
  | .add => 0 | .min => 1 | .max => 2 | .minu => 3 | .maxu => 4
  | .and => 5 | .or => 6 | .xor => 7 | .swp => 8 | .cas => 9

/-- The atomics, major 0x08 (R296, R299). -/
def FmtM.decAtomic (f : FmtM) : Decoded :=
  let g := guardOf f.k f.kn
  match amoOf (f.func.extractLsb' 0 4) with
  | none => .error .illFunc
  | some op =>
    if f.func.getLsbD 5 then do
      need (f.rsv == 0) .illRsv
      need (f.q == 0) .illOpnd
      let addr ← f.scr
      finish (.amoh g op (f.func.getLsbD 4) (bit f.w) f.d addr)
    else do
      need (f.rsv == 0) .illRsv
      need (!f.q.getLsbD 2) .illOpnd
      let a ← opnd (srcOf f.a)
      let b ← opnd (idxOf f.b)
      finish (.amo g op (f.func.getLsbD 4) (f.q.getLsbD 0) (f.q.getLsbD 1) (bit f.w) f.d a b f.imm)

/-- The handle and full-empty instructions, major 0x09 (R134, R333). -/
def FmtM.decHandle (f : FmtM) : Decoded :=
  let g := guardOf f.k f.kn
  match f.func.toNat with
  | 0 => do
    need (f.rsv == 0) .illRsv
    need (f.b == 63 && f.q == 0 && f.imm.extractLsb' 2 22 == 0) .illOpnd
    let a ← opnd (srcOf f.a)
    finish (.halloc g (bit f.w) f.d a (f.imm.getLsbD 0) (f.imm.getLsbD 1))
  | 1 => do
    need (f.rsv == 0) .illRsv
    need (!bit f.w && f.d == 0 && f.b == 63 && f.q == 0 && f.imm == 0) .illOpnd
    let a ← opnd (srcOf f.a)
    finish (.hfree g a)
  | 2 => do
    need (f.rsv == 0) .illRsv
    need (f.b == 63 && f.q == 0 && f.imm == 0) .illOpnd
    let a ← opnd (srcOf f.a)
    finish (.hinfo g (bit f.w) f.d a)
  | 3 => do
    need (f.rsv == 0) .illRsv
    need (!bit f.w && f.q == 0) .illOpnd
    let addr ← f.scr
    finish (.feset g f.d addr)
  | 4 => do
    need (f.rsv == 0) .illRsv
    need (!bit f.w && f.q == 0) .illOpnd
    let addr ← f.scr
    finish (.feclr g f.d addr)
  | 5 => do
    need (f.rsv == 0) .illRsv
    need (f.q == 0) .illOpnd
    let addr ← f.scr
    finish (.fetst g (bit f.w) f.d addr)
  | _ => .error .illFunc

/-! ## Format C decoders -/

/-- The scopes of FENCE (R196). -/
def scopeOf (s : BitVec 3) : Option Scope :=
  match s.toNat with
  | 0 => some .ctx | 1 => some .core | 2 => some .die | 3 => some .pkg | 4 => some .sys | _ => none

/-- The code of a scope (R196). -/
def scopeField : Scope → BitVec 3
  | .ctx => 0 | .core => 1 | .die => 2 | .pkg => 3 | .sys => 4

/-- The kinds of FENCE (R196). -/
def fenceKindOf (s : BitVec 2) : Option FenceKind :=
  match s.toNat with
  | 0 => some .full | 1 => some .acq | 2 => some .rel | _ => none

/-- The code of a fence kind (R196). -/
def fenceKindField : FenceKind → BitVec 2
  | .full => 0 | .acq => 1 | .rel => 2

/-- The fences, major 0x0A (R196): W counts as a field that must be zero. -/
def FmtC.decFence (f : FmtC) : Decoded :=
  let g := guardOf f.k f.kn
  match f.func.toNat with
  | 0 => do
    need (f.w == 0 && f.d == 0 && f.a == 0 && f.creg == 0 && f.imm.extractLsb' 5 15 == 0) .illRsv
    let scope ← opnd (scopeOf (f.imm.extractLsb' 0 3))
    let kind ← opnd (fenceKindOf (f.imm.extractLsb' 3 2))
    finish (.fence g scope kind)
  | 1 => do
    need (f.w == 0 && f.d == 0 && f.a == 0 && f.creg == 0 && f.imm.extractLsb' 4 16 == 0) .illRsv
    finish (.qfence g (f.imm.extractLsb' 0 4))
  | 2 => do
    need (f.w == 0 && f.d == 0 && f.a == 0 && f.creg == 0 && f.imm == 0) .illRsv
    finish (.ifence g)
  | _ => .error .illFunc

/-- The source of VSWR (R80). -/
def vportSrcOf (f : BitVec 6) : Option VPortSrc :=
  match srcOf f with
  | some (.g r) => some (.v r)
  | some (.l r) => some (.l r)
  | none => none

/-- The field of VSWR's source. -/
def vportSrcField : VPortSrc → BitVec 6
  | .v r => srcField (.g r)
  | .l r => srcField (.l r)

/-- The stream instructions, major 0x0B (R376, R407). -/
def FmtC.decStream (f : FmtC) : Decoded :=
  let g := guardOf f.k f.kn
  let port := f.imm.extractLsb' 0 4
  let e := f.imm.extractLsb' 8 3
  match f.func.toNat with
  | 0 => do
    need (f.a == 0 && f.creg == 0 && f.imm.extractLsb' 4 4 == 0 && f.imm.extractLsb' 11 9 == 0) .illRsv
    finish (.srd g (bit f.w) f.d port e)
  | 1 => do
    need (f.a == 0 && f.creg == 0 && f.imm.extractLsb' 4 4 == 0 && f.imm.extractLsb' 13 7 == 0) .illRsv
    finish (.speek g (bit f.w) f.d port e (f.imm.getLsbD 11) (f.imm.getLsbD 12))
  | 2 => do
    need (f.d == 0 && f.creg == 0 && f.imm.extractLsb' 4 16 == 0) .illRsv
    need (!bit f.w) .illOpnd
    let a ← opnd (srcOf f.a)
    finish (.swr g port a)
  | 3 => do
    need (f.d == 0 && f.a == 0 && f.creg == 0 && f.imm.extractLsb' 4 16 == 0) .illRsv
    need (!bit f.w) .illOpnd
    finish (.seos g port)
  | 4 => do
    need (f.a == 0 && f.creg == 0 && f.imm.extractLsb' 4 4 == 0 && f.imm.extractLsb' 11 9 == 0) .illRsv
    finish (.vsrd g (bit f.w) f.d port e)
  | 5 => do
    need (f.d == 0 && f.creg == 0 && f.imm.extractLsb' 4 16 == 0) .illRsv
    need (!bit f.w) .illOpnd
    let a ← opnd (vportSrcOf f.a)
    finish (.vswr g port a)
  | 6 => do
    need (f.d == 0 && f.creg == 0 && f.imm.extractLsb' 4 16 == 0) .illRsv
    need (!bit f.w) .illOpnd
    let a ← opnd (srcOf f.a)
    finish (.ssteer g port a)
  | _ => .error .illFunc

/-- The capsule instructions, major 0x0C (R224). -/
def FmtC.decCapsule (f : FmtC) : Decoded :=
  let g := guardOf f.k f.kn
  match f.func.toNat with
  | 0 => do
    need (f.a == 0 && f.creg == 0 && f.imm == 0) .illRsv
    finish (.caprecv g (bit f.w) f.d)
  | 1 => do
    need (f.a == 0 && f.creg == 0 && f.imm.extractLsb' 4 16 == 0) .illRsv
    finish (.caphdr g (bit f.w) f.d (f.imm.extractLsb' 0 4))
  | 2 => do
    need (f.a == 0 && f.creg == 0 && f.imm.extractLsb' 0 8 == 0 && f.imm.extractLsb' 11 9 == 0) .illRsv
    finish (.capnext g (bit f.w) f.d (f.imm.extractLsb' 8 3))
  | 3 => do
    need (f.d == 0 && f.creg == 0 && f.imm.extractLsb' 4 16 == 0) .illRsv
    need (!bit f.w) .illOpnd
    let a ← opnd (srcOf f.a)
    finish (.capins g a (f.imm.extractLsb' 0 4))
  | 4 => do
    need (f.d == 0 && f.a == 0 && f.creg == 0 && f.imm.extractLsb' 8 12 == 0) .illRsv
    need (!bit f.w) .illOpnd
    finish (.capdel g (f.imm.extractLsb' 0 4) (f.imm.extractLsb' 4 4))
  | 5 => do
    need (f.d == 0 && f.a == 0 && f.creg == 0 && f.imm == 0) .illRsv
    need (!bit f.w) .illOpnd
    finish (.capsend g)
  | 6 => do
    need (f.d == 0 && f.creg == 0 && f.imm == 0) .illRsv
    need (!bit f.w) .illOpnd
    let a ← opnd (srcOf f.a)
    finish (.capnew g a)
  | 7 => do
    need (f.d == 0 && f.a == 0 && f.creg == 0 && f.imm == 0) .illRsv
    need (!bit f.w) .illOpnd
    finish (.capend g)
  | 8 => do
    need (f.d == 0 && f.creg == 0 && f.imm == 0) .illRsv
    need (!bit f.w) .illOpnd
    let a ← opnd (srcOf f.a)
    finish (.capflt g a)
  | _ => .error .illFunc

/-- The engine number of a one-bit engine field. -/
def engOf (b : Bool) : Engine := if b then .ce else .me

/-- The one-bit field of an engine. -/
def engBit : Engine → BitVec 1
  | .me => 0 | .ce => 1

/-- The engine-status instructions, major 0x0D (R170, R330). -/
def FmtC.decStatus (f : FmtC) : Decoded :=
  let g := guardOf f.k f.kn
  match f.func.toNat with
  | 0 => do
    need (f.d == 0 && f.a == 0 && f.creg == 0 && f.imm.extractLsb' 1 19 == 0) .illRsv
    need (!bit f.w) .illOpnd
    finish (.ewait g (engOf (f.imm.getLsbD 0)))
  | 1 => do
    need (f.a == 0 && f.creg == 0 && f.imm.extractLsb' 2 18 == 0) .illRsv
    finish (.estat g (bit f.w) f.d (engOf (f.imm.getLsbD 0)) (f.imm.getLsbD 1))
  | _ => .error .illFunc

/-- The format-table instructions, major 0x0E (R336). -/
def FmtC.decFormat (f : FmtC) : Decoded :=
  let g := guardOf f.k f.kn
  match f.func.toNat with
  | 0 => do
    need (f.d == 0 && f.creg == 0 && f.imm.extractLsb' 5 15 == 0) .illRsv
    need (!bit f.w) .illOpnd
    let a ← opnd (srcOf f.a)
    finish (.ftset g a (f.imm.extractLsb' 0 5))
  | 1 => do
    need (f.a == 0 && f.creg == 0 && f.imm.extractLsb' 5 15 == 0) .illRsv
    finish (.ftget g (bit f.w) f.d (f.imm.extractLsb' 0 5))
  | 2 => do
    need (f.d == 0 && f.a == 0 && f.creg == 0 && f.imm.extractLsb' 5 3 == 0 &&
          f.imm.extractLsb' 9 6 == 0 && f.imm.extractLsb' 16 4 == 0) .illRsv
    need (!bit f.w) .illOpnd
    finish (.ftidx g (f.imm.getLsbD 15) (f.imm.getLsbD 8) (f.imm.extractLsb' 0 5))
  | _ => .error .illFunc

/-- The levels of CANCEL (R305). -/
def levelOf (n : BitVec 3) : Option Level :=
  match n.toNat with
  | 1 => some .launch | 2 => some .graph | 3 => some .phase | 4 => some .job | _ => none

/-- The code of a level (R35). -/
def levelField : Level → BitVec 3
  | .launch => 1 | .graph => 2 | .phase => 3 | .job => 4

/-- Every field but the guard is zero, W among them (R362, R328, R410, R253). -/
def FmtC.bare (f : FmtC) (i : Instr) : Decoded := do
  need (f.w == 0 && f.d == 0 && f.a == 0 && f.creg == 0 && f.imm == 0) .illRsv
  finish i

/-- An instruction with a result and one source and no other field (R236, R215). -/
def FmtC.resSrc (f : FmtC) (mk : Bool → GReg → Src → Instr) : Decoded := do
  need (f.creg == 0 && f.imm == 0) .illRsv
  let a ← opnd (srcOf f.a)
  finish (mk (bit f.w) f.d a)

/-- The system instructions, major 0x0F. -/
def FmtC.decSystem (f : FmtC) : Decoded :=
  let g := guardOf f.k f.kn
  match f.func.toNat with
  | 0 => f.bare (.nop g)
  | 1 => f.bare (.fin g)
  | 2 => f.bare (.yield g)
  | 3 => do
    need (f.creg == 0 && !f.imm.getLsbD 19) .illRsv
    let a ← opnd (srcOf f.a)
    finish (.wait g (bit f.w) f.d a (f.imm.extractLsb' 0 19))
  | 4 => do
    need (f.w == 0 && f.d == 0 && f.a == 0 && f.creg == 0 && f.imm.extractLsb' 8 12 == 0) .illRsv
    finish (.trap g (f.imm.extractLsb' 0 8))
  | 5 => do
    need (f.w == 0 && f.d == 0 && f.a == 0 && f.creg == 0 && f.imm.extractLsb' 1 19 == 0) .illRsv
    finish (.tret g (f.imm.getLsbD 0))
  | 6 => do
    need (f.a == 0 && f.imm == 0) .illRsv
    let c ← opnd (cregOf f.creg)
    finish (.mfc g (bit f.w) f.d c)
  | 7 => do
    need (f.d == 0 && f.imm == 0) .illRsv
    need (!bit f.w) .illOpnd
    let a ← opnd (srcOf f.a)
    let c ← opnd (cregOf f.creg)
    finish (.mtc g c a)
  | 8 => f.bare (.bkpt g)
  | 9 => f.resSrc (.submit g)
  | 10 => do
    need (f.creg == 0 && f.imm.extractLsb' 3 17 == 0) .illRsv
    let a ← opnd (srcOf f.a)
    let l ← opnd (levelOf (f.imm.extractLsb' 0 3))
    finish (.cancel g (bit f.w) f.d a l)
  | 11 => f.resSrc (.rmreq g)
  | 12 => f.resSrc (.rmstat g)
  | _ => .error .illFunc

/-! ## Format V decoders -/

/-- The used operand fields have their unused bits zero and the unused fields are zero (R76, R82). -/
def FmtV.rsvOk (f : FmtV) (useD useA useB useC : Bool) : Bool :=
  (if useD then vfieldRsvOk f.d else f.d == 0) && (if useA then vfieldRsvOk f.a else f.a == 0) &&
  (if useB then vfieldRsvOk f.b else f.b == 0) && (if useC then vfieldRsvOk f.c else f.c == 0)

/-- The head fields (R81). -/
def FmtV.head (f : FmtV) : Except DecodeFault VHead := do
  let d ← opnd (vdstOf f.d)
  return { k := f.k, w := bit f.w, t := tyOf f.t, d := d }

/-- One source, c unused. -/
def FmtV.una (f : FmtV) (mk : VHead → VSrc → Instr) : Decoded := do
  need (f.rsvOk true true false false) .illRsv
  let h ← f.head
  let a ← opnd (vsrcOf f.a)
  finish (mk h a)

/-- Two sources, c unused. -/
def FmtV.bin (f : FmtV) (mk : VHead → VSrc → VSrc → Instr) : Decoded := do
  need (f.rsvOk true true true false) .illRsv
  let h ← f.head
  let a ← opnd (vsrcOf f.a)
  let b ← opnd (vsrcOf f.b)
  finish (mk h a b)

/-- One source and an immediate of which only the low bits `cm` may be non-zero. -/
def FmtV.immA (f : FmtV) (cm : BitVec 11) (mk : VHead → VSrc → Decoded) : Decoded := do
  need (vfieldRsvOk f.d && vfieldRsvOk f.a && f.b == 0 && f.c &&& ~~~cm == 0) .illRsv
  let h ← f.head
  let a ← opnd (vsrcOf f.a)
  mk h a

/-- Two sources and an immediate of which only the low bits `cm` may be non-zero. -/
def FmtV.immAB (f : FmtV) (cm : BitVec 11) (mk : VHead → VSrc → VSrc → Decoded) : Decoded := do
  need (vfieldRsvOk f.d && vfieldRsvOk f.a && vfieldRsvOk f.b && f.c &&& ~~~cm == 0) .illRsv
  let h ← f.head
  let a ← opnd (vsrcOf f.a)
  let b ← opnd (vsrcOf f.b)
  mk h a b

/-- The arithmetic group, major 0x10 (R90, R392, R393). -/
def FmtV.decArith (f : FmtV) : Decoded :=
  let sat := f.func.getLsbD 6
  let noSat (x : Decoded) : Decoded := if sat then .error .illFunc else x
  let satBin (mk : VHead → Bool → VSrc → VSrc → Instr) : Decoded :=
    if sat && (tyOf f.t).isFloat then .error .illFunc else f.bin (fun h a b => mk h sat a b)
  match (f.func.extractLsb' 0 6).toNat with
  | 0 => satBin .vadd
  | 1 => satBin .vsub
  | 2 => satBin .vmul
  | 3 => noSat do
    need (f.rsvOk true true true true) .illRsv
    let h ← f.head
    let a ← opnd (vsrcOf f.a)
    let b ← opnd (vsrcOf f.b)
    let c ← opnd (vsrcOf f.c)
    finish (.vfma h a b c)
  | 4 => noSat (f.bin .vmin)
  | 5 => noSat (f.bin .vmax)
  | 6 => noSat (f.una .vabs)
  | 7 => noSat (f.una .vneg)
  | 8 => noSat do
    need (f.rsvOk true true true true) .illRsv
    need (f.t == 0) .illOpnd
    let h ← f.head
    let a ← opnd (vsrcOf f.a)
    let b ← opnd (vsrcOf f.b)
    let c ← opnd (vsrcOf f.c)
    finish (.vdot h.k h.w h.d a b c)
  | _ => .error .illFunc

/-- The bitwise group, major 0x11 (R396). -/
def FmtV.decLogic (f : FmtV) : Decoded :=
  match f.func.toNat with
  | 0 => f.bin .vand | 1 => f.bin .vor | 2 => f.bin .vxor | 3 => f.una .vnot
  | 4 => f.bin .vshl | 5 => f.bin .vshr | 6 => f.bin .vsar
  | _ => .error .illFunc

/-- The conditions of VCMP (R397). -/
def vcondOf (c : BitVec 3) : VCond :=
  match c.toNat with
  | 0 => .eq | 1 => .ne | 2 => .lt | 3 => .le | 4 => .gt | 5 => .ge | 6 => .tst | _ => .un

/-- The code of a VCMP condition (R397). -/
def vcondField : VCond → BitVec 3
  | .eq => 0 | .ne => 1 | .lt => 2 | .le => 3 | .gt => 4 | .ge => 5 | .tst => 6 | .un => 7

/-- VCMP and VSEL, major 0x12 (R397, R398). -/
def FmtV.decCompare (f : FmtV) : Decoded :=
  match f.func.toNat with
  | 0 => do
    need (vfieldRsvOk f.a && vfieldRsvOk f.b && f.c.extractLsb' 3 8 == 0) .illRsv
    need (!bit f.w && f.d.extractLsb' 3 8 == 0) .illOpnd
    let a ← opnd (vsrcOf f.a)
    let b ← opnd (vsrcOf f.b)
    finish (.vcmp f.k (tyOf f.t) (f.d.extractLsb' 0 3) (vcondOf (f.c.extractLsb' 0 3)) a b)
  | 1 => f.immAB 0xF fun h a b => finish (.vsel h a b (f.c.extractLsb' 0 3) (f.c.getLsbD 3))
  | _ => .error .illFunc

/-- The code types of VQNT and VDQNT (R405). -/
def codeTyOf (c : BitVec 2) : Option CodeTy :=
  match c.toNat with
  | 0 => some .s8 | 1 => some .u8 | 2 => some .u4 | _ => none

/-- The code of a code type (R405). -/
def codeTyField : CodeTy → BitVec 2
  | .s8 => 0 | .u8 => 1 | .u4 => 2

/-- The directions of VALIGN (R395). -/
def alignDirOf (c : BitVec 2) : Option AlignDir :=
  match c.toNat with
  | 0 => some .toi | 1 => some .tof | 3 => some .tof64 | _ => none

/-- The code of a direction of VALIGN (R395). -/
def alignDirField : AlignDir → BitVec 2
  | .toi => 0 | .tof => 1 | .tof64 => 3

/-- The conversions, major 0x13 (R401, R405, R394, R395). -/
def FmtV.decConvert (f : FmtV) : Decoded :=
  match f.func.toNat with
  | 0 => f.immA 0x1F fun h a => finish (.vcvt h (tyOf (f.c.extractLsb' 0 3)) (f.c.extractLsb' 3 2) a)
  | 1 => f.immAB 0x3FF fun h a b => do
    let ct ← opnd (codeTyOf (f.c.extractLsb' 8 2))
    finish (.vqnt h ct (f.c.extractLsb' 0 8) a b)
  | 2 => f.immAB 0x3FF fun h a b => do
    let ct ← opnd (codeTyOf (f.c.extractLsb' 8 2))
    finish (.vdqnt h ct (f.c.extractLsb' 0 8) a b)
  | 3 => do
    need (f.rsvOk true true false false) .illRsv
    need (f.t == 7) .illOpnd
    let h ← f.head
    let a ← opnd (vsrcOf f.a)
    finish (.vexpm h.k h.w h.d a)
  | 4 => f.immAB 3 fun h a b => do
    need (f.t == 7) .illOpnd
    let dir ← opnd (alignDirOf (f.c.extractLsb' 0 2))
    finish (.valign h.k h.w h.d dir a b)
  | _ => .error .illFunc

/-- The operations of VRED and VSCAN (R406). -/
def redOpOf (c : BitVec 3) : Option RedOp :=
  match c.toNat with
  | 0 => some .add | 1 => some .min | 2 => some .max | 3 => some .and | 4 => some .or
  | 5 => some .xor | _ => none

/-- The code of a reduction (R406). -/
def redOpField : RedOp → BitVec 3
  | .add => 0 | .min => 1 | .max => 2 | .and => 3 | .or => 4 | .xor => 5

/-- The reductions and permutations, major 0x14 (R406, R399). -/
def FmtV.decPermute (f : FmtV) : Decoded :=
  match f.func.toNat with
  | 0 => f.immA 7 fun h a => do
    let op ← opnd (redOpOf (f.c.extractLsb' 0 3))
    finish (.vred h op a)
  | 1 => f.immA 7 fun h a => do
    let op ← opnd (redOpOf (f.c.extractLsb' 0 3))
    finish (.vscan h op a)
  | 2 => f.bin .vperm
  | 3 => f.immA 0x3F fun h a => finish (.vbcast h a (f.c.extractLsb' 0 6))
  | 4 => f.immA 7 fun h a => finish (.vcomp h a (f.c.extractLsb' 0 3))
  | _ => .error .illFunc

/-- The special functions, major 0x15 (R402). -/
def FmtV.decSpecial (f : FmtV) : Decoded :=
  match f.func.toNat with
  | 0 => f.una .vexp2 | 1 => f.una .vlog2 | 2 => f.una .vrcp | 3 => f.una .vrsq | 4 => f.una .vtanh
  | _ => .error .illFunc

/-- A tile instruction with only its tile (R386). -/
def FmtV.tile (f : FmtV) (mk : MReg → Instr) : Decoded := do
  need (f.k == 0 && f.d == 0 && f.a == 0 && f.b == 0 && f.c.extractLsb' 3 8 == 0) .illRsv
  need (!bit f.w && f.t == 0) .illOpnd
  finish (mk (f.c.extractLsb' 0 3))

/-- The tile instructions, major 0x16 (R386). -/
def FmtV.decTile (f : FmtV) : Decoded :=
  match f.func.toNat with
  | 0 => do
    need (f.k == 0 && f.d == 0 && f.a == 0 && f.b == 0 && f.c.extractLsb' 9 2 == 0) .illRsv
    need (!bit f.w && (f.t == 4 || f.t == 7)) .illOpnd
    finish (.tcfg (f.c.extractLsb' 0 3) (f.t == 7) (f.c.extractLsb' 5 4) (f.c.extractLsb' 3 2))
  | 1 => f.tile .tzero
  | 2 => f.tile .trel
  | 3 => f.tile .ttrans
  | 4 => f.tile .tdirty
  | _ => .error .illFunc

/-- The moves, major 0x17 (R399, R400). -/
def FmtV.decMove (f : FmtV) : Decoded :=
  match f.func.toNat with
  | 0 => f.una .vmov
  | 1 => f.immA 0x3F fun h a => finish (.vins h a (f.c.extractLsb' 0 6))
  | 2 => do
    need (f.k == 0) .illRsv
    f.immA 0x3F fun h a => finish (.vext h.w h.t h.d a (f.c.extractLsb' 0 6))
  | 3 => do
    need (vfieldRsvOk f.d && f.a == 0 && f.b == 0) .illRsv
    let h ← f.head
    finish (.vli h f.c)
  | _ => .error .illFunc

/-! ## Engine words -/

/-- The codecs of R95; the value 3 raises ENG-ILL (R91). -/
def codecOf (c : BitVec 2) : Except DecodeFault Codec :=
  match c.toNat with
  | 0 => .ok .none | 1 => .ok .e | 2 => .ok .z | _ => .error .engIll

/-- The code of a codec (R95). -/
def codecField : Codec → BitVec 2
  | .none => 0 | .e => 1 | .z => 2

/-- The element sizes of CGATH (R95). -/
def gathSizeOf (c : BitVec 2) : GathSize :=
  match c.toNat with
  | 0 => .b4 | 1 => .b8 | 2 => .b16 | _ => .b64

/-- The code of an element size (R95). -/
def gathSizeField : GathSize → BitVec 2
  | .b4 => 0 | .b8 => 1 | .b16 => 2 | .b64 => 3

/-- A matrix engine launch word (R94). -/
def launchMe (op : BitVec 6) (fl : BitVec 8) : Decoded :=
  match op.toNat with
  | 1 => do
    need (fl &&& ~~~(0x05 : BitVec 8) == 0) .engIll
    return .mma (fl.getLsbD 0) (fl.getLsbD 2)
  | 2 => do
    need (fl.extractLsb' 2 2 == 0) .engIll
    if fl.getLsbD 1 then return .mdrain (fl.getLsbD 0) (some (fl.extractLsb' 4 4))
    else do
      need (fl.extractLsb' 4 4 == 0) .engIll
      return .mdrain (fl.getLsbD 0) none
  | 3 => do
    need (fl == 0) .engIll
    return .mroute
  | 4 => do
    need (fl == 0) .engIll
    return .maccld
  | _ => .error .engIll

/-- A copy engine launch word (R95). -/
def launchCe (op : BitVec 6) (fl : BitVec 8) : Decoded :=
  match op.toNat with
  | 1 => do
    need (fl.extractLsb' 6 2 == 0) .engIll
    let c ← codecOf (fl.extractLsb' 1 2)
    return .cpy (fl.getLsbD 0) c (fl.extractLsb' 3 3)
  | 2 => do
    need (!fl.getLsbD 0 && fl.extractLsb' 6 2 == 0) .engIll
    let c ← codecOf (fl.extractLsb' 1 2)
    return .cpys c (fl.extractLsb' 3 3)
  | 3 => do
    need (fl == 0) .engIll
    return .cpyh
  | 4 => do
    need (!fl.getLsbD 7) .engIll
    let c ← codecOf (fl.extractLsb' 1 2)
    return .cpyp (fl.getLsbD 0) c (fl.getLsbD 3) (fl.extractLsb' 4 3)
  | 5 => do
    need (fl.extractLsb' 0 4 == 0 && fl.extractLsb' 6 2 == 0) .engIll
    return .cgath (gathSizeOf (fl.extractLsb' 4 2))
  | 6 => do
    need (fl.extractLsb' 0 3 == 0 && fl.extractLsb' 6 2 == 0) .engIll
    return .cstrm (fl.extractLsb' 3 3)
  | 7 => do
    need (fl == 0) .engIll
    return .csink
  | 8 => do
    need (fl == 0) .engIll
    return .cfill
  | _ => .error .engIll

/-- An engine word (R91). -/
def decodeEng (e : Engine) (x : BitVec 16) : Decoded :=
  if !x.getLsbD 15 then .ok (.lit e (x.extractLsb' 0 15))
  else match (x.extractLsb' 12 4).toNat with
    | 8 => .ok (.lith e (x.extractLsb' 0 12))
    | 9 =>
      match (x.extractLsb' 5 7).toNat with
      | 0 =>
        match (x.extractLsb' 0 5).toNat with
        | 0 => .ok (.dup e) | 1 => .ok (.drop e) | 2 => .ok (.swap e)
        | 3 => .ok (.over e) | 4 => .ok (.clrs e) | _ => .error .engIll
      | 8 => .ok (.pushg e (x.extractLsb' 0 5))
      | _ => .error .engIll
    | 10 | 11 => .error .engIll
    | _ =>
      match e with
      | .me => launchMe (x.extractLsb' 8 6) (x.extractLsb' 0 8)
      | .ce => launchCe (x.extractLsb' 8 6) (x.extractLsb' 0 8)

/-- The carried word at a position. -/
def FmtE.word (f : FmtE) (pos : Nat) : BitVec 16 :=
  match pos with
  | 0 => f.word0
  | 1 => f.word1
  | _ => f.word2

/-- The words beyond the carrier's count are zero (R85). -/
def FmtE.beyondZero (f : FmtE) : Bool :=
  match f.n.toNat with
  | 0 => f.word0 == 0 && f.word1 == 0 && f.word2 == 0
  | 1 => f.word1 == 0 && f.word2 == 0
  | 2 => f.word2 == 0
  | _ => true

/-- The engine word at a position of a carrier (R85, R86). -/
def FmtE.dec (f : FmtE) (pos : Nat) : Decoded := do
  need (f.rsv == 0 && f.beyondZero) .illRsv
  need (f.engine.toNat < 2 && f.n.toNat != 0) .illOpnd
  decodeEng (engOf (f.engine.getLsbD 0)) (f.word pos)

/-! ## The decoder -/

/-- The major opcode (R74). -/
def majorOf (w : Word) : Nat := (w.extractLsb' 58 6).toNat

/-- The word is an engine carrier (R85). -/
def isCarrier (w : Word) : Bool := majorOf w == 0x38

/-- The number of words a carrier carries. -/
def carrierCount (w : Word) : Nat := (FmtE.ofWord w).n.toNat

/-- The instruction of a word (R87); `pos` is the position within a carrier and is zero for every
other word. -/
def decode (w : Word) (pos : Nat) : Decoded :=
  match majorOf w with
  | 0x01 => (FmtA.ofWord w).decAlu
  | 0x02 => (FmtA.ofWord w).decCmp
  | 0x03 => (FmtA.ofWord w).decPred
  | 0x04 => (FmtB.ofWord w).decBranch
  | 0x05 => (FmtB.ofWord w).decLoop
  | 0x06 => (FmtM.ofWord w).decScratch
  | 0x07 => (FmtM.ofWord w).decGlobal
  | 0x08 => (FmtM.ofWord w).decAtomic
  | 0x09 => (FmtM.ofWord w).decHandle
  | 0x0A => (FmtC.ofWord w).decFence
  | 0x0B => (FmtC.ofWord w).decStream
  | 0x0C => (FmtC.ofWord w).decCapsule
  | 0x0D => (FmtC.ofWord w).decStatus
  | 0x0E => (FmtC.ofWord w).decFormat
  | 0x0F => (FmtC.ofWord w).decSystem
  | 0x10 => (FmtV.ofWord w).decArith
  | 0x11 => (FmtV.ofWord w).decLogic
  | 0x12 => (FmtV.ofWord w).decCompare
  | 0x13 => (FmtV.ofWord w).decConvert
  | 0x14 => (FmtV.ofWord w).decPermute
  | 0x15 => (FmtV.ofWord w).decSpecial
  | 0x16 => (FmtV.ofWord w).decTile
  | 0x17 => (FmtV.ofWord w).decMove
  | 0x38 => (FmtE.ofWord w).dec pos
  | _ => .error .illMajor

/-! ## The encoder -/

/-- A scalar ALU word with two sources (R294). -/
def encAlu (op : BitVec 5) (x : AluArgs) : FmtA :=
  { major := 0x01, func := unbit x.w32 ++ op, k := x.guard.k, kn := unbit x.guard.kn, w := unbit x.w,
    d := x.d, a := srcField x.a,
    b := match x.b with | .reg s => srcField s | .imm _ => 0,
    i := match x.b with | .reg _ => 0 | .imm _ => 1,
    imm := match x.b with | .reg _ => 0 | .imm v => v }

/-- A scalar ALU word with one source (R294). -/
def encUna (op : BitVec 5) (x : UnArgs) : FmtA :=
  { major := 0x01, func := unbit x.w32 ++ op, k := x.guard.k, kn := unbit x.guard.kn, w := unbit x.w,
    d := x.d, a := srcField x.a, b := 0, i := 0, imm := 0 }

/-- EXT, EXTU and INS (R331). -/
def encField (op : BitVec 5) (x : FieldArgs) : FmtA :=
  { major := 0x01, func := unbit x.w32 ++ op, k := x.guard.k, kn := unbit x.guard.kn, w := unbit x.w,
    d := x.d, a := srcField x.a, b := 0, i := 1, imm := (0 : BitVec 17) ++ x.wm1 ++ x.pos }

/-- A predicate word (R365). -/
def encPred (func : BitVec 6) (g : Guard) (w : Bool) (d : BitVec 5) (a b : BitVec 6) : FmtA :=
  { major := 0x03, func := func, k := g.k, kn := unbit g.kn, w := unbit w, d := d, a := a, b := b,
    i := 0, imm := 0 }

/-- A predicate register as a source field. -/
def kField (k : KReg) : BitVec 6 := (0 : BitVec 3) ++ k

/-- A predicate register as a destination field. -/
def kDst (k : KReg) : BitVec 5 := (0 : BitVec 2) ++ k

/-- A Format B word (R79). -/
def encB (major func : BitVec 6) (g : Guard) (z : Bool) (a b : GReg) (disp : BitVec 36) : FmtB :=
  { major := major, func := func, k := g.k, kn := unbit g.kn, z := (0 : BitVec 1) ++ unbit z, a := a,
    b := b, disp := disp }

/-- A Format M word (R78). -/
def encM (major func : BitVec 6) (g : Guard) (w : Bool) (d : BitVec 5) (a : Src) (b : Option Src)
    (q : BitVec 3) (imm : BitVec 24) : FmtM :=
  { major := major, func := func, k := g.k, kn := unbit g.kn, w := unbit w, d := d, a := srcField a,
    b := idxField b, q := q, rsv := 0, imm := imm }

/-- The q field of a global access (R343). -/
def gloQ (c nt : Bool) : BitVec 3 := (0 : BitVec 1) ++ unbit nt ++ unbit c

/-- A Format C word (R80). -/
def encC (major func : BitVec 6) (g : Guard) (w : Bool) (d : BitVec 5) (a : BitVec 6)
    (creg : BitVec 16) (imm : BitVec 20) : FmtC :=
  { major := major, func := func, k := g.k, kn := unbit g.kn, w := unbit w, d := d, a := a,
    creg := creg, imm := imm }

/-- A Format V word (R81). -/
def encV (major : BitVec 6) (func : BitVec 7) (h : VHead) (a b c : BitVec 11) : FmtV :=
  { major := major, func := func, k := h.k, w := unbit h.w, t := tyField h.t, d := vdstField h.d,
    a := a, b := b, c := c }

/-- A tile word (R386). -/
def encTile (func : BitVec 7) (t : BitVec 3) (c : BitVec 11) : FmtV :=
  { major := 0x16, func := func, k := 0, w := 0, t := t, d := 0, a := 0, b := 0, c := c }

/-- The carrier of one engine word (R85). -/
def encE (e : Engine) (x : BitVec 16) : FmtE :=
  { major := 0x38, engine := (0 : BitVec 1) ++ engBit e, n := 1, rsv := 0, word0 := x, word1 := 0,
    word2 := 0 }

/-- A launch word (R91). -/
def launchWord (op : BitVec 6) (fl : BitVec 8) : BitVec 16 := (3 : BitVec 2) ++ op ++ fl

/-- The 16 bits of an engine word (R91, R94, R95). -/
def encodeEng : Instr → Option (Engine × BitVec 16)
  | .lit e imm => some (e, (0 : BitVec 1) ++ imm)
  | .lith e imm => some (e, (8 : BitVec 4) ++ imm)
  | .dup e => some (e, 0x9000)
  | .drop e => some (e, 0x9001)
  | .swap e => some (e, 0x9002)
  | .over e => some (e, 0x9003)
  | .clrs e => some (e, 0x9004)
  | .pushg e g => some (e, (0b10010001000 : BitVec 11) ++ g)
  | .mma z f => some (.me, launchWord 1 ((0 : BitVec 5) ++ unbit f ++ (0 : BitVec 1) ++ unbit z))
  | .mdrain z s =>
    match s with
    | none => some (.me, launchWord 2 ((0 : BitVec 7) ++ unbit z))
    | some p => some (.me, launchWord 2 (p ++ (0 : BitVec 2) ++ (1 : BitVec 1) ++ unbit z))
  | .mroute => some (.me, launchWord 3 0)
  | .maccld => some (.me, launchWord 4 0)
  | .cpy ch codec win => some (.ce, launchWord 1 ((0 : BitVec 2) ++ win ++ codecField codec ++ unbit ch))
  | .cpys codec win => some (.ce, launchWord 2 ((0 : BitVec 2) ++ win ++ codecField codec ++ (0 : BitVec 1)))
  | .cpyh => some (.ce, launchWord 3 0)
  | .cpyp ch codec sl win =>
    some (.ce, launchWord 4 ((0 : BitVec 1) ++ win ++ unbit sl ++ codecField codec ++ unbit ch))
  | .cgath size => some (.ce, launchWord 5 ((0 : BitVec 2) ++ gathSizeField size ++ (0 : BitVec 4)))
  | .cstrm win => some (.ce, launchWord 6 ((0 : BitVec 2) ++ win ++ (0 : BitVec 3)))
  | .csink => some (.ce, launchWord 7 0)
  | .cfill => some (.ce, launchWord 8 0)
  | _ => none

/-- The word of an instruction; an engine word stands first in a carrier of one word; an event has
no word. -/
def encode : Instr → Option Word
  | .add x => some (encAlu 0 x).toWord
  | .sub x => some (encAlu 1 x).toWord
  | .and x => some (encAlu 2 x).toWord
  | .or x => some (encAlu 3 x).toWord
  | .xor x => some (encAlu 4 x).toWord
  | .andn x => some (encAlu 5 x).toWord
  | .shl x => some (encAlu 6 x).toWord
  | .shr x => some (encAlu 7 x).toWord
  | .sar x => some (encAlu 8 x).toWord
  | .min x => some (encAlu 9 x).toWord
  | .max x => some (encAlu 10 x).toWord
  | .minu x => some (encAlu 11 x).toWord
  | .maxu x => some (encAlu 12 x).toWord
  | .mul x => some (encAlu 13 x).toWord
  | .mulh x => some (encAlu 14 x).toWord
  | .mulhu x => some (encAlu 15 x).toWord
  | .div x => some (encAlu 16 x).toWord
  | .divu x => some (encAlu 17 x).toWord
  | .rem x => some (encAlu 18 x).toWord
  | .remu x => some (encAlu 19 x).toWord
  | .sel x => some (encAlu 26 x).toWord
  | .clz x => some (encUna 20 x).toWord
  | .ctz x => some (encUna 21 x).toWord
  | .popc x => some (encUna 22 x).toWord
  | .ext x => some (encField 23 x).toWord
  | .extu x => some (encField 24 x).toWord
  | .ins x => some (encField 25 x).toWord
  | .mov x =>
    some ({ encAlu 27 { guard := x.guard, w32 := x.w32, w := x.w, d := x.d, a := .g 0, b := x.b } with
            a := 0 } : FmtA).toWord
  | .movhi x =>
    some (encAlu 28 { guard := x.guard, w32 := false, w := x.w, d := x.d, a := x.a, b := .imm x.imm }).toWord
  | .cmp x =>
    some ({ encAlu 0 { guard := x.guard, w32 := x.w32, w := false, d := kDst x.d, a := x.a, b := x.b } with
            major := 0x02, func := unbit x.w32 ++ (0 : BitVec 2) ++ condField x.cond } : FmtA).toWord
  | .pand x => some (encPred 0 x.guard false (kDst x.d) (kField x.a) (kField x.b)).toWord
  | .por x => some (encPred 1 x.guard false (kDst x.d) (kField x.a) (kField x.b)).toWord
  | .pxor x => some (encPred 2 x.guard false (kDst x.d) (kField x.a) (kField x.b)).toWord
  | .pnot g d a => some (encPred 3 g false (kDst d) (kField a) 0).toWord
  | .pmovGToK g d a => some (encPred 4 g false (kDst d) (srcField a) 0).toWord
  | .pmovKToG g w d a => some (encPred 5 g w d (kField a) 0).toWord
  | .br g disp => some (encB 0x04 0 g false 0 0 disp).toWord
  | .brx g a => some (encB 0x04 1 g false a 0 0).toWord
  | .call g disp => some (encB 0x04 2 g false 0 0 disp).toWord
  | .callx g a => some (encB 0x04 3 g false a 0 0).toWord
  | .ret g a => some (encB 0x04 4 g false a 0 0).toWord
  | .lpsetReg g z a disp => some (encB 0x05 0 g z a 0 disp).toWord
  | .lpsetImm g z c disp => some (encB 0x05 1 g z 0 c disp).toWord
  | .lpclr g z => some (encB 0x05 2 g z 0 0 0).toWord
  | .lpget x => some (encB 0x05 3 x.guard x.z x.a 0 ((0 : BitVec 34) ++ lpSelField x.sel)).toWord
  | .lprst x => some (encB 0x05 4 x.guard x.z x.a 0 ((0 : BitVec 34) ++ lpSelField x.sel)).toWord
  | .ld g size q w d x =>
    some (encM 0x06 ((0 : BitVec 3) ++ ldSizeField size) g w d x.a x.b (ldWaitField q) x.imm).toWord
  | .st g size q d x =>
    some (encM 0x06 ((1 : BitVec 3) ++ stSizeField size) g false d x.a x.b (stWaitField q) x.imm).toWord
  | .vld g q w d x => some (encM 0x06 0x10 g w d x.a x.b (ldWaitField q) x.imm).toWord
  | .vst g ns d x => some (encM 0x06 0x18 g false d x.a x.b (nsField ns) x.imm).toWord
  | .tld g m x => some (encM 0x06 0x20 g false (kDst m) x.a x.b 0 x.imm).toWord
  | .tst g ns m x => some (encM 0x06 0x28 g false (kDst m) x.a x.b (nsField ns) x.imm).toWord
  | .ldg g size c nt w d x =>
    some (encM 0x07 ((0 : BitVec 3) ++ ldSizeField size) g w d x.a x.b (gloQ c nt) x.imm).toWord
  | .stg g size c nt d x =>
    some (encM 0x07 ((1 : BitVec 3) ++ stSizeField size) g false d x.a x.b (gloQ c nt) x.imm).toWord
  | .vldg g c nt w d x => some (encM 0x07 0x10 g w d x.a x.b (gloQ c nt) x.imm).toWord
  | .vstg g c nt d x => some (encM 0x07 0x18 g false d x.a x.b (gloQ c nt) x.imm).toWord
  | .pref g nt x => some (encM 0x07 0x20 g false 0 x.a x.b (gloQ false nt) x.imm).toWord
  | .amo g op w32 c nt w d a b imm =>
    some (encM 0x08 ((0 : BitVec 1) ++ unbit w32 ++ amoField op) g w d a b (gloQ c nt) imm).toWord
  | .amoh g op w32 w d x =>
    some (encM 0x08 ((1 : BitVec 1) ++ unbit w32 ++ amoField op) g w d x.a x.b 0 x.imm).toWord
  | .halloc g w d a level rl =>
    some (encM 0x09 0 g w d a none 0 ((0 : BitVec 22) ++ unbit rl ++ unbit level)).toWord
  | .hfree g a => some (encM 0x09 1 g false 0 a none 0 0).toWord
  | .hinfo g w d a => some (encM 0x09 2 g w d a none 0 0).toWord
  | .feset g d x => some (encM 0x09 3 g false d x.a x.b 0 x.imm).toWord
  | .feclr g d x => some (encM 0x09 4 g false d x.a x.b 0 x.imm).toWord
  | .fetst g w d x => some (encM 0x09 5 g w d x.a x.b 0 x.imm).toWord
  | .fence g scope kind =>
    some (encC 0x0A 0 g false 0 0 0 ((0 : BitVec 15) ++ fenceKindField kind ++ scopeField scope)).toWord
  | .qfence g mask => some (encC 0x0A 1 g false 0 0 0 ((0 : BitVec 16) ++ mask)).toWord
  | .ifence g => some (encC 0x0A 2 g false 0 0 0 0).toWord
  | .srd g w d p e =>
    some (encC 0x0B 0 g w d 0 0 ((0 : BitVec 9) ++ e ++ (0 : BitVec 4) ++ p)).toWord
  | .speek g w d p e kind nb =>
    some (encC 0x0B 1 g w d 0 0 ((0 : BitVec 7) ++ unbit nb ++ unbit kind ++ e ++ (0 : BitVec 4) ++ p)).toWord
  | .swr g p a => some (encC 0x0B 2 g false 0 (srcField a) 0 ((0 : BitVec 16) ++ p)).toWord
  | .seos g p => some (encC 0x0B 3 g false 0 0 0 ((0 : BitVec 16) ++ p)).toWord
  | .vsrd g w d p e =>
    some (encC 0x0B 4 g w d 0 0 ((0 : BitVec 9) ++ e ++ (0 : BitVec 4) ++ p)).toWord
  | .vswr g p a => some (encC 0x0B 5 g false 0 (vportSrcField a) 0 ((0 : BitVec 16) ++ p)).toWord
  | .ssteer g p a => some (encC 0x0B 6 g false 0 (srcField a) 0 ((0 : BitVec 16) ++ p)).toWord
  | .caprecv g w d => some (encC 0x0C 0 g w d 0 0 0).toWord
  | .caphdr g w d x => some (encC 0x0C 1 g w d 0 0 ((0 : BitVec 16) ++ x)).toWord
  | .capnext g w d k => some (encC 0x0C 2 g w d 0 0 ((0 : BitVec 9) ++ k ++ (0 : BitVec 8))).toWord
  | .capins g a i => some (encC 0x0C 3 g false 0 (srcField a) 0 ((0 : BitVec 16) ++ i)).toWord
  | .capdel g i n => some (encC 0x0C 4 g false 0 0 0 ((0 : BitVec 12) ++ n ++ i)).toWord
  | .capsend g => some (encC 0x0C 5 g false 0 0 0 0).toWord
  | .capnew g a => some (encC 0x0C 6 g false 0 (srcField a) 0 0).toWord
  | .capend g => some (encC 0x0C 7 g false 0 0 0 0).toWord
  | .capflt g a => some (encC 0x0C 8 g false 0 (srcField a) 0 0).toWord
  | .ewait g e => some (encC 0x0D 0 g false 0 0 0 ((0 : BitVec 19) ++ engBit e)).toWord
  | .estat g w d e clr =>
    some (encC 0x0D 1 g w d 0 0 ((0 : BitVec 18) ++ unbit clr ++ engBit e)).toWord
  | .ftset g a n => some (encC 0x0E 0 g false 0 (srcField a) 0 ((0 : BitVec 15) ++ n)).toWord
  | .ftget g w d n => some (encC 0x0E 1 g w d 0 0 ((0 : BitVec 15) ++ n)).toWord
  | .ftidx g v z base =>
    some (encC 0x0E 2 g false 0 0 0
      ((0 : BitVec 4) ++ unbit v ++ (0 : BitVec 6) ++ unbit z ++ (0 : BitVec 3) ++ base)).toWord
  | .nop g => some (encC 0x0F 0 g false 0 0 0 0).toWord
  | .fin g => some (encC 0x0F 1 g false 0 0 0 0).toWord
  | .yield g => some (encC 0x0F 2 g false 0 0 0 0).toWord
  | .wait g w d a mask => some (encC 0x0F 3 g w d (srcField a) 0 ((0 : BitVec 1) ++ mask)).toWord
  | .trap g n => some (encC 0x0F 4 g false 0 0 0 ((0 : BitVec 12) ++ n)).toWord
  | .tret g replay => some (encC 0x0F 5 g false 0 0 0 ((0 : BitVec 19) ++ unbit replay)).toWord
  | .mfc g w d c => some (encC 0x0F 6 g w d 0 (cregField c) 0).toWord
  | .mtc g c a => some (encC 0x0F 7 g false 0 (srcField a) (cregField c) 0).toWord
  | .bkpt g => some (encC 0x0F 8 g false 0 0 0 0).toWord
  | .submit g w d a => some (encC 0x0F 9 g w d (srcField a) 0 0).toWord
  | .cancel g w d a l => some (encC 0x0F 10 g w d (srcField a) 0 ((0 : BitVec 17) ++ levelField l)).toWord
  | .rmreq g w d a => some (encC 0x0F 11 g w d (srcField a) 0 0).toWord
  | .rmstat g w d a => some (encC 0x0F 12 g w d (srcField a) 0 0).toWord
  | .vadd h sat a b => some (encV 0x10 (unbit sat ++ (0 : BitVec 6)) h (vsrcField a) (vsrcField b) 0).toWord
  | .vsub h sat a b => some (encV 0x10 (unbit sat ++ (1 : BitVec 6)) h (vsrcField a) (vsrcField b) 0).toWord
  | .vmul h sat a b => some (encV 0x10 (unbit sat ++ (2 : BitVec 6)) h (vsrcField a) (vsrcField b) 0).toWord
  | .vfma h a b c => some (encV 0x10 3 h (vsrcField a) (vsrcField b) (vsrcField c)).toWord
  | .vmin h a b => some (encV 0x10 4 h (vsrcField a) (vsrcField b) 0).toWord
  | .vmax h a b => some (encV 0x10 5 h (vsrcField a) (vsrcField b) 0).toWord
  | .vabs h a => some (encV 0x10 6 h (vsrcField a) 0 0).toWord
  | .vneg h a => some (encV 0x10 7 h (vsrcField a) 0 0).toWord
  | .vdot k w d a b c =>
    some (encV 0x10 8 { k := k, w := w, t := .s8, d := d } (vsrcField a) (vsrcField b) (vsrcField c)).toWord
  | .vand h a b => some (encV 0x11 0 h (vsrcField a) (vsrcField b) 0).toWord
  | .vor h a b => some (encV 0x11 1 h (vsrcField a) (vsrcField b) 0).toWord
  | .vxor h a b => some (encV 0x11 2 h (vsrcField a) (vsrcField b) 0).toWord
  | .vnot h a => some (encV 0x11 3 h (vsrcField a) 0 0).toWord
  | .vshl h a b => some (encV 0x11 4 h (vsrcField a) (vsrcField b) 0).toWord
  | .vshr h a b => some (encV 0x11 5 h (vsrcField a) (vsrcField b) 0).toWord
  | .vsar h a b => some (encV 0x11 6 h (vsrcField a) (vsrcField b) 0).toWord
  | .vcmp k t d c a b =>
    some ({ encV 0x12 0 { k := k, w := false, t := t, d := .v 0 } (vsrcField a) (vsrcField b)
              ((0 : BitVec 8) ++ vcondField c) with d := (0 : BitVec 8) ++ d } : FmtV).toWord
  | .vsel h a b s neg =>
    some (encV 0x12 1 h (vsrcField a) (vsrcField b) ((0 : BitVec 7) ++ unbit neg ++ s)).toWord
  | .vcvt h src part a =>
    some (encV 0x13 0 h (vsrcField a) 0 ((0 : BitVec 6) ++ part ++ tyField src)).toWord
  | .vqnt h ct zp a b =>
    some (encV 0x13 1 h (vsrcField a) (vsrcField b) ((0 : BitVec 1) ++ codeTyField ct ++ zp)).toWord
  | .vdqnt h ct zp a b =>
    some (encV 0x13 2 h (vsrcField a) (vsrcField b) ((0 : BitVec 1) ++ codeTyField ct ++ zp)).toWord
  | .vexpm k w d a => some (encV 0x13 3 { k := k, w := w, t := .f32, d := d } (vsrcField a) 0 0).toWord
  | .valign k w d dir a b =>
    some (encV 0x13 4 { k := k, w := w, t := .f32, d := d } (vsrcField a) (vsrcField b)
      ((0 : BitVec 9) ++ alignDirField dir)).toWord
  | .vred h op a => some (encV 0x14 0 h (vsrcField a) 0 ((0 : BitVec 8) ++ redOpField op)).toWord
  | .vscan h op a => some (encV 0x14 1 h (vsrcField a) 0 ((0 : BitVec 8) ++ redOpField op)).toWord
  | .vperm h a b => some (encV 0x14 2 h (vsrcField a) (vsrcField b) 0).toWord
  | .vbcast h a j => some (encV 0x14 3 h (vsrcField a) 0 ((0 : BitVec 5) ++ j)).toWord
  | .vcomp h a s => some (encV 0x14 4 h (vsrcField a) 0 ((0 : BitVec 8) ++ s)).toWord
  | .vexp2 h a => some (encV 0x15 0 h (vsrcField a) 0 0).toWord
  | .vlog2 h a => some (encV 0x15 1 h (vsrcField a) 0 0).toWord
  | .vrcp h a => some (encV 0x15 2 h (vsrcField a) 0 0).toWord
  | .vrsq h a => some (encV 0x15 3 h (vsrcField a) 0 0).toWord
  | .vtanh h a => some (encV 0x15 4 h (vsrcField a) 0 0).toWord
  | .tcfg m f32 rows cols =>
    some (encTile 0 (if f32 then 7 else 4) ((0 : BitVec 2) ++ rows ++ cols ++ m)).toWord
  | .tzero m => some (encTile 1 0 ((0 : BitVec 8) ++ m)).toWord
  | .trel m => some (encTile 2 0 ((0 : BitVec 8) ++ m)).toWord
  | .ttrans m => some (encTile 3 0 ((0 : BitVec 8) ++ m)).toWord
  | .tdirty m => some (encTile 4 0 ((0 : BitVec 8) ++ m)).toWord
  | .vmov h a => some (encV 0x17 0 h (vsrcField a) 0 0).toWord
  | .vins h a j => some (encV 0x17 1 h (vsrcField a) 0 ((0 : BitVec 5) ++ j)).toWord
  | .vext w t d a j =>
    some (encV 0x17 2 { k := 0, w := w, t := t, d := d } (vsrcField a) 0 ((0 : BitVec 5) ++ j)).toWord
  | .vli h imm => some (encV 0x17 3 h 0 0 imm).toWord
  | i => (encodeEng i).map fun p => (encE p.1 p.2).toWord

/-- A step of the table that no instruction word encodes: an event of the package. -/
def Instr.isEvent (i : Instr) : Bool := (encode i).isNone

/-- The instruction the decoder reads from an opcode-table word: the bits of `w` above `nbits` are
zero, and the instruction is one 64-bit word (R74). -/
def decodeTableWord (nbits w : Nat) : Option Instr :=
  (decode (BitVec.ofNat 64 (w % 2 ^ nbits)) 0).toOption

end Sys2Proof
end

