-- ==== Sys2Proof/Machine/Fetch.lean ====
section
/-! DEFINITION. Fetching an instruction: the word at the program counter, positions inside a carrier
(R86), the instruction cache and the fetch window (R149), fetches that miss (R21), and what a context
does when it issues. -/

namespace Sys2Proof.Machine

/-- The address of the word that holds the instruction at an address (R86). -/
def wordAddr (pc : Word) : Word := pc &&& ~~~(7 : Word)

/-- The position within a carrier that an address names (R86). -/
def wordPos (pc : Word) : Nat := (pc.extractLsb' 0 3).toNat / 2

/-- An address may be executed: a multiple of 8, or a boundary inside a carrier that has a word there
(R86). -/
def addrOk (w pc : Word) : Bool :=
  pc.extractLsb' 0 3 == 0 || (isCarrier w && !pc.getLsbD 0 && decide (wordPos pc < carrierCount w))

/-- The address of the word after the one at an address (R74, R86). -/
def nextWord (w pc : Word) : Word :=
  if isCarrier w && decide (wordPos pc + 1 < carrierCount w) then wordAddr pc + BitVec.ofNat 64 (2 * (wordPos pc + 1))
  else wordAddr pc + 8

/-- The fault code of a decode fault (R76, R91). -/
def codeOf : DecodeFault → FCode
  | .illMajor => .illMajor | .illFunc => .illFunc | .illRsv => .illRsv | .illOpnd => .illOpnd
  | .engIll => .engIll

/-- The word a context reads from its core's instruction cache. -/
def State.cached (s : State) (c : CtxId) (a : Word) : Option Word := Map.find (s.core c.coreId).icache a.toNat

/-- The words of a core's instruction cache: 32 KiB (R14). -/
def icacheWords : Nat := 4096

/-- A word enters a core's instruction cache; a full one gives up a word that the spec does not name (log entry 127). -/
def CoreSt.cacheWord (x : CoreSt) (a : Nat) (w : Word) (n : Nat) : CoreSt :=
  let room := x.icache.length < icacheWords || (Map.find x.icache a).isSome
  { x with icache := Map.put (if room then x.icache else x.icache.eraseIdx (Config.icacheVictim n % icacheWords)) a w }

/-- Bring the word at an address into the instruction cache (R149). -/
def State.fillWord (s : State) (c : CtxId) (a : Word) (x : Xlat) : State :=
  let w := BitVec.ofNat 64 (leNat (s.memBytes c.die x.atHome x.key x.cell 8))
  let s := if x.atHome || pteDup x.entry.pte then s else s.tookLines c.die [x.cell]
  s.onCore c.coreId fun y => y.cacheWord a.toNat w (s.die c.die).cyc

/-- A fault of a fetch that the management core may resolve: the context waits for it (R146). -/
def State.fetchFault (s : State) (c : CtxId) (a : Word) (x : XFault) : State :=
  let s := s.onWait c fun w => { w with fetch := none }
  if x.offered then
    let p : PageFault :=
      { who := .ctx c, code := x.code, va := a, addr := x.addr, kind := none, pc := s.pc c, deps := [], dup := false,
        replay := false }
    let id := s.fresh
    let s := (s.onMem fun m => { m with faults := Map.put m.faults id p }).bump
    let s := s.tellFault c id
    (s.onWait c fun w => { w with park := some (.pageFault id) }).giveUp c
  else s.raisePrecise c x.code x.addr

/-- The word of an outstanding fetch returns: it enters the instruction cache, or the fetch faults. -/
def State.fetchReturn (s : State) (c : CtxId) : State :=
  match (s.ctx c).wait.fetch with
  | none => s
  | some a =>
    match s.xlate (s.tlbOf c.coreId false) (s.worldOf c.coreId) none xFetch a with
    | .error x => s.fetchFault c a x
    | .ok x =>
      if !s.mem.serves x.cell then s
      else
        let s := s.fillTlb c.coreId false [(0, x)] 0x10
        let r := eccRead s.mem.ecc [sectorOf x.cell]
        let s := s.onMem fun m => { m with ecc := eccAfterRead m.ecc [sectorOf x.cell] }
        let s := s.onWait c fun w => { w with fetch := none }
        match r.fault with
        | some code =>
          (if r.corrected = 0 then s else s.countEvents c a false (evCorrected r.corrected) .none).raisePrecise c code a
        | none =>
          let s := if r.corrected = 0 then s else s.countEvents c a false (evCorrected r.corrected) .none
          s.fillWord c a x

/-- A word of the fetch window is fetched ahead of the program counter (R149); a fetch ahead that would
fault does nothing. -/
def State.fetchAhead (s : State) (c : CtxId) (k : Nat) : State :=
  let a := wordAddr (s.pc c) + BitVec.ofNat 64 (8 * k)
  if 8 < k || (s.cached c a).isSome || !s.running c then s
  else
    match s.xlate (s.tlbOf c.coreId false) (s.worldOf c.coreId) none xFetch a with
    | .error _ => s
    | .ok x =>
      if s.mem.serves x.cell && (eccRead s.mem.ecc [sectorOf x.cell]).fault.isNone then
        (s.fillTlb c.coreId false [(0, x)] 0x10).fillWord c a x
      else s

/-- A trap waits, and the instruction at the program counter ends a loop that goes back: a loop-back is a switch point
(R56, R65), so the trap is taken before it (R250; DEDUCED, log entry 119). -/
def State.loopForced (s : State) (c : CtxId) : Bool :=
  !(s.ctx c).wait.traps.isEmpty && !(s.ctx c).ctl.s && ((s.ctx c).regs.loopTest (wordAddr (s.pc c))).2.isSome

/-- What a core does when it may issue. -/
inductive IssuePlan where
  /-- nothing: it waits for an event -/
  | idle
  /-- it changes its state without executing an instruction -/
  | other (s : State)
  /-- it executes an instruction in a state -/
  | exec (i : Instr) (s : State)
  deriving DecidableEq, Repr

/-- A context that holds issue and has no trap to take executes the word at its program counter. -/
def State.planWord (s : State) (c : CtxId) : IssuePlan :=
  let pc := s.pc c
  match s.cached c (wordAddr pc) with
  | none => .other (s.onWait c fun w => { w with fetch := some (wordAddr pc) })
  | some w =>
    if !addrOk w pc then .other (s.raisePrecise c .align pc)
    else
      match decode w (wordPos pc) with
      | .error e => .other (s.raisePrecise c (codeOf e) 0)
      | .ok i => .exec i ({ s with cur := c }.onRegs c fun r => { r with wordNext := nextWord w pc })

/-- What the context that holds issue does (R55, R57, R250, R251). A context that holds issue with an instruction that
waits does nothing until ISSUE_HOLD_RELEASE (R57). -/
def State.planCtx (s : State) (c : CtxId) : IssuePlan :=
  let w := (s.ctx c).wait
  if !s.running c then .other (s.giveUp c)
  else if w.fetch.isSome then .idle
  else if s.trapReady c && (s.mustTrap c || w.park.isSome) then .other (s.takeWaiting c)
  else if decide (5120 ≤ s.issueCount c) then .other (s.backstop c)
  else if s.loopForced c && s.trapReady c then .other (s.takeWaiting c)
  else if s.mustTrap c || s.loopForced c || !s.drained c || w.hold.isSome then .idle
  else
    match w.park with
    | some p => if s.blockHolds c p then s.planWord c else .other (s.giveUp c)
    | none => s.planWord c

/-- What a core does (R55). -/
def State.plan (s : State) (k : CoreId) : IssuePlan :=
  match (s.core k).holder with
  | some n => s.planCtx (k.ctx n)
  | none =>
    match s.nextReady k (s.core k).last with
    | some n => .other (s.gain (k.ctx n))
    | none => .idle

/-- The routers of a die when cycles pass: from a slot 0 on, the outputs are to switch to the banks that BANKSEL then
selects (R160). -/
def DieNet.elapse (x : DieNet) (cyc n : Nat) : DieNet :=
  if 64 ≤ cyc % 64 + n && x.sel != x.act then { x with next := some x.sel } else x

/-- Cycles pass on a die (R20). -/
def State.elapse (s : State) (d n : Nat) : State :=
  s.onDie d fun x => { x with cyc := (x.cyc + n) % 2 ^ 64, net := x.net.elapse x.cyc n }

/-- Prepare the first context so that its next step executes a word: its slot runs a unit of world 1 on
logical core 0, it holds issue, and the word is in the instruction cache at its program counter. -/
def State.placeWord (s : State) (c : CtxId) (w : Word) : State :=
  let u : UnitRef :=
    { launch := 1, home := c.die, unit := 0, world := 1, ports := [], outs := [], rings := [], page := 0, pending := 0, fmts := [] }
  let s := s.onSlot c.die c.slot fun x => { x with state := 2 }
  let s := s.onDie c.die fun x => { x with wmap := Map.put x.wmap c.core { WorldEnt.reset with v := true, world := 1 } }
  let s := s.onCtx c fun x => { x with unit := some u }
  s.onCore c.coreId fun x =>
    { x with holder := some c.ctx, icache := Map.put x.icache (wordAddr (s.pc c)).toNat w }

end Sys2Proof.Machine
end

