-- ==== Sys2Proof/Machine/Global.lean ====
section
/-! DEFINITION. The global memory instructions: LDG, STG, VLDG, VSTG, PREF, AMO (R343, R382, R404, R368,
R296), and FENCE, QFENCE and IFENCE (R196, R197, R335, R370, R339). -/

namespace Sys2Proof.Machine

/-- The access of the instruction at PC. -/
def State.accHere (s : State) (c : CtxId) (deps : List Nat) : AccFrom :=
  { pc := s.pc c, deps := deps, replay := false }

/-- The registers an address is computed from (R193). -/
def gloKeys (x : GloAddr) : List Nat := srcKey x.a :: idxKeys x.b

/-- LDG (R344): it issues and parks until its data returns. -/
def execLdg (g : Guard) (size : LdSize) (cq nt w : Bool) (d : GReg) (addr : GloAddr) (s : State) :
    Host.Outcome State Fault Refusal :=
  switchRun g s fun c => do
    let va ← s.gloAddr c addr
    s.useDestG c w d
    let k : AccKind := .load (ldBytes size) (ldSigned size) false cq nt (if w then .none else destG d)
    return s.access c k (s.accHere c (s.deps c (gloKeys addr))) va false

/-- VLDG (R404). -/
def execVldg (g : Guard) (cq nt w : Bool) (d : VReg) (addr : GloAddr) (s : State) :
    Host.Outcome State Fault Refusal :=
  switchRun g s fun c => do
    let va ← s.gloAddr c addr
    s.useDestV c w d
    let k : AccKind := .load 64 false true cq nt (if w then .none else .v d)
    return s.access c k (s.accHere c (s.deps c (gloKeys addr))) va false

/-- Run a global store: no switch point, and it does not wait for its acknowledgement (R382). -/
def storeRun (g : Guard) (cq nt : Bool) (addr : GloAddr) (dep : Nat) (s : State)
    (data : CtxId → Act (List Byte)) : Host.Outcome State Fault Refusal :=
  plainRun g s fun c => do
    let va ← s.gloAddr c addr
    let bs ← data c
    let deps := s.deps c (dep :: gloKeys addr)
    if s.mayIssue c cq deps then return s.access c (.store bs cq nt) (s.accHere c deps) va false
    else .error (.hold .fence)

/-- STG (R382). -/
def execStg (g : Guard) (size : StSize) (cq nt : Bool) (d : GReg) (addr : GloAddr) (s : State) :
    Host.Outcome State Fault Refusal :=
  storeRun g cq nt addr (depG d) s fun c => do
    let v ← s.readG c d
    return leBytes v.toNat (stBytes size)

/-- VSTG (R404). -/
def execVstg (g : Guard) (cq nt : Bool) (d : VReg) (addr : GloAddr) (s : State) :
    Host.Outcome State Fault Refusal :=
  storeRun g cq nt addr (depV d) s fun c => do
    let v ← s.readV c d
    return leBytes v.toNat 64

/-- PREF (R368): it fills the core TLB when its page translates and is cached, and brings the line into the L2 of the die;
it sets no A bit, returns nothing and never faults. -/
def execPref (g : Guard) (nt : Bool) (addr : GloAddr) (s : State) : Host.Outcome State Fault Refusal :=
  plainRun g s fun c => do
    let va ← s.gloAddr c addr
    let _ := nt
    match s.xlate (s.tlbOf c.coreId false) (s.worldOf c.coreId) none xRead va with
    | .error _ => return s.advance c false
    | .ok x =>
      if x.atHome then return s.advance c false
      else
        let s := s.fillTlb c.coreId false [(0, x)] 0
        return (if pteDup x.entry.pte then s else s.tookLines c.die [x.cell]).advance c false

/-- AMO (R297): its result is late (R293). -/
def execAmo (g : Guard) (op : AmoOp) (w32 cq nt w : Bool) (d : GReg) (a : Src) (b : Option Src)
    (imm : BitVec 24) (s : State) : Host.Outcome State Fault Refusal :=
  plainRun g s fun c => do
    let base ← s.readSrc c a
    let v ← s.readIdx c b
    let din ← s.readG c d
    let size := if w32 then 4 else 8
    let va := base + imm.signExtend 64
    must (va.toNat % size = 0) .align va
    let deps := s.deps c (srcKey a :: idxKeys b ++ if op = .cas then [depG d] else [])
    if s.mayIssue c cq deps then
      return s.access c (.amo op size cq nt (if w then .none else destG d) v din) (s.accHere c deps) va false
    else .error (.hold .fence)

/-! ## Fences -/

/-- The edges of a fence (R187, R192, R195, R197): it acquires unless it only releases, and it orders the
context's own accesses to each byte. What it orders counts for the agents of its scope: for every agent of the package, or
for those of the die alone; a core's agents are taken with those of their die. -/
def State.fenceEdges (s : State) (c : CtxId) (sc : Scope) (kind : FenceKind) : State :=
  let o := (s.ctx c).order
  let own := (s.mem.writes.filter fun w => w.src == .ctx c).map fun w => w.id
  let s := s.fixWrites (if kind = .acq then o.readW else joinIds own o.readW)
  s.onOrder c fun o => o.fenced sc kind (s.hbWrites s.mem.writes.length (s.liveOf o.readW))

/-- A fence completes, or holds issue until its condition holds (R57, R197). -/
def State.fence (s : State) (c : CtxId) (sc : Scope) (kind : FenceKind) : Act State :=
  if s.fenceReady c sc kind then .ok (s.fenceEdges c sc kind) else .error (.hold .fence)

/-- FENCE (R197, R335). -/
def execFence (g : Guard) (scope : Scope) (kind : FenceKind) (s : State) : Host.Outcome State Fault Refusal :=
  plainRun g s fun c => do
    s.notForced c
    let s' ← s.fence c scope kind
    return s'.advance c false

/-- The operations of an engine that a context has joined, and their writes, happen before its later
accesses (R192), with what the tokens that they consumed released; only the copy engine writes global memory. -/
def State.joinQueue (s : State) (c : CtxId) (e : Engine) : State :=
  match e with
  | .me => (s.acquireClock c (s.ctx c).order.engAcq).onOrder c fun o => { o with engAcq := Stamp.zero }
  | .ce =>
    let ids := (s.mem.writes.filter fun w => match w.src with
      | .engine d _ => d == c
      | .ctx _ | .mgmt _ | .sink _ _ | .gone _ | .sec | .other => false).map fun w => w.id
    let s := s.acquireClock c (s.ctx c).order.engAcq
    s.onOrder c fun o => { o with afterA := joinIds o.afterA ids, engAcq := Stamp.zero }

/-- QFENCE (R197, R370). -/
def execQfence (g : Guard) (mask : BitVec 4) (s : State) : Host.Outcome State Fault Refusal :=
  plainRun g s fun c => do
    s.notForced c
    let ready := (!mask.getLsbD 0 || s.fenceReady c .pkg .full) && (!mask.getLsbD 1 || s.pendCount c .me == 0) &&
      (!mask.getLsbD 2 || s.pendCount c .ce == 0) && (!mask.getLsbD 3 || (s.ctx c).sent.isEmpty)
    if ready then
      let s := if mask.getLsbD 0 then s.fenceEdges c .pkg .full else s
      let s := if mask.getLsbD 1 then s.joinQueue c .me else s
      let s := if mask.getLsbD 2 then s.joinQueue c .ce else s
      return s.advance c false
    else .error (.hold .fence)

/-- IFENCE (R339), a fence (R250): it invalidates the core's instruction cache and fetch windows. -/
def execIfence (g : Guard) (s : State) : Host.Outcome State Fault Refusal :=
  plainRun g s fun c => do
    s.notForced c
    return (s.onCore c.coreId fun x => { x with icache := [] }).advance c false

end Sys2Proof.Machine
end

