-- ==== Sys2Proof/Machine/Floats.lean ====
section
/-! DEFINITION. Floating-point numbers: formats (R107), exact values and their one rounding (R110, R111),
conversions (R112), and the special functions, correctly rounded (R123). -/

namespace Sys2Proof.Machine

/-! ## Formats and values -/

/-- A binary format: bits of its exponent and of its fraction (R107). -/
structure FFmt where
  eb : Nat
  mb : Nat
  deriving DecidableEq, Repr

/-- F32. -/
def f32 : FFmt := { eb := 8, mb := 23 }
/-- F16. -/
def f16 : FFmt := { eb := 5, mb := 10 }
/-- BF16. -/
def bf16 : FFmt := { eb := 8, mb := 7 }
/-- The double format of the management core's D extension (R242). -/
def f64 : FFmt := { eb := 11, mb := 52 }

/-- The bias of a format. -/
def FFmt.bias (f : FFmt) : Nat := 2 ^ (f.eb - 1) - 1
/-- The exponent field of infinities and NaNs. -/
def FFmt.top (f : FFmt) : Nat := 2 ^ f.eb - 1
/-- The bits of +∞. -/
def FFmt.infBits (f : FFmt) : Nat := f.top * 2 ^ f.mb
/-- The bits of the canonical NaN (R107). -/
def FFmt.nanBits (f : FFmt) : Nat := f.infBits + 2 ^ (f.mb - 1)
/-- The bits of the largest finite value. -/
def FFmt.maxBits (f : FFmt) : Nat := f.infBits - 1
/-- The sign bit. -/
def FFmt.signBit (f : FFmt) : Nat := 2 ^ (f.eb + f.mb)
/-- The sign of a bit pattern. -/
def FFmt.neg (f : FFmt) (b : Nat) : Bool := b.testBit (f.eb + f.mb)

/-- A value: a NaN, an infinity, or a signed number mant × 2^exp. -/
inductive Fl where
  | nan
  | inf (neg : Bool)
  | num (neg : Bool) (mant : Nat) (exp : Int)
  deriving DecidableEq, Repr

/-- The value of a bit pattern. -/
def FFmt.value (f : FFmt) (b : Nat) : Fl :=
  let e := b / 2 ^ f.mb % 2 ^ f.eb
  let m := b % 2 ^ f.mb
  let n := f.neg b
  if e = f.top then if m = 0 then .inf n else .nan
  else if e = 0 then .num n m (1 - f.bias - f.mb)
  else .num n (m + 2 ^ f.mb) (e - f.bias - f.mb)

/-- The value is a NaN. -/
def Fl.isNan : Fl → Bool
  | .nan => true
  | .inf _ | .num .. => false

/-- An integer as a value. -/
def Fl.ofInt (n : Int) : Fl := .num (decide (n < 0)) n.natAbs 0

/-- The value with its sign changed. -/
def Fl.negate : Fl → Fl
  | .nan => .nan
  | .inf n => .inf (!n)
  | .num n m e => .num (!n) m e

/-! ## Rounding (R110, R111) -/

/-- Rounding directions: those of FPMODE.RM, and nearest with ties away from zero, which only the
management core has. -/
inductive RoundMode where
  | rne | rtz | rup | rdn | rmm
  deriving DecidableEq, Repr

/-- FPMODE.RM (R72). -/
def roundOf (rm : BitVec 2) : RoundMode :=
  match rm.toNat with
  | 0 => .rne | 1 => .rtz | 2 => .rup | _ => .rdn

/-- A result: its bits, and what happened. -/
structure FOut where
  bits  : Nat
  ovf   : Bool
  /-- a non-zero exact result became zero -/
  unf   : Bool
  /-- a NaN from an invalid operation -/
  inv   : Bool
  /-- the result is not the exact one, and is below the normal range: for the management core -/
  inexact : Bool
  tiny  : Bool
  deriving DecidableEq, Repr

/-- A result that is exact. -/
def FOut.of (b : Nat) : FOut :=
  { bits := b, ovf := false, unf := false, inv := false, inexact := false, tiny := false }

/-- The number of bits of a number. -/
def bitLen (n : Nat) : Nat := if n = 0 then 0 else n.log2 + 1

/-- The magnitude of a quotient after rounding: `kept` with a remainder `rest` of `2^shift`, and `sticky`
for what lies below. -/
def roundUp (rm : RoundMode) (neg : Bool) (kept rest shift : Nat) (sticky : Bool) : Nat :=
  let twice := 2 * rest
  let half := 2 ^ shift
  let any := rest != 0 || sticky
  let up := match rm with
    | .rne => decide (half < twice) || (twice == half && (sticky || kept % 2 == 1))
    | .rmm => decide (half ≤ twice) && any
    | .rtz => false
    | .rup => any && !neg
    | .rdn => any && neg
  if up then kept + 1 else kept

/-- What an overflow gives (R111). -/
def FFmt.overflow (f : FFmt) (rm : RoundMode) (sat neg : Bool) : Nat :=
  let s := if neg then f.signBit else 0
  let toMax := sat || match rm with
    | .rne | .rmm => false
    | .rtz => true
    | .rup => neg
    | .rdn => !neg
  s + if toMax then f.maxBits else f.infBits

/-- Round the magnitude mant × 2^exp, plus something below its last bit when `sticky`, once (R111). -/
def FFmt.round (f : FFmt) (rm : RoundMode) (sat neg : Bool) (mant : Nat) (exp : Int) (sticky : Bool) : FOut :=
  let s := if neg then f.signBit else 0
  if mant = 0 && !sticky then FOut.of s
  else
    let emin : Int := 1 - f.bias
    let e : Int := exp + bitLen mant - 1
    let q : Int := max e emin - f.mb
    let shift := (q - exp).toNat
    let base := mant * 2 ^ (exp - q).toNat
    let kept := base / 2 ^ shift
    let rest := base % 2 ^ shift
    let r := roundUp rm neg kept rest shift sticky
    let (r, q) := if r = 2 ^ (f.mb + 1) then (2 ^ f.mb, q + 1) else (r, q)
    let inexact := rest != 0 || sticky
    if r < 2 ^ f.mb then
      { bits := s + r, ovf := false, unf := r == 0, inv := false, inexact := inexact, tiny := inexact }
    else
      let biased := q + f.mb + f.bias
      if (f.top : Int) ≤ biased then
        { bits := f.overflow rm sat neg, ovf := true, unf := false, inv := false, inexact := true, tiny := false }
      else
        { bits := s + biased.toNat * 2 ^ f.mb + (r - 2 ^ f.mb), ovf := false, unf := false, inv := false,
          inexact := inexact, tiny := inexact && decide (e < emin) }

/-- Round an exact value; `inv` says that a NaN comes from an invalid operation. -/
def FFmt.finish (f : FFmt) (rm : RoundMode) (sat inv : Bool) (x : Fl) : FOut :=
  match x with
  | .nan => { FOut.of f.nanBits with inv := inv }
  | .inf n => FOut.of ((if n then f.signBit else 0) + f.infBits)
  | .num n m e => f.round rm sat n m e false

/-! ## Exact arithmetic -/

/-- An exact product, and whether it is invalid. -/
def Fl.mul (a b : Fl) : Fl × Bool :=
  match a, b with
  | .nan, _ | _, .nan => (.nan, false)
  | .inf n, .inf k => (.inf (n != k), false)
  | .inf n, .num k m _ => if m = 0 then (.nan, true) else (.inf (n != k), false)
  | .num k m _, .inf n => if m = 0 then (.nan, true) else (.inf (n != k), false)
  | .num n m e, .num k p d => (.num (n != k) (m * p) (e + d), false)

/-- A signed magnitude. -/
def signed (neg : Bool) (m : Nat) : Int := if neg then -(m : Int) else m

/-- The exact sum of two numbers; the sign of an exact zero follows IEEE 754. -/
def sumNum (rm : RoundMode) (n : Bool) (m : Nat) (e : Int) (k : Bool) (p : Nat) (d : Int) : Fl :=
  let q := min e d
  let a := signed n (m * 2 ^ (e - q).toNat)
  let b := signed k (p * 2 ^ (d - q).toNat)
  let t := a + b
  if t = 0 then
    .num (if m = 0 && p = 0 && n = k then n else rm == .rdn) 0 0
  else .num (decide (t < 0)) t.natAbs q

/-- An exact sum, and whether it is invalid. -/
def Fl.add (rm : RoundMode) (a b : Fl) : Fl × Bool :=
  match a, b with
  | .nan, _ | _, .nan => (.nan, false)
  | .inf n, .inf k => if n = k then (.inf n, false) else (.nan, true)
  | .inf n, .num .. => (.inf n, false)
  | .num .., .inf n => (.inf n, false)
  | .num n m e, .num k p d => (sumNum rm n m e k p d, false)

/-- An exact a × b + c, and whether it is invalid with no NaN among its inputs. -/
def Fl.fma (rm : RoundMode) (a b c : Fl) : Fl × Bool :=
  let (p, i) := a.mul b
  let (r, j) := p.add rm c
  (r, (i && !c.isNan) || j)

/-- Compare two values that are not NaN: −0 equals +0. -/
def Fl.lt (a b : Fl) : Bool :=
  match a, b with
  | .nan, _ | _, .nan => false
  | .inf n, .inf k => n && !k
  | .inf n, .num .. => n
  | .num .., .inf k => !k
  | .num n m e, .num k p d =>
    let q := min e d
    decide (signed n (m * 2 ^ (e - q).toNat) < signed k (p * 2 ^ (d - q).toNat))

/-- Two values that are not NaN are equal: −0 equals +0. -/
def Fl.eq (a b : Fl) : Bool := !a.isNan && !b.isNan && !a.lt b && !b.lt a

/-- Round a number to an integer (R112). -/
def roundToInt (rm : RoundMode) (neg : Bool) (m : Nat) (e : Int) : Int :=
  let shift := (-e).toNat
  let base := m * 2 ^ e.toNat
  signed neg (roundUp rm neg (base / 2 ^ shift) (base % 2 ^ shift) shift false)

/-! ## Integers -/

/-- The least value of an integer type of a width. -/
def intMin (sgn : Bool) (w : Nat) : Int := if sgn then -(2 : Int) ^ (w - 1) else 0
/-- The greatest value of an integer type of a width. -/
def intMax (sgn : Bool) (w : Nat) : Int := if sgn then (2 : Int) ^ (w - 1) - 1 else (2 : Int) ^ w - 1

/-- Sat of R9: the value clamped, and whether clamping changed it. -/
def satInt (sgn : Bool) (w : Nat) (x : Int) : Int × Bool :=
  if x < intMin sgn w then (intMin sgn w, true)
  else if intMax sgn w < x then (intMax sgn w, true)
  else (x, false)

/-- The low bits of an integer. -/
def intBits (w : Nat) (x : Int) : Nat := (x % (2 : Int) ^ w).toNat

/-- An element read as an integer. -/
def intOf (sgn : Bool) (w b : Nat) : Int := if sgn && b.testBit (w - 1) then (b : Int) - 2 ^ w else b

/-- A value converted to an integer type (R112): the result and whether class 0 counts. -/
def flToInt (rm : RoundMode) (sgn : Bool) (w : Nat) (x : Fl) : Int × Bool :=
  match x with
  | .nan => (0, true)
  | .inf n => (if n then intMin sgn w else intMax sgn w, true)
  | .num n m e => satInt sgn w (roundToInt rm n m e)

/-! ## Special functions (R123)

Each result is computed to well over two hundred bits and rounded once, to nearest even. -/

/-- The bits of the fixed-point numbers of this section. -/
def fixBits : Nat := 256

/-- One in fixed point. -/
def fixOne : Nat := 2 ^ fixBits

/-- The natural logarithm of 2 in fixed point. -/
def fixLn2 : Nat := 
  80260960185991308862233904206310070533990667611589946606122867505419956976171

/-- The sum of t × y^n / n! from a term on. -/
def expTerms (y t n : Nat) : Nat → Nat
  | 0 => 0
  | fuel + 1 => if t = 0 then 0 else t + expTerms y (t * y / fixOne / (n + 1)) (n + 1) fuel

/-- e^y for a fixed-point y below one. -/
def fixExp (y : Nat) : Nat := expTerms y fixOne 0 90

/-- The sum of t^(2n+1) / (2n+1) from a power on. -/
def atanhTerms (sq p n : Nat) : Nat → Nat
  | 0 => 0
  | fuel + 1 => if p = 0 then 0 else p / (2 * n + 1) + atanhTerms sq (p * sq / fixOne) (n + 1) fuel

/-- The natural logarithm of a/b for b ≤ a < 2b, in fixed point. -/
def fixLn (a b : Nat) : Nat :=
  let t := (a - b) * fixOne / (a + b)
  2 * atanhTerms (t * t / fixOne) t 0 90

/-- The integer square root, bit by bit. -/
def isqrtGo (n : Nat) : Nat → Nat → Nat
  | 0, r => r
  | k + 1, r => if (r + 2 ^ k) * (r + 2 ^ k) ≤ n then isqrtGo n k (r + 2 ^ k) else isqrtGo n k r

/-- The integer square root. -/
def isqrt (n : Nat) : Nat := isqrtGo n (bitLen n / 2 + 1) 0

/-- Round to nearest even (R110: the special functions). -/
def FFmt.near (f : FFmt) (sat neg : Bool) (mant : Nat) (exp : Int) (sticky : Bool) : FOut :=
  f.round .rne sat neg mant exp sticky

/-- An invalid operation's NaN. -/
def FFmt.invalid (f : FFmt) : FOut := { FOut.of f.nanBits with inv := true }

/-- 2^x of a finite x. -/
def FFmt.exp2Num (f : FFmt) (sat neg : Bool) (m : Nat) (e : Int) : FOut :=
  if m = 0 then f.near sat false 1 0 false
  else if 20 ≤ e + bitLen m then
    -- |x| ≥ 2^19: beyond every format
    f.near sat false 1 (if neg then -3000 else 3000) true
  else if e + bitLen m < -40 then
    -- |x| < 2^-40: beside 1
    if neg then f.near sat false (2 ^ 80 - 1) (-80) true else f.near sat false (2 ^ 80) (-80) true
  else
    -- x in fixed point: e ≥ -40 - 53, so this is exact
    let x : Int := signed neg (m * 2 ^ (e + fixBits).toNat)
    let n : Int := x / fixOne
    let frac := (x % fixOne).toNat
    if frac = 0 then f.near sat false 1 n false
    else f.near sat false (fixExp (frac * fixLn2 / fixOne)) (n - fixBits) true

/-- VEXP2. -/
def FFmt.exp2 (f : FFmt) (sat : Bool) (x : Fl) : FOut :=
  match x with
  | .nan => FOut.of f.nanBits
  | .inf false => FOut.of f.infBits
  | .inf true => FOut.of 0
  | .num n m e => f.exp2Num sat n m e

/-- VLOG2. -/
def FFmt.log2 (f : FFmt) (sat : Bool) (x : Fl) : FOut :=
  match x with
  | .nan => FOut.of f.nanBits
  | .inf false => FOut.of f.infBits
  | .inf true => f.invalid
  | .num n m e =>
    if m = 0 then FOut.of (f.signBit + f.infBits)
    else if n then f.invalid
    else
      let k := bitLen m - 1
      let whole : Int := e + k
      if m = 2 ^ k then f.near sat (decide (whole < 0)) whole.natAbs 0 false
      else
        let t : Int := whole * fixOne + (fixLn m (2 ^ k) * fixOne / fixLn2 : Nat)
        f.near sat (decide (t < 0)) t.natAbs (-fixBits) true

/-- VRCP. -/
def FFmt.rcp (f : FFmt) (sat : Bool) (x : Fl) : FOut :=
  match x with
  | .nan => FOut.of f.nanBits
  | .inf n => FOut.of (if n then f.signBit else 0)
  | .num n m e =>
    if m = 0 then { FOut.of ((if n then f.signBit else 0) + f.infBits) with ovf := true }
    else f.near sat n (fixOne / m) (-fixBits - e) (fixOne % m != 0)

/-- VRSQ. -/
def FFmt.rsq (f : FFmt) (sat : Bool) (x : Fl) : FOut :=
  match x with
  | .nan => FOut.of f.nanBits
  | .inf false => FOut.of 0
  | .inf true => f.invalid
  | .num n m e =>
    if m = 0 then FOut.of ((if n then f.signBit else 0) + f.infBits)
    else if n then f.invalid
    else
      let (m, e) := if e % 2 = 0 then (m, e) else (2 * m, e - 1)
      let one := 2 ^ (2 * fixBits)
      let r := isqrt (one / m)
      f.near sat false r (-fixBits - e / 2) (r * r * m != one)

/-- VTANH. -/
def FFmt.tanh (f : FFmt) (sat : Bool) (x : Fl) : FOut :=
  match x with
  | .nan => FOut.of f.nanBits
  | .inf n => f.near sat n 1 0 false
  | .num n m e =>
    if m = 0 then FOut.of (if n then f.signBit else 0)
    else if e + bitLen m < -30 then
      -- |x| < 2^-31: just below x
      f.near sat n (m * 2 ^ 80 - 1) (e - 80) true
    else if 6 < e + bitLen m then
      -- |x| ≥ 64: just below 1
      f.near sat n (2 ^ 80 - 1) (-80) true
    else
      -- E = e^(2|x|) = 2^k × e^r, and tanh |x| = (E - 1) / (E + 1)
      let y := m * 2 ^ (e + fixBits + 1).toNat
      let k := y / fixLn2
      let big := fixExp (y % fixLn2) * 2 ^ k
      f.near sat n ((big - fixOne) * fixOne / (big + fixOne)) (-fixBits) true

end Sys2Proof.Machine
end

