-- ==== Sys2Proof/Machine/Tiles.lean ====
section
/-! DEFINITION. Tile registers: claims, touches, restores and put-aways (R60 to R63), slices (R61, R83),
the tile instructions (R386 to R388), and TLD and TST (R389, R390). -/

namespace Sys2Proof.Machine

/-- A tile of a core. -/
def CoreSt.tile (x : CoreSt) (n : Nat) : TileSt := Map.get x.tiles TileSt.reset n

/-- A context's record of a tile (R62). -/
def CoreSt.tileRec (x : CoreSt) (ctx n : Nat) : TileRec := Map.get x.recs .none (ctx * 8 + n)

/-- Set a context's record of a tile. -/
def CoreSt.setRec (x : CoreSt) (ctx n : Nat) (r : TileRec) : CoreSt :=
  { x with recs := Map.put x.recs (ctx * 8 + n) r }

/-- Change a tile. -/
def CoreSt.onTile (x : CoreSt) (n : Nat) (f : TileSt → TileSt) : CoreSt :=
  { x with tiles := Map.put x.tiles n (f (x.tile n)) }

/-- The shape and type of a tile. -/
def TileSt.shape (t : TileSt) : TileShape := { rows := t.rows, cols := t.cols, f32 := t.f32 }

/-- An element of a tile by row and column. -/
def TileSt.elem (t : TileSt) (i j : Nat) : W32 := t.elems.toList.getD (i * 16 + j) 0

/-- The bytes that a dirty put-away writes to one row: sixteen elements, unused ones as zero (R63). -/
def TileSt.saveRow (t : TileSt) (i : Nat) : List Byte :=
  (List.range 16).flatMap fun j =>
    leBytes (if i < t.rows && j < t.cols then (t.elem i j).toNat else 0) 4

/-- A save handle is usable (R63): valid, at level 0, of at least 128 rows of 64 bytes. -/
def CoreSt.saveOk (x : CoreSt) (h : Nat) : Option HandleSt :=
  match Map.find x.handles h with
  | none => none
  | some y => if !y.level1 && 128 ≤ y.rows && 64 ≤ y.rowBytes then some y else none

/-- Put away the copy of an owner other than `keep` (R63); `save` gives each context's TSAVEH. -/
def CoreSt.putAway (x : CoreSt) (save : Nat → Nat) (n keep : Nat) : CoreSt :=
  let t := x.tile n
  match t.owner with
  | none => x
  | some o =>
    if o = keep then x
    else
      let x := x.onTile n fun t => { t with owner := none }
      if !t.dirty then
        x.setRec o n (match t.origin with
          | .zero => .zero t.shape
          | .backing h row byte live => .backing t.shape h row byte live)
      else
        match x.saveOk (save o) with
        | none => x.setRec o n .lost
        | some h =>
          let x := (List.range 16).foldl (fun x i =>
            let gs := granulesOf h (16 * n + i) 0 64
            x.write (h.addr (16 * n + i) 0) (t.saveRow i) gs gs true) x
          x.setRec o n (.saved t.shape (save o) true)

/-- What keeps a touch from going on (R62, R63). -/
inductive TouchFault where
  | unconfigured
  /-- the restore would read a handle that has been freed -/
  | freed (h row : Nat)
  deriving DecidableEq, Repr

/-- Check a touch, before any restore: the shape the tile will have (R62, R63, R391). -/
def CoreSt.touchCheck (x : CoreSt) (ctx n : Nat) : Except TouchFault TileShape :=
  match x.tileRec ctx n with
  | .none | .lost => .error .unconfigured
  | .owned => .ok (x.tile n).shape
  | .zero sh => .ok sh
  | .saved sh h live => if live then .ok sh else .error (.freed h (16 * n))
  | .backing sh h row _ live => if live then .ok sh else .error (.freed h row)

/-- Elements of a tile from rows of a handle. -/
def CoreSt.tileFrom (x : CoreSt) (h : HandleSt) (row byte rows cols : Nat) : Vector W32 256 :=
  Vector.ofFn fun k =>
    let i := k.val / 16
    let j := k.val % 16
    if i < rows && j < cols then
      BitVec.ofNat 32 (leNat (x.scratchBytes (h.addr (row + i) (byte + 4 * j)) 4))
    else 0

/-- The granules of the rows of a tile in a handle. -/
def tileGranules (h : HandleSt) (sh : TileShape) (row byte : Nat) : List Nat :=
  (List.range sh.rows).flatMap fun i => granulesOf h (row + i) byte (4 * sh.cols)

/-- The handle, row and byte a restore of a record reads. -/
def restoreFrom (n : Nat) : TileRec → Option (Nat × Nat × Nat)
  | .saved _ h _ => some (h, 16 * n, 0)
  | .backing _ h row byte _ => some (h, row, byte)
  | .zero _ | .owned | .none | .lost => none

/-- The handle a record names: an allocated one, or the context's own capsule handle (R390). -/
def State.recHandle (s : State) (c : CtxId) (h : Nat) : Option HandleSt :=
  match Map.find (s.core c.coreId).handles h with
  | some y => some y
  | none => if h = 0xFC + c.ctx then some (capHandle c.ctx (match (s.ctx c).cap with
      | some k => k.hdr
      | none => 0)) else none

/-- A context's TSAVEH (R71). -/
def State.saveHandle (s : State) (c : CtxId) (n : Nat) : Nat := (s.ctx (c.coreId.ctx n)).ctl.tsaveh.toNat

/-- A touch that restores reads granules of scratch (R62, R148): a bad one faults as I, and leaves the tile unchanged. -/
def State.restoreRead (s : State) (c : CtxId) (m : MReg) : Act State :=
  let r := (s.core c.coreId).tileRec c.ctx m.toNat
  match restoreFrom m.toNat r, (s.core c.coreId).touchCheck c.ctx m.toNat with
  | some (h, row, byte), .ok sh =>
    match s.recHandle c h with
    | none => .ok s
    | some y =>
      s.scrRead c (tileGranules y sh row byte) (handleAddr (BitVec.ofNat 64 h) (BitVec.ofNat 64 row)) true false (.t m)
  | _, _ => .ok s

/-- Restore a tile at a touch that was checked (R62, R63): the copy of another owner is put away first,
and then the contents return. -/
def State.touch (s : State) (c : CtxId) (n : Nat) : State :=
  let x := s.core c.coreId
  let r := x.tileRec c.ctx n
  match r with
  | .owned | .none | .lost => s
  | .zero _ | .saved .. | .backing .. =>
    match x.touchCheck c.ctx n with
    | .error _ => s
    | .ok sh =>
      let x := x.putAway (s.saveHandle c) n c.ctx
      let elems := match restoreFrom n r with
        | none => Vector.replicate 256 0
        | some (h, row, byte) =>
          match s.recHandle c h with
          | none => Vector.replicate 256 0
          | some y => x.tileFrom y row byte sh.rows sh.cols
      let (dirty, origin) := match r with
        | .saved .. => (true, Origin.zero)
        | .backing _ h row byte live => (false, Origin.backing h row byte live)
        | .zero _ | .owned | .none | .lost => (false, Origin.zero)
      let t : TileSt :=
        { elems := elems, rows := sh.rows, cols := sh.cols, f32 := sh.f32, configured := true,
          dirty := dirty, owner := some c.ctx, origin := origin }
      s.setCore c.coreId ((x.onTile n fun _ => t).setRec c.ctx n .owned)

/-- A touch by a tile instruction, TLD or TST is possible (R62, R63): a restore from a freed handle
raises HINVAL and leaves the record none. Answers the tile's shape. -/
def State.touchable (s : State) (c : CtxId) (m : MReg) : Act TileShape := do
  s.useReg c (.t m)
  match (s.core c.coreId).touchCheck c.ctx m.toNat with
  | .ok sh => return sh
  | .error .unconfigured => .error (.raise .tileUncfg 0)
  | .error (.freed h row) =>
    let s := s.onCore c.coreId fun x => x.setRec c.ctx m.toNat .none
    .error (.done (s.raisePrecise c .hinval (handleAddr (BitVec.ofNat 64 h) (BitVec.ofNat 64 row))))

/-- Change a tile of the context's core. -/
def State.onTile (s : State) (c : CtxId) (m : MReg) (f : TileSt → TileSt) : State :=
  s.onCore c.coreId fun x => x.onTile m.toNat f

/-! ## Slices (R61, R83) -/

/-- The elements of a slice, as row × 16 + column; none raises TILE-SHAPE. -/
def sliceCells (sh : TileShape) (dir : Dir) (i : Nat) : Option (List Nat) :=
  match dir with
  | .h => if i < sh.rows then some ((List.range sh.cols).map fun j => i * 16 + j) else none
  | .v => if i < sh.cols then some ((List.range sh.rows).map fun j => j * 16 + i) else none
  | .d =>
    if sh.rows = sh.cols then
      some ((List.range sh.rows).map fun j => j * 16 + (j + i % sh.rows) % sh.rows)
    else none
  | .x =>
    if sh.rows = sh.cols then
      some ((List.range sh.rows).map fun j => j * 16 + (i % sh.rows + sh.rows - j) % sh.rows)
    else none

/-- Read a slice into a vector: element j in lane j, zero in the rest (R61). -/
def TileSt.readSlice (t : TileSt) (cells : List Nat) : Vec :=
  BitVec.ofNat 512 (leNat (cells.flatMap fun k => leBytes (t.elems.toList.getD k 0).toNat 4))

/-- Write a slice from a vector: lanes 0 to len − 1; the tile becomes dirty (R61, R62). -/
def TileSt.writeSlice (t : TileSt) (cells : List Nat) (v : Vec) : TileSt :=
  { t with dirty := true, elems := Vector.ofFn fun k =>
      match cells.findIdx? fun q => q = k.val with
      | some j => v.extractLsb' (32 * j) 32
      | none => t.elems[k] }

/-! ## The tile instructions (R386 to R388) -/

/-- TCFG (R387): a claim, which puts away another owner's copy first. -/
def execTcfg (m : MReg) (f32 : Bool) (rows : BitVec 4) (cols : BitVec 2) (s : State) :
    Host.Outcome State Fault Refusal :=
  let c := s.cur
  settle c s (do
    s.useReg c (.t m)
    let x := (s.core c.coreId).putAway (s.saveHandle c) m.toNat c.ctx
    let t : TileSt :=
      { elems := Vector.replicate 256 0, rows := rows.toNat + 1, cols := 4 * (cols.toNat + 1), f32 := f32,
        configured := true, dirty := false, owner := some c.ctx, origin := .zero }
    return (s.setCore c.coreId ((x.onTile m.toNat fun _ => t).setRec c.ctx m.toNat .owned)).advance c false)

/-- Run a tile instruction that touches its tile (R387). -/
def tileRun (m : MReg) (s : State) (f : CtxId → TileShape → State → Act State) :
    Host.Outcome State Fault Refusal :=
  let c := s.cur
  settle c s (do
    let sh ← s.touchable c m
    let s ← s.restoreRead c m
    let s' ← f c sh (s.touch c m.toNat)
    return s'.advance c false)

/-- TZERO (R387). -/
def execTzero (m : MReg) (s : State) : Host.Outcome State Fault Refusal :=
  tileRun m s fun c _ s => .ok (s.onTile c m fun t =>
    { t with elems := Vector.replicate 256 0, dirty := false, origin := .zero })

/-- TREL (R387): nothing is saved. -/
def execTrel (m : MReg) (s : State) : Host.Outcome State Fault Refusal :=
  tileRun m s fun c _ s =>
    let s := s.onTile c m fun t => { t with configured := false, owner := none }
    .ok (s.onCore c.coreId fun x => x.setRec c.ctx m.toNat .none)

/-- TTRANS (R387): any square shape. -/
def execTtrans (m : MReg) (s : State) : Host.Outcome State Fault Refusal :=
  tileRun m s fun c sh s => do
    must (sh.rows = sh.cols) .tileShape
    return s.onTile c m fun t =>
      { t with dirty := true, elems := Vector.ofFn fun k =>
          if k.val / 16 < t.rows && k.val % 16 < t.rows then t.elem (k.val % 16) (k.val / 16) else t.elems[k] }

/-- TDIRTY (R387). -/
def execTdirty (m : MReg) (s : State) : Host.Outcome State Fault Refusal :=
  tileRun m s fun c _ s => .ok (s.onTile c m fun t => { t with dirty := true })

/-! ## TLD and TST (R389, R390) -/

/-- TLD (R390): a poisoned granule raises POISON as I and leaves the tile unchanged. -/
def execTld (g : Guard) (m : MReg) (addr : ScrAddr) (s : State) : Host.Outcome State Fault Refusal :=
  plainRun g s fun c => do
    let (h, row) ← s.scrSrcs c addr
    let sh ← s.touchable c m
    let x ← s.scrCheck c h row addr.imm (4 * sh.cols) 16 sh.rows
    let byte := addr.imm.toNat
    let s ← s.restoreRead c m
    let s' ← s.scrRead c (tileGranules x sh row.toNat byte) (handleAddr h row) true false (.t m)
    let s' := s'.touch c m.toNat
    let elems := (s'.core c.coreId).tileFrom x row.toNat byte sh.rows sh.cols
    return (s'.onTile c m fun t =>
      { t with elems := elems, dirty := false, origin := .backing h.toNat row.toNat byte true }).advance c false

/-- TST (R390): whole granules are written, so poison is cleared. -/
def execTst (g : Guard) (ns : Bool) (m : MReg) (addr : ScrAddr) (s : State) :
    Host.Outcome State Fault Refusal :=
  plainRun g s fun c => do
    let (h, row) ← s.scrSrcs c addr
    let sh ← s.touchable c m
    let x ← s.scrCheck c h row addr.imm (4 * sh.cols) 16 sh.rows
    let byte := addr.imm.toNat
    let s ← s.restoreRead c m
    let s' := s.touch c m.toNat
    let t := (s'.core c.coreId).tile m.toNat
    let s' := (List.range sh.rows).foldl (fun s i =>
      s.storeWhole c (x.addr (row.toNat + i) byte)
        ((List.range sh.cols).flatMap fun j => leBytes (t.elem i j).toNat 4)
        (granulesOf x (row.toNat + i) byte (4 * sh.cols)) ns) s'
    return s'.advance c false

/-! ## TSHAPE (R73) -/

/-- The byte of TSHAPE for one tile. -/
def TileSt.shapeByte (t : TileSt) (ctx : Nat) : Nat :=
  if t.configured && t.owner = some ctx then
    128 + (if t.f32 then 64 else 0) + (t.rows - 1) % 16 * 4 + (t.cols / 4 - 1) % 4
  else 0

/-- TSHAPE of a context. -/
def State.tshape (s : State) (c : CtxId) : Word :=
  BitVec.ofNat 64 (leNat ((List.range 8).map fun n =>
    BitVec.ofNat 8 (((s.core c.coreId).tile n).shapeByte c.ctx)))

/-- END and a stop release the tiles of a context (R328): owned tiles become unconfigured with nothing
saved, and every record becomes none. -/
def CoreSt.releaseTiles (x : CoreSt) (ctx : Nat) : CoreSt :=
  { x with
    tiles := x.tiles.map fun (p : Nat × TileSt) =>
      (p.1, if p.2.owner = some ctx then { p.2 with configured := false, owner := none } else p.2),
    recs := x.recs.filter fun (p : Nat × TileRec) => p.1 / 8 ≠ ctx }

end Sys2Proof.Machine
end

