-- ==== Sys2Proof/Machine/VectorOps.lean ====
section
/-! DEFINITION. What every Format V instruction shares (R391): its operands (R81 to R83), the lane mask and
the merge of its result (R84), its latches (R59), and its numeric events (R124, R125). -/

namespace Sys2Proof.Machine

/-! ## Lanes -/

/-- The lanes of a vector. -/
def lanesOf (w : Nat) (v : Vec) : List Nat := (List.range (512 / w)).map fun i => (v.extractLsb' (w * i) w).toNat

/-- A number whose digits in base 2^w are the lanes. -/
def packNat (w : Nat) : List Nat → Nat
  | [] => 0
  | x :: rest => x % 2 ^ w + 2 ^ w * packNat w rest

/-- A vector of lanes. -/
def packLanes (w : Nat) (xs : List Nat) : Vec := BitVec.ofNat 512 (packNat w xs)

/-- The same element in every lane. -/
def splat (w x : Nat) : Vec := packLanes w (List.replicate (512 / w) x)

/-- The float format of a type. -/
def tyFmt : ETy → FFmt
  | .bf16 => bf16
  | .f16 => f16
  | .s8 | .u8 | .s16 | .u16 | .s32 | .f32 => f32

/-! ## Operands (R82, R83) -/

/-- A tile slice with its index. -/
structure SliceRef where
  dir : Dir
  m   : MReg
  i   : Nat
  deriving DecidableEq, Repr

/-- An operand, before its slices are touched. -/
inductive VArg where
  | vec (v : Vec)
  | slice (r : SliceRef)
  deriving DecidableEq, Repr

/-- The value of a latch to a vector operand (R59). -/
def latchVec (w : Nat) (l : Latch) : Vec :=
  if l.isVec then l.val else BitVec.ofNat 512 ((l.val.extractLsb' 0 64).toNat % 2 ^ w)

/-- Read a source operand with elements of `w` bits; a slice is touched later. -/
def State.vsrc (s : State) (c : CtxId) (a : VSrc) (w : Nat) : Act VArg :=
  match a with
  | .v r => do
    let v ← s.readV c r
    return .vec v
  | .slice dir m i => do
    s.useReg c (.t m)
    return .slice { dir := dir, m := m, i := i.toNat }
  | .rslice dir m g => do
    s.useReg c (.t m)
    let i ← s.readG c (g.zeroExtend 5)
    return .slice { dir := dir, m := m, i := i.toNat }
  | .latch r => do
    let l ← s.readL c r
    return .vec (latchVec w l)
  | .bcast g => do
    let v ← s.readG c g
    return .vec (splat w (v.toNat % 2 ^ w))
  | .zero => .ok (.vec 0)

/-- A latch that the operand names may be read (R76: LATCH-STALE comes before the faults of tiles). -/
def State.latchOk (s : State) (c : CtxId) (a : VSrc) : Act Unit :=
  match a with
  | .latch r => do
    let _ ← s.readL c r
  | .v _ | .slice .. | .rslice .. | .bcast _ | .zero => .ok ()

/-- Where a vector result goes. -/
inductive VDest where
  | v (r : VReg)
  | g (r : GReg)
  | slice (r : SliceRef)
  deriving DecidableEq, Repr

/-- Resolve a destination; its register may be written. -/
def State.vdst (s : State) (c : CtxId) (w : Bool) (d : VDst) : Act VDest :=
  match d with
  | .v r => do
    s.useDestV c w r
    return .v r
  | .g r => do
    s.useDestG c w r
    return .g r
  | .slice dir m i => do
    s.useReg c (.t m)
    return .slice { dir := dir, m := m, i := i.toNat }
  | .rslice dir m g => do
    s.useReg c (.t m)
    let i ← s.readG c (g.zeroExtend 5)
    return .slice { dir := dir, m := m, i := i.toNat }

/-- Check the touch of a slice, with no effect on any state (R391): its cells. A restore from a freed handle leaves the
record as it is, as R391 has it for a Format V instruction, where R63 makes the record none (DEDUCED, log entry 132). -/
def State.sliceOk (s : State) (c : CtxId) (r : SliceRef) : Act (List Nat) :=
  match (s.core c.coreId).touchCheck c.ctx r.m.toNat with
  | .ok sh =>
    match sliceCells sh r.dir r.i with
    | some cells => .ok cells
    | none => .error (.raise .tileShape 0)
  | .error .unconfigured => .error (.raise .tileUncfg 0)
  | .error (.freed h row) => .error (.raise .hinval (handleAddr (BitVec.ofNat 64 h) (BitVec.ofNat 64 row)))

/-- Check the slices of operands in their order. -/
def State.argsOk (s : State) (c : CtxId) : List VArg → Act Unit
  | [] => .ok ()
  | .vec _ :: rest => s.argsOk c rest
  | .slice r :: rest => do
    let _ ← s.sliceOk c r
    s.argsOk c rest

/-- The restores of the slices of operands read scratch (R62, R148). -/
def State.restoreReads (s : State) (c : CtxId) : List VArg → Act State
  | [] => .ok s
  | .vec _ :: rest => s.restoreReads c rest
  | .slice r :: rest => do
    let s ← s.restoreRead c r.m
    s.restoreReads c rest

/-- Read checked operands in their order, touching the slices (R391). -/
def State.argVals (s : State) (c : CtxId) : List VArg → State × List Vec
  | [] => (s, [])
  | .vec v :: rest =>
    let (s, vs) := s.argVals c rest
    (s, v :: vs)
  | .slice r :: rest =>
    let s := s.touch c r.m.toNat
    let t := (s.core c.coreId).tile r.m.toNat
    let v := match sliceCells t.shape r.dir r.i with
      | some cells => t.readSlice cells
      | none => 0
    let (s, vs) := s.argVals c rest
    (s, v :: vs)

/-- The registers whose dependencies an operand carries (R193). -/
def vsrcKeys : VSrc → List Nat
  | .v r => [depV r]
  | .latch r => [depL r]
  | .bcast g => [depG g]
  | .slice .. | .zero => []
  | .rslice _ _ g => [depG (g.zeroExtend 5)]

/-! ## Results -/

/-- The lanes a result writes, none for a lane that keeps its value, and the numeric events. -/
structure VRes where
  lanes : List (Option Nat)
  ev    : Events
  deriving DecidableEq, Repr

/-- A scalar result (R391): it fills lane 0, and every other lane with zero. -/
def VRes.scalar (w v : Nat) (ev : Events) : VRes :=
  { lanes := some v :: List.replicate (512 / w - 1) (some 0), ev := ev }

/-- The result merged into the old lanes (R84). -/
def VRes.merge (r : VRes) (old : List Nat) : List Nat :=
  (old.zip (r.lanes ++ List.replicate old.length none)).map fun p => p.2.getD p.1

/-- The element type of a destination: width and signedness. -/
structure DTy where
  w   : Nat
  sgn : Bool
  deriving DecidableEq, Repr

/-- The destination type of an element type. -/
def DTy.ofTy (t : ETy) : DTy := { w := t.bits, sgn := t.isSigned }

/-- What the result merges into. -/
def State.oldLanes (s : State) (c : CtxId) (d : VDest) (w : Nat) : List Nat :=
  match d with
  | .v r => lanesOf w ((s.ctx c).regs.getV r)
  | .g r => lanesOf w (((s.ctx c).regs.getG r).zeroExtend 512)
  | .slice r =>
    let t := (s.core c.coreId).tile r.m.toNat
    match sliceCells t.shape r.dir r.i with
    | some cells => lanesOf w (t.readSlice cells)
    | none => lanesOf w 0

/-- Write a vector result and push it (R391, R59). -/
def State.vwrite (s : State) (c : CtxId) (w : Bool) (d : VDest) (ty : DTy) (r : VRes) (ds : List Nat) : State :=
  match d with
  | .v x => s.resultV c w x (packLanes ty.w (r.merge (s.oldLanes c d ty.w))) ds
  | .g x =>
    let v := match r.lanes.head?.join with
      | some b => BitVec.ofInt 64 (intOf ty.sgn ty.w (b % 2 ^ ty.w))
      | none => (s.ctx c).regs.getG x
    s.resultG c w x v ds
  | .slice x =>
    let t := (s.core c.coreId).tile x.m.toNat
    match sliceCells t.shape x.dir x.i with
    | none => s
    | some cells =>
      let v := packLanes 32 ((r.merge (s.oldLanes c d 32)).take cells.length)
      let s := s.onTile c x.m fun t => t.writeSlice cells v
      (s.push c (Latch.vector v)).onOrder c fun o => o.pushDep ds

/-- A destination as a waiting trap names it (R250): a result that only a latch takes has none. -/
def VDest.dest (d : VDest) (w : Bool) : Dest :=
  match d with
  | .v r => if w then .none else .v r
  | .g r => if w then .none else destG r
  | .slice r => .t r.m

/-- An operation with an active lane counts its events and advances the window (R124, R125). -/
def State.vecOp (s : State) (c : CtxId) (act : Bool) (ev : Events) (d : Dest) : State :=
  if act then
    let s := if ev = evNone then s else s.countEvents c (s.pc c) false ev d
    s.advanceWindow c
  else s

/-- Lane `i` is active (R84). -/
def State.laneMask (s : State) (c : CtxId) (k : KReg) : Nat → Bool :=
  let m := (s.ctx c).regs.getK k
  fun i => m.getLsbD i

/-- Run a Format V instruction (R391): mask, W, destination with its element type, sources with their element
widths, further registers that the result depends on, the lanes of its type; `f` gives the result from the
mask, the old lanes and the operands. -/
def vecRun (k : KReg) (w : Bool) (d : VDst) (ty : DTy) (srcs : List (VSrc × Nat)) (more : List Nat) (n : Nat)
    (s : State) (f : CtxId → (Nat → Bool) → List Nat → List Vec → VRes) : Host.Outcome State Fault Refusal :=
  let c := s.cur
  settle c s (do
    srcs.forM fun a => s.latchOk c a.1
    let args ← srcs.mapM fun a => s.vsrc c a.1 a.2
    let dst ← s.vdst c w d
    s.argsOk c args
    match dst with
    | .slice r => do
      let _ ← s.sliceOk c r
    | .v _ | .g _ => .ok ()
    let s ← s.restoreReads c (args ++ match dst with
      | .slice r => [.slice r]
      | .v _ | .g _ => [])
    let act := s.laneMask c k
    let all := (List.range n).all act
    let ds := s.deps c (srcs.flatMap (fun a => vsrcKeys a.1) ++ more ++ [depK k] ++
      (if all then [] else match dst with
        | .v r => [depV r]
        | .g r => [depG r]
        | .slice _ => []))
    let (s', vs) := s.argVals c args
    let s' := match dst with
      | .slice r => s'.touch c r.m.toNat
      | .v _ | .g _ => s'
    let r := f c act (s'.oldLanes c dst ty.w) vs
    let s' := s'.vwrite c w dst ty r ds
    return (s'.vecOp c ((List.range n).any act) r.ev (dst.dest w)).advance c false)

/-- The result of a lane function on the active lanes: each lane gives its bits and its events. -/
def laneMap (n : Nat) (act : Nat → Bool) (f : Nat → Nat × Events) : VRes :=
  (List.range n).foldr (fun i r =>
    if act i then
      let (b, e) := f i
      { lanes := some b :: r.lanes, ev := if e = evNone then r.ev else evAdd r.ev e }
    else { r with lanes := none :: r.lanes }) { lanes := [], ev := evNone }

/-- A lane of a vector. -/
def laneAt (w : Nat) (v : Vec) (i : Nat) : Nat := (v.extractLsb' (w * i) w).toNat

/-- The events of a float result (R108, R111). -/
def foutEv (r : FOut) : Events :=
  let e := evNone
  let e := if r.ovf then evOne e 1 else e
  let e := if r.inv then evOne e 2 else e
  if r.unf then evOne e 3 else e

/-- A float result as bits and events. -/
def foutLane (r : FOut) : Nat × Events := (r.bits, foutEv r)

/-- A saturated integer as bits and events (R112): a clamp counts class 0. -/
def satLane (w : Nat) (p : Int × Bool) : Nat × Events :=
  (intBits w p.1, if p.2 then evOne evNone 0 else evNone)

/-- The rounding direction of a context (R110). -/
def State.fpRound (s : State) (c : CtxId) : RoundMode := roundOf (s.ctx c).ctl.rm

/-- The overflow mode of a context (R110). -/
def State.fpSat (s : State) (c : CtxId) : Bool := (s.ctx c).ctl.satf

end Sys2Proof.Machine
end

