-- ==== Sys2Proof/Machine/EngineWords.lean ====
section
/-! DEFINITION. The engine words: stack words (R91, R92) and launch words with their capture (R93 to R95, R172,
R185), engine status (R170, R171), and the format table (R67 to R69, R336, R337). -/

namespace Sys2Proof.Machine

/-! ## Engine words in their carrier (R86) -/

/-- Complete an engine word: the next word of the carrier, or, after the last, the loop test at the carrier's
address (R65, R86). -/
def State.advanceWord (s : State) (c : CtxId) : State :=
  let r := (s.ctx c).regs
  if r.wordNext.extractLsb' 0 3 = 0 then (s.setPc c (wordAddr r.pc)).advanceTo c r.wordNext false
  else (s.onWait c fun w => w.clear r.pc).setPc c r.wordNext

/-- A context's parameter stack for an engine, top first (R92). -/
def State.stack (s : State) (c : CtxId) (e : Engine) : List Word :=
  match e with
  | .me => (s.ctx c).regs.me
  | .ce => (s.ctx c).regs.ce

/-- Replace a parameter stack. -/
def State.setStack (s : State) (c : CtxId) (e : Engine) (l : List Word) : State :=
  s.onRegs c fun r => match e with
    | .me => { r with me := l }
    | .ce => { r with ce := l }

/-- Run a stack word that needs `n` entries (R92): `f` gives the new stack. -/
def stackRun (e : Engine) (n : Nat) (s : State) (f : CtxId → List Word → Act (List Word)) :
    Host.Outcome State Fault Refusal :=
  let c := s.cur
  settle c s (do
    let l := s.stack c e
    must (n ≤ l.length) .engUnf
    let l' ← f c l
    must (l'.length ≤ 8) .engOvf
    return (s.setStack c e l').advanceWord c)

/-- LIT (R346). -/
def execLit (e : Engine) (imm : BitVec 15) (s : State) : Host.Outcome State Fault Refusal :=
  stackRun e 0 s fun _ l => .ok (imm.signExtend 64 :: l)

/-- LITH (R346). -/
def execLith (e : Engine) (imm : BitVec 12) (s : State) : Host.Outcome State Fault Refusal :=
  stackRun e 1 s fun _ l => .ok (((l.headD 0 <<< 12) ||| imm.zeroExtend 64) :: l.drop 1)

/-- DUP (R327). -/
def execDup (e : Engine) (s : State) : Host.Outcome State Fault Refusal :=
  stackRun e 1 s fun _ l => .ok (l.headD 0 :: l)

/-- DROP (R327). -/
def execDrop (e : Engine) (s : State) : Host.Outcome State Fault Refusal :=
  stackRun e 1 s fun _ l => .ok (l.drop 1)

/-- SWAP (R364). -/
def execSwap (e : Engine) (s : State) : Host.Outcome State Fault Refusal :=
  stackRun e 2 s fun _ l => .ok (l.getD 1 0 :: l.headD 0 :: l.drop 2)

/-- OVER (R364). -/
def execOver (e : Engine) (s : State) : Host.Outcome State Fault Refusal :=
  stackRun e 2 s fun _ l => .ok (l.getD 1 0 :: l)

/-- CLRS (R312). -/
def execClrs (e : Engine) (s : State) : Host.Outcome State Fault Refusal :=
  stackRun e 0 s fun _ _ => .ok []

/-- PUSHG (R369). -/
def execPushg (e : Engine) (g : GReg) (s : State) : Host.Outcome State Fault Refusal :=
  stackRun e 0 s fun c l => do
    let v ← s.readG c g
    return v :: l

/-! ## Arguments and formats -/

/-- The handle number of a packed argument. -/
def argHandle (w : Word) : Nat := (w.extractLsb' 32 32).toNat
/-- The row of a packed argument. -/
def argRow (w : Word) : Nat := (w.extractLsb' 0 32).toNat
/-- Bits [63:40] of a packed argument are zero (R172). -/
def argOk (w : Word) : Bool := w.extractLsb' 40 24 == 0

/-- A field of a format entry (R113). -/
def fmtField (f : Word) (lo n : Nat) : Nat := (f.extractLsb' lo n).toNat
/-- AT. -/
def fmtAt (f : Word) : Nat := fmtField f 0 4
/-- BT. -/
def fmtBt (f : Word) : Nat := fmtField f 4 4
/-- GRP. -/
def fmtGrp (f : Word) : Nat := fmtField f 8 2
/-- ACC. -/
def fmtAcc (f : Word) : Nat := fmtField f 12 4
/-- SAT. -/
def fmtSat (f : Word) : Bool := f.getLsbD 16
/-- RM. -/
def fmtRm (f : Word) : BitVec 2 := f.extractLsb' 17 2
/-- ASCALE. -/
def fmtScale (f : Word) : Nat := fmtField f 32 32
/-- The group size, 0 for none. -/
def fmtGroup (f : Word) : Nat := if fmtGrp f = 0 then 0 else 16 * 2 ^ fmtGrp f
/-- A is float. -/
def fmtFloat (f : Word) : Bool := fmtAt f != 0

/-- The entry of the format table (R113). -/
def CoreSt.entry (x : CoreSt) (n : Nat) : Word := Map.get x.fmt 0x3F80000000000000 n

/-- The checks of R114 that depend on the entry's contents. -/
def fmtOk (f : Word) (k k0 : Nat) : Bool :=
  let a := fmtAt f
  let b := fmtBt f
  let g := fmtGroup f
  fmtField f 19 13 == 0 && fmtField f 10 2 == 0 && decide (fmtAcc f ≤ 1) && decide (b ≤ 4) &&
    (a == 0 || a == 3 || a == 4) && (decide (a = 0) == decide (b < 3)) && !((b == 1 || b == 2) && g == 0) &&
    !(fmtAcc f == 0 && (g != 0 || a != 0)) && (g == 0 || (k % g == 0 && k0 % g == 0))

/-- The checks of MMA on its popped values (R114, R172): `args` is fmt, K, B, A. -/
def mmaArgsOk (args : List Word) (f : Bool) : Bool :=
  let k := (args.getD 1 0).toNat
  argOk (args.getD 3 0) && argOk (args.getD 2 0) && k != 0 && k % 16 == 0 &&
    (f || decide ((args.getD 0 0).toNat ≤ 31))

/-- The index of the format entry of an MMA (R68, R94). -/
def State.mmaIndex (s : State) (c : CtxId) (f : Bool) (args : List Word) : Option Nat :=
  if f then
    let b := (s.ctx c).ctl.ftbind
    let z := (s.ctx c).regs.getZ (b.getLsbD 8)
    let n := (b.extractLsb' 0 5).toNat + (z.initial - z.remaining).toNat
    if b.getLsbD 15 && z.active && n ≤ 31 then some n else none
  else some ((args.headD 0).toNat)

/-- The checks of MROUTE (R177): `args` is entry, descriptor, base. -/
def routeOk (args : List Word) : Bool :=
  let d := args.getD 1 0
  let b := args.getD 2 0
  let kind := fmtField d 0 4
  let port := fmtField d 8 8
  decide ((args.headD 0).toNat ≤ 15) && d.extractLsb' 16 48 == 0 && decide (kind ≤ 3) && decide (fmtField d 4 4 ≤ 7) &&
    (if kind = 2 then decide (port ≤ 15) else port == 0) &&
    (if kind = 1 then argOk b else if kind = 3 then b.extractLsb' 32 32 == 0 else b == 0)

/-- The rows of a copy (R172). -/
def rowsOk (w : Word) : Bool := decide (1 ≤ w.toNat ∧ w.toNat ≤ 65535)

/-- Pitch, VA and rows of a global copy (R172). -/
def copyArgsOk (pitch va rows : Word) : Bool :=
  rowsOk rows && va.toNat % 16 == 0 && pitch.toNat % 16 == 0 && decide (pitch.toNat < 2 ^ 32)

/-- The checks of R172 on popped arguments, top first, that no other state decides. -/
def launchArgsOk (i : Instr) (args : List Word) : Bool :=
  let a (n : Nat) : Word := args.getD n 0
  match i with
  | .mma _ f => mmaArgsOk args f
  | .mdrain _ s => decide (1 ≤ (a 0).toNat ∧ (a 0).toNat ≤ 64) && (s.isSome || decide ((a 1).toNat ≤ 15))
  | .mroute => routeOk args
  | .maccld => argOk (a 0)
  | .cpy .. | .cpys .. => copyArgsOk (a 0) (a 1) (a 2)
  | .cpyh => rowsOk (a 0) && argOk (a 1) && argOk (a 2)
  | .cpyp _ _ sl _ =>
    if sl then decide ((a 0).toNat ≤ 63) && copyArgsOk (a 1) (a 2) (a 3) else copyArgsOk (a 0) (a 1) (a 2)
  | .cgath _ => decide (1 ≤ (a 0).toNat ∧ (a 0).toNat ≤ 4096) && argOk (a 1) && argOk (a 3)
  | .cstrm _ | .csink => decide ((a 0).toNat < 2 ^ 32) && decide ((a 2).toNat ≤ 15)
  | .cfill => rowsOk (a 1) && argOk (a 2)
  | _ => true

/-- The arguments a launch word pops (R94, R95). -/
def launchNeeds : Instr → Nat
  | .mma .. => 4
  | .mdrain _ s => if s.isSome then 1 else 2
  | .mroute => 3
  | .maccld => 1
  | .cpy .. | .cpys .. | .cgath _ => 4
  | .cpyh | .cstrm _ | .csink | .cfill => 3
  | .cpyp _ _ sl _ => if sl then 5 else 4
  | _ => 0

/-- The packed handle arguments of a launch word. -/
def launchHandles (i : Instr) (args : List Word) : List Nat :=
  let h (n : Nat) : List Nat := match args[n]? with
    | some w => [argHandle w]
    | none => []
  match i with
  | .mma .. => h 3 ++ h 2
  | .maccld => h 0
  | .cpy .. | .cpys .. => h 3
  | .cpyh => h 1 ++ h 2
  | .cpyp _ _ sl _ => if sl then h 4 else h 3
  | .cgath _ => h 1 ++ h 3
  | .cfill => h 2
  | _ => []

/-- The launch word arms a chain (R185). -/
def launchChains : Instr → Bool
  | .cpy ch _ _ => ch
  | .cpyp ch _ _ _ => ch
  | _ => false

/-! ## Capture (R93, R185) -/

/-- Change an engine of a core. -/
def State.onEng (s : State) (k : CoreId) (e : Engine) (f : EngSt → EngSt) : State :=
  s.onCore k fun x => match e with
    | .me => { x with me := f x.me }
    | .ce => { x with ce := f x.ce }

/-- What the reads of a launched operation come after (R169, R192): the context's own stores, and what happens
before its later accesses. -/
def State.launchAfter (s : State) (c : CtxId) : List Nat :=
  let own := (s.mem.writes.filter fun w => w.src == .ctx c).map fun w => w.id
  joinIds own (s.liveOf (joinIds (s.ordersOf c false true []) (s.ctx c).order.readW))

/-- The operation that a launch word captures. -/
def State.engOp (s : State) (c : CtxId) (i : Instr) (pc : Word) (args : List Word) (entry : Word) (after : List Nat)
    (acq : Stamp) : EngOp :=
  { id := s.fresh, ctx := c.ctx, instr := i, pc := pc, args := args, entry := entry,
    binds := (launchHandles i args).map fun n => (n, s.handle c n), pos := 0, buf := EngBuf.reset, route := none,
    sampled := [], events := evNone, after := after, acq := acq, late := none, halted := none, failed := none,
    replay := false, mid := false, stopRow := false }

/-- A sealing CPYP seals its handle at capture, under its slot (R135, R284). -/
def State.sealAtCapture (s : State) (c : CtxId) (i : Instr) (args : List Word) : State :=
  match i with
  | .cpyp _ _ true _ =>
    s.onCore c.coreId fun x =>
      let n := argHandle (args.getD 4 0)
      match Map.find x.handles n with
      | some h =>
        if h.level1 && h.slot.isNone then
          { x with handles := Map.put x.handles n { h with slot := some (args.headD 0).toNat } }
        else x
      | none => x
  | _ => s

/-- ENGINE_CAPTURE: an operation enters the shadow set (R93 step 4). -/
def State.capture (s : State) (c : CtxId) (e : Engine) (op : EngOp) : State :=
  let s := ((s.fixWrites op.after).onEng c.coreId e fun x => { x with shadow := some op }).bump
  s.sealAtCapture c op.instr op.args

/-- The chain of a context (R185). -/
def State.setChain (s : State) (c : CtxId) (x : Option ChainState) : State := s.onCtx c fun y => { y with chain := x }

/-- The format entry of a launch word: its index, and whether its contents pass R114. -/
def State.launchFmt (s : State) (c : CtxId) (i : Instr) (args : List Word) : Option Nat :=
  match i with
  | .mma _ f => s.mmaIndex c f args
  | _ => some 0

/-- The contents of a format entry suit a launch word (R114). -/
def fmtSuits (i : Instr) (args : List Word) (entry : Word) : Bool :=
  match i with
  | .mma .. => fmtOk entry (args.getD 1 0).toNat (argRow (args.getD 2 0))
  | _ => true

/-- MMA and MACCLD make their launch one that uses the accumulators of the core (R259). -/
def State.noteAcc (s : State) (c : CtxId) (i : Instr) : State :=
  match i, (s.ctx c).unit with
  | .mma .., some u | .maccld, some u =>
    let key := launchKey u.world u.launch
    s.onCore c.coreId fun x => { x with accUsers := if x.accUsers.contains key then x.accUsers else x.accUsers ++ [key] }
  | _, _ => s

/-- Run a launch word (R93, R185). -/
def launchRun (e : Engine) (i : Instr) (s : State) : Host.Outcome State Fault Refusal :=
  let c := s.cur
  settle c s (do
    s.notForced c
    let l := s.stack c e
    let n := launchNeeds i
    let args := l.take n
    must (n ≤ l.length) .engUnf
    let chain := if e = .me then (s.ctx c).chain else none
    let free := s.shadowFree c.coreId e
    if e = .me && (s.ctx c).held.isSome then .error (.park (.shadow e) none)
    else if !free && (chain.isNone || chain == some .done) then .error (.park (.shadow e) none)
    else do
      must (launchArgsOk i args) .engArg
      must (!(launchChains i && (s.ctx c).chain.isSome)) .engArg
      match s.launchFmt c i args with
      | none => .error (.raise .engArg 0)
      | some f => do
        let entry := (s.core c.coreId).entry f
        let s' := (s.setStack c e (l.drop n)).noteAcc c i
        match chain with
        | some (.running op) =>
          -- the word has issued: the chain is armed no more
          let h : HeldWord :=
            { instr := i, pc := s.pc c, args := args, fmt := f, copy := op, ready := false, passed := none,
              after := s.launchAfter c, acq := (s.ctx c).order.acq }
          return (s'.onCtx c fun x => { x with held := some h, chain := none }).advanceWord c
        | some .failed => do
          must (fmtSuits i args entry) .engArg
          return (s'.setChain c none).advanceWord c
        | some .done | none => do
          must (fmtSuits i args entry) .engArg
          let s' := s'.capture c e (s.engOp c i (s.pc c) args entry (s.launchAfter c) (s.ctx c).order.acq)
          let s' := if launchChains i then s'.setChain c (some (.running s.fresh))
            else if e = .me then s'.setChain c none else s'
          return s'.advanceWord c)

/-- MMA (R356). -/
def execMma (z f : Bool) (s : State) : Host.Outcome State Fault Refusal := launchRun .me (.mma z f) s
/-- MDRAIN (R353); its second field is the steer port. -/
def execMdrain (z : Bool) (s : Option (BitVec 4)) (t : State) : Host.Outcome State Fault Refusal :=
  launchRun .me (.mdrain z s) t
/-- MROUTE (R360). -/
def execMroute (s : State) : Host.Outcome State Fault Refusal := launchRun .me .mroute s
/-- MACCLD (R351). -/
def execMaccld (s : State) : Host.Outcome State Fault Refusal := launchRun .me .maccld s
/-- CPY (R316). -/
def execCpy (ch : Bool) (codec : Codec) (win : BitVec 3) (s : State) : Host.Outcome State Fault Refusal :=
  launchRun .ce (.cpy ch codec win) s
/-- CPYS (R321). -/
def execCpys (codec : Codec) (win : BitVec 3) (s : State) : Host.Outcome State Fault Refusal :=
  launchRun .ce (.cpys codec win) s
/-- CPYH (R318). -/
def execCpyh (s : State) : Host.Outcome State Fault Refusal := launchRun .ce .cpyh s
/-- CPYP (R319). -/
def execCpyp (ch : Bool) (codec : Codec) (sl : Bool) (win : BitVec 3) (s : State) :
    Host.Outcome State Fault Refusal :=
  launchRun .ce (.cpyp ch codec sl win) s
/-- CGATH (R310). -/
def execCgath (size : GathSize) (s : State) : Host.Outcome State Fault Refusal := launchRun .ce (.cgath size) s
/-- CSTRM (R323). -/
def execCstrm (win : BitVec 3) (s : State) : Host.Outcome State Fault Refusal := launchRun .ce (.cstrm win) s
/-- CSINK (R322). -/
def execCsink (s : State) : Host.Outcome State Fault Refusal := launchRun .ce .csink s
/-- CFILL (R309). -/
def execCfill (s : State) : Host.Outcome State Fault Refusal := launchRun .ce .cfill s

/-! ## Status (R170, R171) -/

/-- EWAIT (R170, R330): a switch point; the operations it waited for come before what follows (R192). -/
def execEwait (g : Guard) (e : Engine) (s : State) : Host.Outcome State Fault Refusal :=
  switchRun g s fun c =>
    if s.pendCount c e = 0 then .ok (((s.joinQueue c e).invalidate c).advance c true)
    else .error (.park (.engine e) none)

/-- The status word of an engine for a context (R171). -/
def State.engStatus (s : State) (c : CtxId) (e : Engine) : Word :=
  let x := s.eng c.coreId e
  let (st, chain) := match e with
    | .me => ((s.ctx c).mest, false)
    | .ce => ((s.ctx c).cest, (s.ctx c).chain.isSome)
  let bit (b : Bool) (n : Nat) : Nat := if b then 2 ^ n else 0
  BitVec.ofNat 64 (st.done.toNat * 2 ^ 48 + st.fcode.toNat * 2 ^ 40 + s.pendCount c e * 256 + bit chain 6
    + bit x.shadow.isSome 5 + bit x.active.isSome 4 + (s.stack c e).length % 16)

/-- Change what a context remembers of an engine's operations. -/
def State.onStat (s : State) (c : CtxId) (e : Engine) (f : EngStat → EngStat) : State :=
  s.onCtx c fun x => match e with
    | .me => { x with mest := f x.mest }
    | .ce => { x with cest := f x.cest }

/-- ESTAT (R170, R330): FCODE is cleared after the read. -/
def execEstat (g : Guard) (w : Bool) (d : GReg) (e : Engine) (clr : Bool) (s : State) :
    Host.Outcome State Fault Refusal :=
  plainRun g s fun c => do
    s.useDestG c w d
    let v := s.engStatus c e
    let s := if clr then s.onStat c e fun x => { x with fcode := 0 } else s
    return (s.resultG c w d v []).advance c false

/-! ## The format table (R336, R337) -/

/-- FTSET (R337). -/
def execFtset (g : Guard) (a : Src) (n : BitVec 5) (s : State) : Host.Outcome State Fault Refusal :=
  plainRun g s fun c => do
    let v ← s.readSrc c a
    return (s.onCore c.coreId fun x => { x with fmt := Map.put x.fmt n.toNat v }).advance c false

/-- FTGET (R337). -/
def execFtget (g : Guard) (w : Bool) (d : GReg) (n : BitVec 5) (s : State) : Host.Outcome State Fault Refusal :=
  plainRun g s fun c => s.finishG c w d ((s.core c.coreId).entry n.toNat) []

/-- FTIDX (R337). -/
def execFtidx (g : Guard) (v z : Bool) (base : BitVec 5) (s : State) : Host.Outcome State Fault Refusal :=
  plainRun g s fun c =>
    let b : BitVec 16 := BitVec.ofNat 16 ((if v then 2 ^ 15 else 0) + (if z then 256 else 0) + base.toNat)
    .ok ((s.onCtl c fun k => { k with ftbind := b }).advance c false)

end Sys2Proof.Machine
end

