-- ==== Sys2Proof/Machine/Vector.lean ====
section
/-! DEFINITION. The vector instructions (R392 to R402, R405, R406). -/

namespace Sys2Proof.Machine

/-! ## Arithmetic (R392) -/

/-- Run an arithmetic instruction of two or three sources of its type: `fi` is its exact integer result, `ff`
its exact float result with its validity. -/
def arithRun (h : VHead) (sat : Bool) (srcs : List VSrc) (s : State) (fi : List Int → Int)
    (ff : RoundMode → List Fl → Fl × Bool) : Host.Outcome State Fault Refusal :=
  let w := h.t.bits
  vecRun h.k h.w h.d (DTy.ofTy h.t) (srcs.map fun a => (a, w)) [] h.t.lanes s fun c act _ vs =>
    laneMap h.t.lanes act fun i =>
      let xs := vs.map fun v => laneAt w v i
      if h.t.isFloat then
        let fm := tyFmt h.t
        let rm := s.fpRound c
        let (x, inv) := ff rm (xs.map fm.value)
        foutLane (fm.finish rm (s.fpSat c) inv x)
      else
        let x := fi (xs.map fun b => intOf h.t.isSigned w b)
        if sat then satLane w (satInt h.t.isSigned w x) else (intBits w x, evNone)

/-- The first operand. -/
def arg0 {α : Type} (d : α) (xs : List α) : α := xs.getD 0 d
/-- The second operand. -/
def arg1 {α : Type} (d : α) (xs : List α) : α := xs.getD 1 d
/-- The third operand. -/
def arg2 {α : Type} (d : α) (xs : List α) : α := xs.getD 2 d

/-- VADD (R392). -/
def execVadd (h : VHead) (sat : Bool) (a b : VSrc) (s : State) : Host.Outcome State Fault Refusal :=
  arithRun h sat [a, b] s (fun xs => arg0 0 xs + arg1 0 xs) fun rm xs => (arg0 .nan xs).add rm (arg1 .nan xs)

/-- VSUB (R392). -/
def execVsub (h : VHead) (sat : Bool) (a b : VSrc) (s : State) : Host.Outcome State Fault Refusal :=
  arithRun h sat [a, b] s (fun xs => arg0 0 xs - arg1 0 xs) fun rm xs => (arg0 .nan xs).add rm (arg1 .nan xs).negate

/-- VMUL (R392). -/
def execVmul (h : VHead) (sat : Bool) (a b : VSrc) (s : State) : Host.Outcome State Fault Refusal :=
  arithRun h sat [a, b] s (fun xs => arg0 0 xs * arg1 0 xs) fun _ xs => (arg0 .nan xs).mul (arg1 .nan xs)

/-- VFMA (R392): one rounding. -/
def execVfma (h : VHead) (a b c : VSrc) (s : State) : Host.Outcome State Fault Refusal :=
  arithRun h false [a, b, c] s (fun xs => arg0 0 xs * arg1 0 xs + arg2 0 xs) fun rm xs =>
    Fl.fma rm (arg0 .nan xs) (arg1 .nan xs) (arg2 .nan xs)

/-- Run an instruction whose lanes are bits computed from bits, with no event. -/
def bitsRun (h : VHead) (srcs : List VSrc) (s : State) (f : Nat → List Nat → Nat) :
    Host.Outcome State Fault Refusal :=
  let w := h.t.bits
  vecRun h.k h.w h.d (DTy.ofTy h.t) (srcs.map fun a => (a, w)) [] h.t.lanes s fun _ act _ vs =>
    laneMap h.t.lanes act fun i => (f w (vs.map fun v => laneAt w v i), evNone)

/-- The smaller (or larger) of two elements (R392): −0 is smaller than +0, and a NaN gives the canonical
NaN. -/
def minMax (t : ETy) (isMin : Bool) (a b : Nat) : Nat :=
  if t.isFloat then
    let fm := tyFmt t
    let x := fm.value a
    let y := fm.value b
    if x.isNan || y.isNan then fm.nanBits
    else if x.eq y then (if fm.neg a == isMin then a else b)
    else if x.lt y == isMin then a else b
  else
    let x := intOf t.isSigned t.bits a
    let y := intOf t.isSigned t.bits b
    if decide (x ≤ y) == isMin then a else b

/-- VMIN (R392). -/
def execVmin (h : VHead) (a b : VSrc) (s : State) : Host.Outcome State Fault Refusal :=
  bitsRun h [a, b] s fun _ xs => minMax h.t true (arg0 0 xs) (arg1 0 xs)

/-- VMAX (R392). -/
def execVmax (h : VHead) (a b : VSrc) (s : State) : Host.Outcome State Fault Refusal :=
  bitsRun h [a, b] s fun _ xs => minMax h.t false (arg0 0 xs) (arg1 0 xs)

/-- |x| of an element (R392). -/
def absLane (t : ETy) (b : Nat) : Nat :=
  if t.isFloat then
    let fm := tyFmt t
    if (fm.value b).isNan then fm.nanBits else b % fm.signBit
  else intBits t.bits (intOf t.isSigned t.bits b).natAbs

/-- −x of an element (R392). -/
def negLane (t : ETy) (b : Nat) : Nat :=
  if t.isFloat then
    let fm := tyFmt t
    if (fm.value b).isNan then fm.nanBits else if fm.neg b then b - fm.signBit else b + fm.signBit
  else intBits t.bits (-(intOf t.isSigned t.bits b))

/-- VABS (R392). -/
def execVabs (h : VHead) (a : VSrc) (s : State) : Host.Outcome State Fault Refusal :=
  bitsRun h [a] s fun _ xs => absLane h.t (arg0 0 xs)

/-- VNEG (R392). -/
def execVneg (h : VHead) (a : VSrc) (s : State) : Host.Outcome State Fault Refusal :=
  bitsRun h [a] s fun _ xs => negLane h.t (arg0 0 xs)

/-- VDOT (R393). -/
def execVdot (k : KReg) (w : Bool) (d : VDst) (a b c : VSrc) (s : State) : Host.Outcome State Fault Refusal :=
  vecRun k w d { w := 32, sgn := true } [(a, 8), (b, 8), (c, 32)] [] 16 s fun _ act _ vs =>
    laneMap 16 act fun i =>
      let prod (j : Nat) : Int :=
        intOf true 8 (laneAt 8 (arg0 0 vs) (4 * i + j)) * intOf true 8 (laneAt 8 (arg1 0 vs) (4 * i + j))
      (intBits 32 (intOf true 32 (laneAt 32 (arg2 0 vs) i) + prod 0 + prod 1 + prod 2 + prod 3), evNone)

/-! ## Bitwise operations and shifts (R396) -/

/-- VAND (R396). -/
def execVand (h : VHead) (a b : VSrc) (s : State) : Host.Outcome State Fault Refusal :=
  bitsRun h [a, b] s fun _ xs => arg0 0 xs &&& arg1 0 xs
/-- VOR (R396). -/
def execVor (h : VHead) (a b : VSrc) (s : State) : Host.Outcome State Fault Refusal :=
  bitsRun h [a, b] s fun _ xs => arg0 0 xs ||| arg1 0 xs
/-- VXOR (R396). -/
def execVxor (h : VHead) (a b : VSrc) (s : State) : Host.Outcome State Fault Refusal :=
  bitsRun h [a, b] s fun _ xs => arg0 0 xs ^^^ arg1 0 xs
/-- VNOT (R396). -/
def execVnot (h : VHead) (a : VSrc) (s : State) : Host.Outcome State Fault Refusal :=
  bitsRun h [a] s fun w xs => 2 ^ w - 1 - arg0 0 xs
/-- VSHL (R396). -/
def execVshl (h : VHead) (a b : VSrc) (s : State) : Host.Outcome State Fault Refusal :=
  bitsRun h [a, b] s fun w xs => arg0 0 xs * 2 ^ (arg1 0 xs % w) % 2 ^ w
/-- VSHR (R396). -/
def execVshr (h : VHead) (a b : VSrc) (s : State) : Host.Outcome State Fault Refusal :=
  bitsRun h [a, b] s fun w xs => arg0 0 xs / 2 ^ (arg1 0 xs % w)
/-- VSAR (R396): filled with the lane's top bit, whatever the signedness. -/
def execVsar (h : VHead) (a b : VSrc) (s : State) : Host.Outcome State Fault Refusal :=
  bitsRun h [a, b] s fun w xs => intBits w (intOf true w (arg0 0 xs) / 2 ^ (arg1 0 xs % w))

/-! ## Compare and select (R397, R398) -/

/-- The condition of VCMP on two elements (R397). -/
def vcondHolds (t : ETy) (cond : VCond) (a b : Nat) : Bool :=
  if t.isFloat then
    let x := (tyFmt t).value a
    let y := (tyFmt t).value b
    let nan := x.isNan || y.isNan
    match cond with
    | .eq => x.eq y
    | .ne => !x.eq y
    | .lt => !nan && x.lt y
    | .le => !nan && !y.lt x
    | .gt => !nan && y.lt x
    | .ge => !nan && !x.lt y
    | .tst => false
    | .un => nan
  else
    let x := intOf t.isSigned t.bits a
    let y := intOf t.isSigned t.bits b
    match cond with
    | .eq => x == y
    | .ne => x != y
    | .lt => decide (x < y)
    | .le => decide (x ≤ y)
    | .gt => decide (y < x)
    | .ge => decide (y ≤ x)
    | .tst => a &&& b != 0
    | .un => false

/-- VCMP (R397): it writes a predicate and pushes nothing. -/
def execVcmp (k : KReg) (t : ETy) (d : KReg) (cond : VCond) (a b : VSrc) (s : State) :
    Host.Outcome State Fault Refusal :=
  let c := s.cur
  settle c s (do
    s.latchOk c a
    s.latchOk c b
    let x ← s.vsrc c a t.bits
    let y ← s.vsrc c b t.bits
    s.argsOk c [x, y]
    let s ← s.restoreReads c [x, y]
    let act := s.laneMask c k
    let (s', vs) := s.argVals c [x, y]
    let old := (s.ctx c).regs.getK d
    let v := packNat 1 ((List.range t.lanes).map fun i =>
      (if act i then vcondHolds t cond (laneAt t.bits (arg0 0 vs) i) (laneAt t.bits (arg1 0 vs) i)
       else old.getLsbD i).toNat)
    let ds := s.deps c (vsrcKeys a ++ vsrcKeys b ++ [depK k] ++
      if (List.range t.lanes).all act then [] else [depK d])
    let s' := s'.resultK c d (BitVec.ofNat 64 v) ds
    return (s'.vecOp c ((List.range t.lanes).any act) evNone .none).advance c false)

/-- VSEL (R398). -/
def execVsel (h : VHead) (a b : VSrc) (k : KReg) (neg : Bool) (s : State) : Host.Outcome State Fault Refusal :=
  let w := h.t.bits
  vecRun h.k h.w h.d (DTy.ofTy h.t) [(a, w), (b, w)] [depK k] h.t.lanes s fun c act _ vs =>
    let sel := s.laneMask c k
    laneMap h.t.lanes act fun i =>
      (laneAt w (if sel i != neg then arg0 0 vs else arg1 0 vs) i, evNone)

/-! ## Conversions (R401) -/

/-- Convert an element from a type to a type (R112). -/
def convLane (rm : RoundMode) (sat : Bool) (src dst : ETy) (b : Nat) : Nat × Events :=
  if src.isFloat then
    let x := (tyFmt src).value b
    if dst.isFloat then foutLane ((tyFmt dst).finish rm sat false x)
    else satLane dst.bits (flToInt rm dst.isSigned dst.bits x)
  else
    let n := intOf src.isSigned src.bits b
    if dst.isFloat then foutLane ((tyFmt dst).finish rm sat false (Fl.ofInt n))
    else satLane dst.bits (satInt dst.isSigned dst.bits n)

/-- VCVT (R401). -/
def execVcvt (h : VHead) (src : ETy) (part : BitVec 2) (a : VSrc) (s : State) :
    Host.Outcome State Fault Refusal :=
  let ws := src.bits
  let wd := h.t.bits
  let n := 512 / max ws wd
  let p := part.toNat
  vecRun h.k h.w h.d (DTy.ofTy h.t) [(a, ws)] [] h.t.lanes s fun c act _ vs =>
    let from' (lane : Nat) : Option Nat :=
      if ws ≤ wd then some (p * n + lane)
      else if p * n ≤ lane && lane < p * n + n then some (lane - p * n) else none
    laneMap h.t.lanes (fun i => act i && (from' i).isSome) fun i =>
      convLane (s.fpRound c) (s.fpSat c) src h.t (laneAt ws (arg0 0 vs) ((from' i).getD 0))

/-! ## Quantize and dequantize (R119, R405) -/

/-- Bits of a code. -/
def codeBits : CodeTy → Nat
  | .s8 | .u8 => 8
  | .u4 => 4

/-- A code is signed. -/
def codeSigned : CodeTy → Bool
  | .s8 => true
  | .u8 | .u4 => false

/-- The zero point in use, and whether it was clamped (R405). -/
def zeroPoint (ct : CodeTy) (zp : BitVec 8) : Nat × Bool :=
  match ct with
  | .u4 => if 15 < zp.toNat then (15, true) else (zp.toNat, false)
  | .s8 | .u8 => (zp.toNat, false)

/-- The events of a clamped zero point: class 4, once for an instruction with an active lane. -/
def clampEv (b any : Bool) : Events := if b && any then evOne evNone 4 else evNone

/-- One code of VQNT (R119, R405). -/
def quantLane (rm : RoundMode) (ct : CodeTy) (z : Nat) (x r : Fl) : Nat × Events :=
  let (p, inv) := x.mul r
  if inv || p.isNan then (z, evOne evNone 0)
  else
    let q := match p with
      | .nan => (0, false)
      | .inf n => (if n then intMin (codeSigned ct) (codeBits ct) else intMax (codeSigned ct) (codeBits ct), true)
      | .num n m e => satInt (codeSigned ct) (codeBits ct) (roundToInt rm n m e + z)
    (intBits (codeBits ct) q.1, if q.2 then evOne evNone (if codeSigned ct then 0 else 4) else evNone)

/-- VQNT (R405): codes are packed from the low end, and what lies beyond them becomes zero. -/
def execVqnt (h : VHead) (ct : CodeTy) (zp : BitVec 8) (a b : VSrc) (s : State) :
    Host.Outcome State Fault Refusal :=
  let (z, cl) := zeroPoint ct zp
  let n := h.t.lanes
  let cw := codeBits ct
  vecRun h.k h.w h.d { w := cw, sgn := codeSigned ct } [(a, h.t.bits), (b, 32)] [] n s fun c act _ vs =>
    let r := f32.value (laneAt 32 (arg1 0 vs) 0)
    let m := laneMap n act fun i =>
      quantLane (s.fpRound c) ct z ((tyFmt h.t).value (laneAt h.t.bits (arg0 0 vs) i)) r
    { lanes := m.lanes ++ List.replicate (512 / cw - n) (some 0),
      ev := evAdd m.ev (clampEv cl ((List.range n).any act)) }

/-- VDQNT (R405). -/
def execVdqnt (h : VHead) (ct : CodeTy) (zp : BitVec 8) (a b : VSrc) (s : State) :
    Host.Outcome State Fault Refusal :=
  let (z, cl) := zeroPoint ct zp
  let n := h.t.lanes
  let cw := codeBits ct
  vecRun h.k h.w h.d (DTy.ofTy h.t) [(a, 8), (b, 32)] [] n s fun c act _ vs =>
    let sc := f32.value (laneAt 32 (arg1 0 vs) 0)
    let m := laneMap n act fun i =>
      let q := intOf (codeSigned ct) cw (laneAt cw (arg0 0 vs) i) - z
      let (x, inv) := sc.mul (Fl.ofInt q)
      foutLane ((tyFmt h.t).finish (s.fpRound c) (s.fpSat c) inv x)
    { m with ev := evAdd m.ev (clampEv cl ((List.range n).any act)) }

/-! ## The exact reduction (R120, R121, R394, R395) -/

/-- The exponent field of an F32 pattern. -/
def f32Exp (b : Nat) : Nat := b / 2 ^ 23 % 256

/-- The block exponent of the active lanes (R120): an infinity or a NaN has exponent field 255. -/
def blockExp (act : Nat → Bool) (v : Vec) : Nat :=
  (List.range 16).foldl (fun e i => if act i then max e (f32Exp (laneAt 32 v i)) else e) 1

/-- VEXPM (R394). -/
def execVexpm (k : KReg) (w : Bool) (d : VDst) (a : VSrc) (s : State) : Host.Outcome State Fault Refusal :=
  vecRun k w d { w := 32, sgn := false } [(a, 32)] [] 16 s fun _ act _ vs =>
    VRes.scalar 32 (blockExp act (arg0 0 vs)) evNone

/-- A float lane to an integer mantissa at exponent E (R121, R395). -/
def toIntLane (e b : Nat) : Nat × Events :=
  if e = 255 then (0, evNone)
  else
    match f32.value b with
    | .num n m x => satLane 32 (satInt true 32 (roundToInt .rne n m (x + 148 - e)))
    | .nan => satLane 32 (0, true)
    | .inf n => satLane 32 (flToInt .rne true 32 (.inf n))

/-- An integer at exponent E back to a float (R121, R395). -/
def toFloatLane (e : Nat) (n : Int) : Nat :=
  if e = 255 then f32.nanBits
  else (f32.round .rne false (decide (n < 0)) n.natAbs ((e : Int) - 148) false).bits

/-- VALIGN (R395). -/
def execValign (k : KReg) (w : Bool) (d : VDst) (dir : AlignDir) (a b : VSrc) (s : State) :
    Host.Outcome State Fault Refusal :=
  vecRun k w d { w := 32, sgn := dir == .toi } [(a, 32), (b, 32)] [] 16 s fun _ act _ vs =>
    let e (i : Nat) : Nat := max (laneAt 32 (arg1 0 vs) i % 256) 1
    let x (i : Nat) : Nat := laneAt 32 (arg0 0 vs) i
    match dir with
    | .toi => laneMap 16 act fun i => toIntLane (e i) (x i)
    | .tof => laneMap 16 act fun i => (toFloatLane (e i) (intOf true 32 (x i)), evNone)
    | .tof64 => laneMap 16 (fun i => act i && decide (i < 8)) fun i =>
        (toFloatLane (e i) (intOf true 64 (x (2 * i + 1) * 2 ^ 32 + x (2 * i))), evNone)

/-! ## Reductions (R406) -/

/-- One step of a reduction: bits and events. -/
def redStep (rm : RoundMode) (sat : Bool) (t : ETy) (op : RedOp) (a b : Nat) : Nat × Events :=
  match op with
  | .add =>
    if t.isFloat then
      let fm := tyFmt t
      let (x, inv) := (fm.value a).add rm (fm.value b)
      foutLane (fm.finish rm sat inv x)
    else ((a + b) % 2 ^ t.bits, evNone)
  | .min => (minMax t true a b, evNone)
  | .max => (minMax t false a b, evNone)
  | .and => (a &&& b, evNone)
  | .or => (a ||| b, evNone)
  | .xor => (a ^^^ b, evNone)

/-- The identity of a reduction (R406). -/
def redIdentity (t : ETy) (op : RedOp) : Nat :=
  match op with
  | .add | .or | .xor => 0
  | .and => 2 ^ t.bits - 1
  | .min => if t.isFloat then (tyFmt t).infBits else intBits t.bits (intMax t.isSigned t.bits)
  | .max =>
    if t.isFloat then (tyFmt t).signBit + (tyFmt t).infBits else intBits t.bits (intMin t.isSigned t.bits)

/-- A node of the tree: absent, or its bits. -/
abbrev RedNode := Option Nat

/-- One level of the tree (R406). -/
def redLevel (step : Nat → Nat → Nat × Events) : List RedNode → List RedNode × Events
  | a :: b :: rest =>
    let (r, e) := redLevel step rest
    match a, b with
    | some x, some y => (some (step x y).1 :: r, evAdd (step x y).2 e)
    | some x, none | none, some x => (some x :: r, e)
    | none, none => (none :: r, e)
  | [a] => ([a], evNone)
  | [] => ([], evNone)

/-- The tree of a reduction. -/
def redTree (step : Nat → Nat → Nat × Events) : Nat → List RedNode → Events → RedNode × Events
  | 0, xs, e => (xs.headD none, e)
  | fuel + 1, xs, e =>
    match xs with
    | [] | [_] => (xs.headD none, e)
    | _ =>
      let (ys, e') := redLevel step xs
      redTree step fuel ys (evAdd e e')

/-- A lane as VSCAN and VRED take it: a NaN is the canonical one, so that a result that is a lone lane is too (R108). -/
def quietLane (t : ETy) (x : Nat) : Nat :=
  if t.isFloat && ((tyFmt t).value x).isNan then (tyFmt t).nanBits else x

/-- VRED (R406): an integer sum is an S32. -/
def execVred (h : VHead) (op : RedOp) (a : VSrc) (s : State) : Host.Outcome State Fault Refusal :=
  let t := h.t
  let n := t.lanes
  let intSum := op == .add && !t.isFloat
  let ty : DTy := if intSum then { w := 32, sgn := true } else DTy.ofTy t
  vecRun h.k h.w h.d ty [(a, t.bits)] [] n s fun c act _ vs =>
    let x (i : Nat) : Nat := laneAt t.bits (arg0 0 vs) i
    if intSum then
      let sum := (List.range n).foldl (fun acc i =>
        if act i then acc + intOf t.isSigned t.bits (x i) else acc) (0 : Int)
      VRes.scalar 32 (intBits 32 sum) evNone
    else
      let leaves := (List.range n).map fun i => if act i then some (quietLane t (x i)) else none
      let (r, ev) := redTree (redStep (s.fpRound c) (s.fpSat c) t op) 6 leaves evNone
      VRes.scalar ty.w (r.getD (redIdentity t op)) ev

/-- The prefixes of VSCAN from a lane on. -/
def scanGo (step : Nat → Nat → Nat × Events) : List RedNode → RedNode → List (Option Nat) × Events
  | [], _ => ([], evNone)
  | none :: rest, acc =>
    let (r, e) := scanGo step rest acc
    (none :: r, e)
  | some x :: rest, none =>
    let (r, e) := scanGo step rest (some x)
    (some x :: r, e)
  | some x :: rest, some y =>
    let (z, ev) := step y x
    let (r, e) := scanGo step rest (some z)
    (some z :: r, evAdd ev e)

/-- VSCAN (R406). -/
def execVscan (h : VHead) (op : RedOp) (a : VSrc) (s : State) : Host.Outcome State Fault Refusal :=
  let t := h.t
  vecRun h.k h.w h.d (DTy.ofTy t) [(a, t.bits)] [] t.lanes s fun c act _ vs =>
    let xs := (List.range t.lanes).map fun i => if act i then some (quietLane t (laneAt t.bits (arg0 0 vs) i)) else none
    let (r, ev) := scanGo (redStep (s.fpRound c) (s.fpSat c) t op) xs none
    { lanes := r, ev := ev }

/-! ## Moves (R399, R400) -/

/-- VPERM (R399). -/
def execVperm (h : VHead) (a b : VSrc) (s : State) : Host.Outcome State Fault Refusal :=
  let w := h.t.bits
  vecRun h.k h.w h.d (DTy.ofTy h.t) [(a, w), (b, w)] [] h.t.lanes s fun _ act _ vs =>
    laneMap h.t.lanes act fun i =>
      (laneAt w (arg0 0 vs) (laneAt w (arg1 0 vs) i % h.t.lanes), evNone)

/-- VBCAST (R399). -/
def execVbcast (h : VHead) (a : VSrc) (j : BitVec 6) (s : State) : Host.Outcome State Fault Refusal :=
  let w := h.t.bits
  vecRun h.k h.w h.d (DTy.ofTy h.t) [(a, w)] [] h.t.lanes s fun _ act _ vs =>
    laneMap h.t.lanes act fun _ => (laneAt w (arg0 0 vs) j.toNat, evNone)

/-- VCOMP (R400). -/
def execVcomp (h : VHead) (a : VSrc) (k : KReg) (s : State) : Host.Outcome State Fault Refusal :=
  let w := h.t.bits
  vecRun h.k h.w h.d (DTy.ofTy h.t) [(a, w)] [depK k] h.t.lanes s fun c act _ vs =>
    let sel := s.laneMask c k
    let picked := ((List.range h.t.lanes).filter sel).map fun i => laneAt w (arg0 0 vs) i
    laneMap h.t.lanes act fun i => (picked.getD i 0, evNone)

/-- VMOV (R399). -/
def execVmov (h : VHead) (a : VSrc) (s : State) : Host.Outcome State Fault Refusal :=
  bitsRun h [a] s fun _ xs => arg0 0 xs

/-- VINS (R399): the mask bit of lane j decides whether the write takes place. -/
def execVins (h : VHead) (a : VSrc) (j : BitVec 6) (s : State) : Host.Outcome State Fault Refusal :=
  let w := h.t.bits
  vecRun h.k h.w h.d (DTy.ofTy h.t) [(a, w)] [] h.t.lanes s fun _ act _ vs =>
    laneMap h.t.lanes (fun i => act i && i == j.toNat) fun _ => (laneAt w (arg0 0 vs) 0, evNone)

/-- VEXT (R399): a scalar result, with no mask. -/
def execVext (w : Bool) (t : ETy) (d : VDst) (a : VSrc) (j : BitVec 6) (s : State) :
    Host.Outcome State Fault Refusal :=
  vecRun 0 w d (DTy.ofTy t) [(a, t.bits)] [] t.lanes s fun _ _ _ vs =>
    VRes.scalar t.bits (laneAt t.bits (arg0 0 vs) j.toNat) evNone

/-- VLI (R400). -/
def execVli (h : VHead) (imm : BitVec 11) (s : State) : Host.Outcome State Fault Refusal :=
  let n : Int := imm.toInt
  let b := if h.t.isFloat then ((tyFmt h.t).finish .rne false false (Fl.ofInt n)).bits else intBits h.t.bits n
  vecRun h.k h.w h.d (DTy.ofTy h.t) [] [] h.t.lanes s fun _ act _ _ => laneMap h.t.lanes act fun _ => (b, evNone)

/-! ## Special functions (R402) -/

/-- Run a special function. -/
def specialRun (h : VHead) (a : VSrc) (s : State) (f : FFmt → Bool → Fl → FOut) :
    Host.Outcome State Fault Refusal :=
  let w := h.t.bits
  vecRun h.k h.w h.d (DTy.ofTy h.t) [(a, w)] [] h.t.lanes s fun c act _ vs =>
    laneMap h.t.lanes act fun i =>
      foutLane (f (tyFmt h.t) (s.fpSat c) ((tyFmt h.t).value (laneAt w (arg0 0 vs) i)))

/-- VEXP2 (R402). -/
def execVexp2 (h : VHead) (a : VSrc) (s : State) : Host.Outcome State Fault Refusal :=
  specialRun h a s fun fm sat x => fm.exp2 sat x
/-- VLOG2 (R402). -/
def execVlog2 (h : VHead) (a : VSrc) (s : State) : Host.Outcome State Fault Refusal :=
  specialRun h a s fun fm sat x => fm.log2 sat x
/-- VRCP (R402). -/
def execVrcp (h : VHead) (a : VSrc) (s : State) : Host.Outcome State Fault Refusal :=
  specialRun h a s fun fm sat x => fm.rcp sat x
/-- VRSQ (R402). -/
def execVrsq (h : VHead) (a : VSrc) (s : State) : Host.Outcome State Fault Refusal :=
  specialRun h a s fun fm sat x => fm.rsq sat x
/-- VTANH (R402). -/
def execVtanh (h : VHead) (a : VSrc) (s : State) : Host.Outcome State Fault Refusal :=
  specialRun h a s fun fm sat x => fm.tanh sat x

end Sys2Proof.Machine
end

