-- ==== Sys2Proof/Machine/Matrix.lean ====
section
/-! DEFINITION. The matrix engine: the reads of MMA and MACCLD (R115, R131, R176, R179), the arithmetic of the
cells (R109, R116, R117), and the conversion of a drain (R112, R118, R178). -/

namespace Sys2Proof.Machine

/-! ## Reading scratch and Pantry -/

/-- A byte of scratch as an operation reads it: as it was sampled, or as it is (R176). -/
def CoreSt.opByte (x : CoreSt) (op : EngOp) (a : Nat) : Nat :=
  match Map.find op.sampled a with
  | some w => w
  | none => (Map.get x.scratch 0 a).toNat

/-- The place of a sampled byte of the Pantry among the sampled bytes. -/
def pantryKey (a : Nat) : Nat := 2 ^ 32 + a

/-- A byte of the Pantry as an operation reads it (R176). -/
def CoreSt.opPantry (x : CoreSt) (op : EngOp) (a : Nat) : Nat :=
  match Map.find op.sampled (pantryKey a) with
  | some w => w
  | none => (Map.get x.pantry 0 a).toNat

/-- The address in the Pantry of a byte of a handle in a slice (R131, R132). -/
def HandleSt.slice (h : HandleSt) (j off : Nat) : Nat := j * 65536 + h.base * 8 + off

/-- The bytes of a slice that hold a handle's data (R131). -/
def HandleSt.sliceData (h : HandleSt) : Nat := h.rows * h.rb / 8

/-- The code of element k of column j, as bits (R131, R106). -/
def CoreSt.bElem (x : CoreSt) (op : EngOp) (h : HandleSt) (k j : Nat) : Nat :=
  if h.rb = 4 then
    let b := x.opPantry op (h.slice j (k / 2))
    if k % 2 = 0 then b % 16 else b / 16
  else if h.rb = 8 then x.opPantry op (h.slice j k)
  else x.opPantry op (h.slice j (2 * k)) + 256 * x.opPantry op (h.slice j (2 * k + 1))

/-- Element k of row i of an A operand, as bits (R175). -/
def CoreSt.aElem (x : CoreSt) (op : EngOp) (h : HandleSt) (row : Nat) (flt : Bool) (k : Nat) : Nat :=
  if flt then x.opByte op (h.addr row (2 * k)) + 256 * x.opByte op (h.addr row (2 * k + 1))
  else x.opByte op (h.addr row k)

/-- A group's metadata of a column: the bits of its scale, and its zero point (R131). -/
def CoreSt.groupMeta (x : CoreSt) (op : EngOp) (h : HandleSt) (m j : Nat) : Nat × Nat :=
  let a := h.slice j (h.sliceData + 4 * m)
  (x.opPantry op a + 256 * x.opPantry op (a + 1), x.opPantry op (a + 2))

/-! ## Cells (R116, R117) -/

/-- The cells of one launch share these: the scales and zero points of the groups of a column, widened, and the
values of the entry. -/
structure MmaArgs where
  group : Nat
  asc   : Fl
  sat   : Bool
  deriving DecidableEq, Repr

/-- Add a rounded term to an accumulator: round (acc + term) once (R116). -/
def accAdd (sat : Bool) (acc : Nat) (t : FOut) : Nat × Events :=
  let (r, inv) := Fl.add .rne (f32.value acc) (f32.value t.bits)
  let o := f32.finish .rne sat inv r
  (o.bits, evAdd (foutEv t) (foutEv o))

/-- RoundNE of I × sB × sA (R116): a NaN counts only when no input is one (R108). -/
def scaledTerm (sat : Bool) (i : Int) (sb sa : Fl) : FOut :=
  let (p, j) := (Fl.ofInt i).mul sb
  let (q, k) := p.mul sa
  f32.finish .rne sat ((j || k) && !sb.isNan && !sa.isNan) q

/-- The exact sum of products of integers. -/
def dotInt (as bs : List Int) : Int := (List.zipWith (· * ·) as bs).foldl (· + ·) 0

/-- The groups of an integer cell, in increasing order (R116). -/
def groupSum (m : MmaArgs) (acc : Nat) : List Int → List Int → List (Fl × Int) → Nat × Events
  | _, _, [] => (acc, evNone)
  | as, bs, (sb, zp) :: rest =>
    let a := as.take m.group
    let i := dotInt a (bs.take m.group) - zp * a.foldl (· + ·) 0
    let (acc, ev) := accAdd m.sat acc (scaledTerm m.sat i sb m.asc)
    let (acc, ev') := groupSum m acc (as.drop m.group) (bs.drop m.group) rest
    (acc, evAdd ev ev')

/-- The exact sum of a chunk of products, and whether it is invalid with no NaN among its operands (R117). -/
def chunkSum (as bs : List Fl) : Fl × Bool :=
  let ps := List.zipWith Fl.mul as bs
  let nan := (as ++ bs).any Fl.isNan
  let inv := ps.any fun p => p.2
  let pos := ps.any fun p => p.1 == .inf false
  let neg := ps.any fun p => p.1 == .inf true
  if nan || inv || (pos && neg) then (.nan, !nan)
  else if pos then (.inf false, false)
  else if neg then (.inf true, false)
  else
    let z := ps.all fun p => match p.1 with
      | .num n m _ => n && m == 0
      | .nan | .inf _ => false
    let t := ps.foldl (fun (acc : Fl) (p : Fl × Bool) => (Fl.add .rne acc p.1).1) (.num false 0 0)
    match t with
    | .num _ 0 _ => (.num z 0 0, false)
    | r => (r, false)

/-- The chunks of a float cell, in increasing order (R117). -/
def chunkSteps (sat : Bool) (acc : Nat) (as bs : List Fl) : Nat → Nat × Events
  | 0 => (acc, evNone)
  | n + 1 =>
    let (p, inv) := chunkSum (as.take 8) (bs.take 8)
    let (acc, ev) := accAdd sat acc (f32.finish .rne sat inv p)
    let (acc, ev') := chunkSteps sat acc (as.drop 8) (bs.drop 8) n
    (acc, evAdd ev ev')

/-- Each class counts once for a cell (R124). -/
def evOnce (e : Events) : Events := Vector.ofFn fun i => min 1 e[i]

/-- One cell of a launch (R116, R117): its new bits, and its events. -/
def mmaCell (f : Word) (as bs : List Nat) (groups : List (Fl × Int)) (acc : Nat) : Nat × Events :=
  if fmtFloat f then
    let ta := if fmtAt f = 3 then bf16 else f16
    let tb := if fmtBt f = 3 then bf16 else f16
    let (r, ev) := chunkSteps (fmtSat f) acc (as.map ta.value) (bs.map tb.value) (as.length / 8)
    (r, evOnce ev)
  else
    let ai := as.map (intOf true 8)
    let bi := bs.map (intOf (fmtBt f = 0) 8)
    if fmtAcc f = 0 then
      let t := intOf true 32 acc + dotInt ai bi
      if fmtSat f then
        let (v, clamped) := satInt true 32 t
        (intBits 32 v, if clamped then evOne evNone 0 else evNone)
      else (intBits 32 t, evNone)
    else
      let m : MmaArgs :=
        { group := if fmtGroup f = 0 then as.length else fmtGroup f, asc := f32.value (fmtScale f), sat := fmtSat f }
      let (r, ev) := groupSum m acc ai bi groups
      (r, evOnce ev)

/-- A group's scale and zero point as the cells use them, and whether the zero point was clamped (R109). -/
def groupUse (f : Word) (md : Nat × Nat) : (Fl × Int) × Bool :=
  let z := md.2
  let zp := if fmtBt f = 0 then 0 else if fmtBt f = 2 then min z 15 else z
  ((f16.value md.1, (zp : Int)), fmtBt f = 2 && decide (15 < z))

/-- The bits of a cell; an absent cell is 0. -/
def AccSt.cell (a : AccSt) (i j : Nat) : Nat := (Map.get a.cells 0 (i * 128 + j)).toNat

/-- The cells of a launch have other contents: the list of all, row by row. -/
def cellsOf (rows : List (List Nat)) : Map W32 :=
  ((List.range 8192).zip rows.flatten).filterMap fun p =>
    if p.2 = 0 then none else some (p.1, BitVec.ofNat 32 p.2)

/-- All cells are poisoned. -/
def allPoison : Map Unit := (List.range 8192).map fun n => (n, ())

/-- Sum of events. -/
def evSum (l : List Events) : Events := l.foldl evAdd evNone

/-- The groups of a column of an integer launch with a group size (R115). -/
def CoreSt.columnGroups (x : CoreSt) (op : EngOp) (h : HandleSt) (k k0 j : Nat) : List ((Fl × Int) × Bool) :=
  let f := op.entry
  let g := fmtGroup f
  if g = 0 then [((.num false 1 0, 0), false)]
  else (List.range (k / g)).map fun n => groupUse f (x.groupMeta op h (k0 / g + n) j)

/-- MMA performs (R115 to R117, R357): the accumulators after it, and its events. -/
def CoreSt.mma (x : CoreSt) (op : EngOp) (z : Bool) (ha hb : HandleSt) : AccSt × Events :=
  let f := op.entry
  let k := (op.args.getD 1 0).toNat
  let k0 := argRow (op.args.getD 2 0)
  let r0 := argRow (op.args.getD 3 0)
  let as := (List.range 64).map fun i => (List.range k).map fun n => x.aElem op ha (r0 + i) (fmtFloat f) n
  let cols := (List.range 128).map fun j =>
    let gs := if fmtFloat f || fmtAcc f = 0 then [] else x.columnGroups op hb k k0 j
    ((List.range k).map fun n => x.bElem op hb (k0 + n) j, gs)
  let res := as.zip (List.range 64) |>.map fun a =>
    (cols.zip (List.range 128)).map fun c =>
      mmaCell f a.1 c.1.1 (c.1.2.map fun g => g.1) (if z then 0 else x.acc.cell a.2 c.2)
  let clamps := (cols.flatMap fun c => c.2).filter fun g => g.2
  let ev := evAdd (evSum (res.flatten.map fun r => r.2)) (evNone.set 4 clamps.length)
  ({ x.acc with cells := cellsOf (res.map fun r => r.map fun c => c.1), tagF32 := fmtAcc f == 1, rm := fmtRm f,
                sat := fmtSat f, altered := BitVec.allOnes 128 }, ev)

/-! ## The ECC state of what MMA and MACCLD read (R148) -/

/-- The granules of scratch that `rows` rows of a handle take, `len` bytes from the start of each. -/
def rowGranules (h : HandleSt) (row rows len : Nat) : List Nat :=
  (List.range rows).flatMap fun i =>
    (List.range ((len + 15) / 16)).map fun g => h.addr (row + i) 0 / 16 + g

/-- The granules of the Pantry that an MMA reads: its elements and its metadata. -/
def pantryGranules (op : EngOp) (h : HandleSt) : List Nat :=
  let f := op.entry
  let k := (op.args.getD 1 0).toNat
  let k0 := argRow (op.args.getD 2 0)
  let g := fmtGroup f
  let run (a n : Nat) : List Nat := (List.range ((a % 16 + n + 15) / 16)).map fun i => a / 16 + i
  (List.range 128).flatMap fun j =>
    run (h.slice j (k0 * h.rb / 8)) (k * h.rb / 8) ++
      (if g = 0 || fmtFloat f then [] else run (h.slice j (h.sliceData + 4 * (k0 / g))) (4 * (k / g)))

/-! ## MACCLD (R179) -/

/-- MACCLD performs: the cells, the tag and the drain mode (R179, R351); `bad` gives the poisoned granules. -/
def CoreSt.maccld (x : CoreSt) (op : EngOp) (h : HandleSt) : AccSt :=
  let r0 := argRow (op.args.headD 0)
  let word (i j : Nat) : Nat :=
    let a := h.addr (r0 + i) (4 * j)
    x.opByte op a + 256 * (x.opByte op (a + 1) + 256 * (x.opByte op (a + 2) + 256 * x.opByte op (a + 3)))
  let rows := (List.range 64).map fun i => (List.range 128).map fun j => word i j
  let poison : Map Unit := (List.range 8192).filterMap fun n =>
    if Map.find x.ecc (h.addr (r0 + n / 128) (4 * (n % 128)) / 16) == some .poison then some (n, ()) else none
  { x.acc with cells := cellsOf rows, poison := poison, tagF32 := (h.desc.extractLsb' 28 4).toNat == 7, rm := 0,
               sat := false, altered := BitVec.allOnes 128 }

/-! ## MDRAIN (R178) -/

/-- The element type of a route's TYPE, the t codes of R81. -/
def routeTy (d : Word) : ETy :=
  match (d.extractLsb' 4 4).toNat with
  | 0 => .s8 | 1 => .u8 | 2 => .s16 | 3 => .u16 | 4 => .s32 | 5 => .bf16 | 6 => .f16 | _ => .f32

/-- The kind of a route (R177). -/
def routeKind (d : Word) : Nat := (d.extractLsb' 0 4).toNat

/-- Bytes of an element of a route. -/
def routeBytes (d : Word) : Nat := (routeTy d).bits / 8

/-- One row of a drain, converted under the drain mode (R118): its bytes and its events. -/
def AccSt.drainRow (a : AccSt) (d : Word) (i : Nat) : List Byte × Events :=
  let cells := (List.range 128).map fun j =>
    convLane (roundOf a.rm) a.sat (if a.tagF32 then .f32 else .s32) (routeTy d) (a.cell i j)
  (cells.flatMap fun c => leBytes c.1 (routeBytes d), evSum (cells.map fun c => evOnce c.2))

/-- A run of cells of a row holds a poisoned one. -/
def AccSt.poisoned (a : AccSt) (i j n : Nat) : Bool :=
  (List.range n).any fun q => (Map.find a.poison (i * 128 + j + q)).isSome

/-- A drained row is zeroed (R178); a block whose 64 cells are zeroed is altered no more (R174). -/
def AccSt.zeroRow (a : AccSt) (i : Nat) : AccSt :=
  let inRow (n : Nat) : Bool := n / 128 == i
  { a with cells := Map.dropIf a.cells inRow, poison := Map.dropIf a.poison inRow,
           altered := if i % 8 = 7 then a.altered &&& ~~~(BitVec.ofNat 128 (0xFFFF * 2 ^ (16 * (i / 8)))) else a.altered }

end Sys2Proof.Machine
end

