-- ==== Sys2Proof/Machine/Engines.lean ====
section
/-! DEFINITION. The engines at work: the handles and checks of an operation when it begins (R138, R175 to R184),
how its bytes land in scratch (R136, R148), its tokens, its completion (R168), its faults (R173), and the passing
of chain-held words (R185). -/

namespace Sys2Proof.Machine

/-! ## Parts -/

/-- Change the active operation of an engine. -/
def State.onActive (s : State) (k : CoreId) (e : Engine) (f : EngOp → EngOp) : State :=
  s.onEng k e fun x => { x with active := x.active.map f }

/-- An operation is to end with a fault (R173). -/
def EngOp.fail (op : EngOp) (code : FCode) (addr : Word) : EngOp :=
  if op.failed.isSome then op else { op with failed := some (code, addr) }

/-- The active operation is to end with a fault (R173). -/
def State.failOp (s : State) (k : CoreId) (e : Engine) (code : FCode) (addr : Word) : State :=
  s.onActive k e fun op => op.fail code addr

/-- Count events of the active operation: they reach its context when it ends (R168). -/
def State.countOp (s : State) (k : CoreId) (e : Engine) (ev : Events) : State :=
  s.onActive k e fun op => { op with events := evAdd op.events ev }

/-- Checks that answer with a fault of the engine. -/
abbrev EngChk (α : Type) := Except (FCode × Word) α

/-- Refuse to go on unless a condition holds, with an engine fault. -/
def engMust (b : Bool) (code : FCode) (addr : Word) : EngChk Unit :=
  if b then .ok () else .error (code, addr)

/-- The space of freed handles is zeroed when no operation is left that names them (R134). -/
def State.sweep (s : State) (k : CoreId) : State := s.onCore k fun x => x.sweepFreed

/-! ## Handles -/

/-- What a handle number names for an operation that begins (R133, R134, R226): a handle that was freed after the
operation was captured, the capsule handle of its context, or an allocated handle. -/
def State.opHandle (s : State) (k : CoreId) (op : EngOp) (n : Nat) : Option HandleSt :=
  let x := s.core k
  if n < 0xF0 then
    let old := match op.binds.find? fun b => b.1 == n with
      | some (_, some h) => x.freed.find? fun (f : FreedHandle) => f.ops.contains op.id && f.h.base == h.base && f.h.level1 == h.level1
      | _ => none
    match old with
    | some f => some f.h
    | none => Map.find x.handles n
  else if n = 0xFC + op.ctx then
    match (s.ctx (k.ctx op.ctx)).cap with
    | some c =>
      let usable := match c.sending with
        | some t => t.ops.contains op.id
        | none => true
      if usable then some (capHandle op.ctx c.hdr) else none
    | none => none
  else none

/-- The handle that a packed argument names, or HINVAL. -/
def State.argNamed (s : State) (k : CoreId) (op : EngOp) (w : Word) : EngChk HandleSt :=
  match s.opHandle k op (argHandle w) with
  | some h => .ok h
  | none => .error (.hinval, w)

/-- A scratch handle: a Pantry handle raises HLEVEL. -/
def atLevel0 (h : HandleSt) (w : Word) : EngChk Unit := engMust (!h.level1) .hlevel w

/-- A scratch handle: a sealed Pantry handle raises SEAL-CPY, and another HLEVEL (R138). -/
def copyLevel0 (h : HandleSt) (w : Word) : EngChk Unit :=
  if h.level1 then .error (if h.slot.isSome then .sealCpy else .hlevel, w) else .ok ()

/-- Rows of a scratch handle from that of a packed argument exist. -/
def rowsExist (h : HandleSt) (w : Word) (rows : Nat) : EngChk Unit :=
  engMust (decide (argRow w + rows ≤ h.rows)) .hbound w

/-- The row bytes suit the E-codec (R127). -/
def eRowOk (codec : Codec) (h : HandleSt) (w : Word) : EngChk Unit :=
  engMust (!(codec == .e) || h.rowBytes % 64 == 0) .engArg w

/-! ## Checks when an operation begins -/

/-- The checks of MMA (R175). -/
def State.mmaCheck (s : State) (k : CoreId) (op : EngOp) : EngChk Unit := do
  let f := op.entry
  let wa := op.args.getD 3 0
  let wb := op.args.getD 2 0
  let n := (op.args.getD 1 0).toNat
  let ha ← s.argNamed k op wa
  atLevel0 ha wa
  let hb ← s.argNamed k op wb
  engMust hb.level1 .hlevel wb
  engMust (hb.rb == (if fmtBt f = 2 then 4 else if fmtBt f < 2 then 8 else 16)) .engArg wb
  engMust (decide (argRow wa + 64 ≤ ha.rows) && decide (n * (if fmtFloat f then 2 else 1) ≤ ha.rowBytes)) .hbound wa
  engMust (decide (argRow wb + n ≤ hb.rows)) .hbound wb
  let g := fmtGroup f
  engMust (fmtFloat f || g == 0 || decide (argRow wb / g + n / g ≤ hb.metaRows)) .hbound wb

/-- The checks of MACCLD (R179, R351). -/
def State.maccldCheck (s : State) (k : CoreId) (op : EngOp) : EngChk Unit := do
  let w := op.args.headD 0
  let h ← s.argNamed k op w
  atLevel0 h w
  rowsExist h w 64
  engMust (decide (512 ≤ h.rowBytes)) .hbound w

/-- The packed base of a drain to scratch: the handle of kind 1, or the capsule handle of kind 3 (R178). -/
def drainBase (op : EngOp) (r : Word × Word) : Word :=
  if routeKind r.1 = 3 then handleAddr (BitVec.ofNat 64 (0xFC + op.ctx)) r.2 else r.2

/-- The physical output port of a route of kind 2, or a fault (R178). -/
def State.opOut (s : State) (k : CoreId) (op : EngOp) (n : Nat) : EngChk (Nat × Bool) :=
  match s.outPhys (k.ctx op.ctx) n with
  | some p => if (s.outPort k p.1).eos then .error (.streamProto, 0) else .ok p
  | none => .error (.portUnbound, 0)

/-- The checks of a drain under its route (R178). -/
def State.drainCheck (s : State) (k : CoreId) (op : EngOp) (r : Word × Word) : EngChk Unit := do
  let rows := (op.args.headD 0).toNat
  match routeKind r.1 with
  | 0 => return ()
  | 2 => do
    let p ← s.opOut k op (r.1.extractLsb' 8 8).toNat
    engMust p.2 .streamProto 0
  | _ => do
    let w := drainBase op r
    let h ← s.argNamed k op w
    atLevel0 h w
    rowsExist h w rows
    engMust (decide (128 * routeBytes r.1 ≤ h.rowBytes)) .hbound w

/-- The checks of CPY (R317). -/
def State.cpyCheck (s : State) (k : CoreId) (op : EngOp) (codec : Codec) : EngChk Unit := do
  let w := op.args.getD 3 0
  let h ← s.argNamed k op w
  atLevel0 h w
  rowsExist h w (op.args.getD 2 0).toNat
  eRowOk codec h w

/-- The checks of CPYS (R321). -/
def State.cpysCheck (s : State) (k : CoreId) (op : EngOp) (codec : Codec) : EngChk Unit := do
  let w := op.args.getD 3 0
  let h ← s.argNamed k op w
  copyLevel0 h w
  rowsExist h w (op.args.getD 2 0).toNat
  eRowOk codec h w

/-- The checks of CPYH (R318). -/
def State.cpyhCheck (s : State) (k : CoreId) (op : EngOp) : EngChk Unit := do
  let rows := (op.args.headD 0).toNat
  let ws := op.args.getD 1 0
  let wd := op.args.getD 2 0
  let hs ← s.argNamed k op ws
  let hd ← s.argNamed k op wd
  copyLevel0 hs ws
  copyLevel0 hd wd
  rowsExist hs ws rows
  rowsExist hd wd rows
  engMust (decide (hs.rb ≤ hd.rb)) .engArg wd

/-- Where the arguments of CPYP begin, after the key slot of a sealing one (R319). -/
def cpypArgs (op : EngOp) (sl : Bool) : List Word := if sl then op.args.drop 1 else op.args

/-- The checks of CPYP (R320). -/
def State.cpypCheck (s : State) (k : CoreId) (op : EngOp) (codec : Codec) (sl : Bool) : EngChk Unit := do
  let args := cpypArgs op sl
  let w := args.getD 3 0
  let rows := (args.getD 2 0).toNat
  let h ← s.argNamed k op w
  engMust h.level1 .hlevel w
  engMust (decide (argRow w + rows ≤ h.rows + h.metaRows)) .hbound w
  engMust (!(decide (argRow w < h.rows) && decide (h.rows < argRow w + rows))) .engArg w
  engMust (decide (argRow w < h.rows) || codec == .none) .engArg w
  engMust (!(codec == .e) || h.rb == 16) .engArg w
  engMust (!sl || h.slot == none || h.slot == some (op.args.headD 0).toNat) .engArg w

/-- Bytes of an element of CGATH (R310). -/
def gathBytes : GathSize → Nat
  | .b4 => 4
  | .b8 => 8
  | .b16 => 16
  | .b64 => 64

/-- The checks of CGATH (R311): `args` is count, index, base, dst. -/
def State.cgathCheck (s : State) (k : CoreId) (op : EngOp) (size : GathSize) : EngChk Unit := do
  let n := (op.args.headD 0).toNat
  let wi := op.args.getD 1 0
  let wd := op.args.getD 3 0
  let hi ← s.argNamed k op wi
  let hd ← s.argNamed k op wd
  copyLevel0 hi wi
  copyLevel0 hd wd
  engMust (decide (argRow wi * hi.rowBytes + n * 4 ≤ hi.rows * hi.rowBytes)) .hbound wi
  engMust (decide (argRow wd * hd.rowBytes + n * gathBytes size ≤ hd.rows * hd.rowBytes)) .hbound wd

/-- The checks of CSTRM (R323): `args` is length, VA, port. -/
def State.cstrmCheck (s : State) (k : CoreId) (op : EngOp) : EngChk Unit := do
  match s.outPhys (k.ctx op.ctx) (op.args.getD 2 0).toNat with
  | none => .error (.portUnbound, 0)
  | some p => do
    engMust ((op.args.getD 1 0).toNat % 8 == 0) .align (op.args.getD 1 0)
    engMust (!(s.outPort k p.1).eos || (op.args.headD 0).toNat == 0) .streamProto 0

/-- The physical input port of an operation, with its width, or PORT-UNBOUND (R322, R353). -/
def State.opIn (s : State) (k : CoreId) (op : EngOp) (n : Nat) : EngChk (Nat × Bool) :=
  let ring := match (s.ctx (k.ctx op.ctx)).unit with
    | some u => (Map.find u.rings n).isSome
    | none => true
  match s.inPhys (k.ctx op.ctx) n with
  | some p => if ring then .error (.portUnbound, 0) else .ok p
  | none => .error (.portUnbound, 0)

/-- The checks of CSINK (R322): `args` is maximum, VA, port. -/
def State.csinkCheck (s : State) (k : CoreId) (op : EngOp) : EngChk Unit := do
  let _ ← s.opIn k op (op.args.getD 2 0).toNat
  engMust ((op.args.getD 1 0).toNat % 8 == 0) .align (op.args.getD 1 0)

/-- The checks of CFILL (R309): `args` is value, rows, dst. -/
def State.cfillCheck (s : State) (k : CoreId) (op : EngOp) : EngChk Unit := do
  let w := op.args.getD 2 0
  let h ← s.argNamed k op w
  atLevel0 h w
  rowsExist h w (op.args.getD 1 0).toNat

/-- The checks that an operation makes when it begins, before it writes anything (R175, R181). -/
def State.beginCheck (s : State) (k : CoreId) (op : EngOp) : EngChk Unit :=
  match op.instr with
  | .mma .. => s.mmaCheck k op
  | .maccld => s.maccldCheck k op
  | .mdrain _ (some p) => do
    let q ← s.opIn k op p.toNat
    engMust q.2 .portUnbound 0
  | .mdrain _ none =>
    match op.route with
    | some r => s.drainCheck k op r
    | none => .ok ()
  | .cpy _ codec _ => s.cpyCheck k op codec
  | .cpys codec _ => s.cpysCheck k op codec
  | .cpyh => s.cpyhCheck k op
  | .cpyp _ codec sl _ => s.cpypCheck k op codec sl
  | .cgath size => s.cgathCheck k op size
  | .cstrm _ => s.cstrmCheck k op
  | .csink => s.csinkCheck k op
  | .cfill => s.cfillCheck k op
  | _ => .ok ()

/-- The handle numbers that an operation uses, with that of its route. -/
def EngOp.names (op : EngOp) : List Nat :=
  launchHandles op.instr op.args ++ match op.route with
    | some r => if routeKind r.1 = 1 || routeKind r.1 = 3 then [argHandle (drainBase op r)] else []
    | none => []

/-- An operation holds the handles it uses from when it begins. -/
def State.bindOp (s : State) (k : CoreId) (op : EngOp) : EngOp :=
  { op with binds := op.names.map fun n => (n, s.opHandle k op n) }

/-- A handle that the operation holds. -/
def EngOp.bound (op : EngOp) (w : Word) : Option HandleSt :=
  match op.binds.find? fun b => b.1 == argHandle w with
  | some (_, h) => h
  | none => none

/-- The route entry that a drain reads (R178). -/
def State.routeOf (s : State) (k : CoreId) (n : Nat) : Word × Word :=
  match Map.find (s.core k).acc.route n with
  | some r => r
  | none => (0, 0)

/-- An operation begins (R93 step 5), or begins again after a cut: it reads its route, unless it captured one before,
takes its handles, and makes its checks. -/
def State.beginOp (s : State) (k : CoreId) (op : EngOp) : EngOp :=
  let op := match op.instr, op.route with
    | .mdrain _ none, none => { op with route := some (s.routeOf k (op.args.getD 1 0).toNat) }
    | _, _ => op
  let op := s.bindOp k op
  match s.beginCheck k op with
  | .ok _ => op
  | .error (code, a) => op.fail code a

/-! ## Rows of the Pantry (R131, R320) -/

/-- Write a row of a Pantry handle: element j of a data row goes to slice j, and entry j of a metadata row (R131,
R320). -/
def CoreSt.pantryRow (x : CoreSt) (h : HandleSt) (row : Nat) (bs : List Byte) : CoreSt :=
  let put (m : Map Byte) (j : Nat) : Map Byte :=
    if h.rows ≤ row then
      putBytes m (h.slice j (h.sliceData + 4 * (row - h.rows))) ((bs.drop (4 * j)).take 4)
    else if h.rb = 4 then
      let b := (bs.getD (j / 2) 0).toNat
      let v := if j % 2 = 0 then b % 16 else b / 16
      let a := h.slice j (row / 2)
      let old := (Map.get m 0 a).toNat
      putByte m a (BitVec.ofNat 8 (if row % 2 = 0 then old / 16 * 16 + v else old % 16 + 16 * v))
    else
      let w := h.rb / 8
      putBytes m (h.slice j (row * w)) ((bs.drop (j * w)).take w)
  { x with pantry := (List.range 128).foldl put x.pantry }

/-- The rows that a sealing copy has written are zeroed before PG-PERM, KEY-REVOKED or SEAL-AUTH is reported (R183). -/
def State.unseal (s : State) (k : CoreId) (op : EngOp) (code : FCode) : State :=
  match op.instr with
  | .cpyp _ _ true _ =>
    let w := (cpypArgs op true).getD 3 0
    match op.bound w with
    | some h =>
      if code = .pgPerm || code = .keyRevoked || code = .sealAuth then
        s.onCore k fun x => (List.range op.pos).foldl (fun x i => x.pantryRow h (argRow w + i) (List.replicate 512 0)) x
      else s
    | none => s
  | _ => s

/-! ## Faults and ends (R168, R173, R185) -/

/-- The trap of an engine fault (R173). -/
def engineReq (op : EngOp) (code : FCode) (addr : Word) : TrapReq :=
  { impreciseReq code op.pc addr none .none with engine := true }

/-- The effects of an engine fault on its context (R173 steps 2 to 4): later operations of the context on the
engine and its held word are discarded, FCODE takes the code if it is 0, and the context will trap. -/
def State.faultEffects (s : State) (k : CoreId) (e : Engine) (op : EngOp) (code : FCode) (addr : Word) : State :=
  let c := k.ctx op.ctx
  let later := ((s.eng k e).shadow.filter fun o => o.ctx == op.ctx && o.id != op.id).toList
  let s := if later.isEmpty then s else (s.onEng k e fun x => { x with shadow := none }).sweep k
  let back := (s.core k).haltedOps op.ctx e
  let s := if back.isEmpty then s
    else (s.onCore k fun x => { x with halted := x.halted.filter fun p => !(p.1 == e && p.2.ctx == op.ctx) }).sweep k
  let gone := ((op :: later ++ back).filter fun o => o.chains).map fun o => o.id
  let s := s.onCtx c fun x => { x.failChain gone with held := none }
  let s := s.onStat c e fun x => if x.fcode = 0 then { x with fcode := BitVec.ofNat 8 code.num } else x
  s.queueTrap c (engineReq op code addr)

/-- A held word that its copy passed on enters the free shadow set of the matrix engine (R93, R185): it reads its
format entry now, and one that fails R114 is an engine fault. -/
def State.admitHeld (s : State) (k : CoreId) : State :=
  if (s.core k).me.shadow.isSome || (s.returning k .me).isSome then s
  else
    match s.passedWord k with
    | none => s
    | some n =>
      let c := k.ctx n
      match (s.ctx c).held with
      | none => s
      | some h =>
        let entry := (s.core k).entry h.fmt
        let op := s.engOp c h.instr h.pc h.args entry h.after h.acq
        let s := s.onCtx c fun x => { x with held := none }
        if fmtSuits h.instr h.args entry then s.capture c .me op
        else s.bump.faultEffects k .me op .engArg 0

/-- The chain of a context when its copy has completed (R185). -/
def State.endChain (s : State) (k : CoreId) (op : EngOp) : State :=
  if op.chains then s.onCtx (k.ctx op.ctx) fun x => x.endChain op.id else s

/-- Remove the active operation. -/
def State.dropActive (s : State) (k : CoreId) (e : Engine) : State :=
  (s.onEng k e fun x => { x with active := none }).sweep k

/-- An operation completes (R168): DONE rises, its events count, and the window advances. -/
def State.opComplete (s : State) (k : CoreId) (e : Engine) (op : EngOp) : State :=
  let c := k.ctx op.ctx
  let s := (s.dropActive k e).onStat c e fun x => { x with done := x.done + 1 }
  let s := s.countEvents c op.pc true op.events .none
  ((s.advanceWindow c).endChain k op)

/-- An operation ends with a fault (R168, R173); the rows that a sealing copy has written are zeroed first (R183). -/
def State.opFault (s : State) (k : CoreId) (e : Engine) (op : EngOp) (code : FCode) (addr : Word) : State :=
  let c := k.ctx op.ctx
  let s := ((s.unseal k op code).dropActive k e).countEvents c op.pc true op.events .none
  (s.faultEffects k e op code addr).admitHeld k

/-- An operation is discarded (R168): only the pending count falls. -/
def State.opDiscard (s : State) (k : CoreId) (e : Engine) (op : EngOp) : State :=
  let s := s.dropActive k e
  if op.chains then s.onCtx (k.ctx op.ctx) fun x => x.failChain [op.id] else s

/-- The writes of an operation are all acknowledged (R168). -/
def State.opAcked (s : State) (k : CoreId) (op : EngOp) : Bool :=
  (s.mem.writes.filter fun w => w.src == .engine (k.ctx op.ctx) op.id).all fun w => w.acked

/-- A page fault of an operation (R146, R147): the engine halts at it, once everything before it is complete, and the
management core is told; any other fault fails the operation. -/
def State.engFault (s : State) (k : CoreId) (e : Engine) (va : Word) (x : XFault) : State :=
  if x.offered then
    if (s.eng k e).active.any fun op => !s.opAcked k op then s else
    let id := s.fresh
    let p : PageFault :=
      { who := .engine k e, code := x.code, va := va, addr := x.addr, kind := none, pc := 0, deps := [],
        dup := x.code = .pgDupw, replay := false }
    let s := (s.onMem fun m => { m with faults := Map.put m.faults id p }).bump
    let s := match (s.eng k e).active with
      | some op => s.tellFault (k.ctx op.ctx) id
      | none => s
    s.onActive k e fun op => { op with halted := some id }
  else s.failOp k e x.code x.addr

/-! ## Landing in scratch (R136, R148) -/

/-- Bytes land on one granule of scratch, and its full bit is set with them. A part of a granule whose other bytes
are bad is not written, and the operation fails with ECC-RMW; bytes from a poisoned source poison the granule. -/
def State.land (s : State) (k : CoreId) (e : Engine) (a : Nat) (bs : List Byte) (poison : Bool) (fa : Word) : State :=
  let g := a / 16
  if bs.length < 16 && eccBlocks (s.core k).ecc [g] then
    (s.onCore k fun x => { x with ecc := Map.put x.ecc g .poison }).failOp k e .eccRmw fa
  else
    s.onCore k fun x =>
      let y := x.write a bs [g] [g] false
      { y with fe := Map.drop y.fe g, ecc := if poison then Map.put y.ecc g .poison else y.ecc }

/-- The packed handle and row of a granule of scratch (R173): the handle of a packed argument. -/
def granuleAddr (h : HandleSt) (w : Word) (g : Nat) : Word :=
  handleAddr (w.extractLsb' 32 32 |>.zeroExtend 64) (BitVec.ofNat 64 ((g * 16 - h.base * 1024) / h.rowBytes))

/-- The packed handle and row of a granule of the Pantry: the first row of the operation, from `k0` on, that lies in it. -/
def pantryAddr (h : HandleSt) (w : Word) (g : Nat) : Word :=
  let off := g * 16 % 65536 - h.base * 8
  let row := if off < h.sliceData then max (argRow w) (off * 8 / h.rb) else max (argRow w) (h.rows + (off - h.sliceData) / 4)
  handleAddr (w.extractLsb' 32 32 |>.zeroExtend 64) (BitVec.ofNat 64 row)

/-- A read of granules of scratch by an operation: the new state, and whether one is poisoned. Corrected errors
count class 7, and an uncorrectable granule is poisoned and fails the operation; `fa` gives the address of a granule. -/
def State.opReads (s : State) (k : CoreId) (e : Engine) (gs : List Nat) (fa : Nat → Word) : State × Bool :=
  let x := s.core k
  let r := eccRead x.ecc gs
  let s := s.onCore k fun x => { x with ecc := eccAfterRead x.ecc gs }
  let s := if r.corrected = 0 then s else s.countOp k e (evCorrected r.corrected)
  match gs.find? fun g => Map.find x.ecc g == some .bad with
  | some g => (s.failOp k e .eccUe (fa g), false)
  | none => (s, r.fault.isSome)

/-- The same for granules of the Pantry. -/
def State.opReadsPantry (s : State) (k : CoreId) (gs : List Nat) (fa : Nat → Word) : State × Bool :=
  let x := s.core k
  let r := eccRead x.pecc gs
  let s := s.onCore k fun x => { x with pecc := eccAfterRead x.pecc gs }
  let s := if r.corrected = 0 then s else s.countOp k .me (evCorrected r.corrected)
  match gs.find? fun g => Map.find x.pecc g == some .bad with
  | some g => (s.failOp k .me .eccUe (fa g), false)
  | none => (s, r.fault.isSome)

/-- The clock of the writes of an operation itself: what a token that it sends releases (R156). -/
def State.opClock (s : State) (k : CoreId) (op : EngOp) : Stamp :=
  (s.mem.writes.filter fun w => w.src == .engine (k.ctx op.ctx) op.id && w.causal).foldl (fun acc w => Stamp.join acc w.stamp)
    Stamp.zero

/-- A token enters an output buffer from an engine (R154, R156). -/
def State.engToken (s : State) (k : CoreId) (op : EngOp) (p : Nat) (v : Vec) : State :=
  s.placeToken k p { kind := .data, val := v, clock := some (s.opClock k op) }

/-! ## Matrix operations when they complete -/

/-- An operation of the matrix engine performs what it does as a whole: MMA, MROUTE and MACCLD. -/
def State.matrixWork (s : State) (k : CoreId) (op : EngOp) : State :=
  match op.instr with
  | .mma z _ =>
    let wa := op.args.getD 3 0
    let wb := op.args.getD 2 0
    match op.bound wa, op.bound wb with
    | some ha, some hb =>
      let n := (op.args.getD 1 0).toNat * (if fmtFloat op.entry then 2 else 1)
      let (s, p) := s.opReads k .me (rowGranules ha (argRow wa) 64 n) (granuleAddr ha wa)
      let (s, q) := s.opReadsPantry k (pantryGranules op hb) (pantryAddr hb wb)
      if (s.eng k .me).active.any fun o => o.failed.isSome then s
      else
        let (a, ev) := (s.core k).mma op z ha hb
        let a := { a with poison := if p || q then allPoison else if z then [] else a.poison }
        (s.onCore k fun x => { x with acc := a }).countOp k .me ev
    | _, _ => s
  | .maccld =>
    let w := op.args.headD 0
    match op.bound w with
    | some h =>
      let (s, _) := s.opReads k .me (rowGranules h (argRow w) 64 512) (granuleAddr h w)
      if (s.eng k .me).active.any fun o => o.failed.isSome then s
      else s.onCore k fun x => { x with acc := x.maccld op h }
    | none => s
  | .mroute =>
    s.onCore k fun x =>
      { x with acc := { x.acc with
          route := Map.put x.acc.route (op.args.headD 0).toNat (op.args.getD 1 0, op.args.getD 2 0) } }
  | _ => s

/-! ## Drains (R178) -/

/-- The rows of a drain. -/
def drainRows (op : EngOp) : Nat := (op.args.headD 0).toNat

/-- A drained row is done: it is zeroed when the word says so, and the drain goes on to the next row. -/
def State.drainNext (s : State) (k : CoreId) (z : Bool) : State :=
  let s := s.onCore k fun x => match x.me.active with
    | some op => if z then { x with acc := x.acc.zeroRow op.pos } else x
    | none => x
  s.onActive k .me fun op => { op with pos := op.pos + 1, buf := EngBuf.reset }

/-- The row being drained is converted, and its events counted. -/
def State.drainFill (s : State) (k : CoreId) (op : EngOp) (d : Word) : State :=
  if op.buf.out.isEmpty then
    let (bs, ev) := (s.core k).acc.drainRow d op.pos
    s.onActive k .me fun o => { o with buf := { o.buf with out := bs, outPos := 0 }, events := evAdd o.events ev }
  else s

/-- One granule of a drain lands (kinds 1 and 3), or one row is dropped (kind 0). -/
def State.drainLand (s : State) (k : CoreId) (op : EngOp) (z : Bool) (r : Word × Word) : State :=
  let s := s.drainFill k op r.1
  if routeKind r.1 = 0 then s.drainNext k z
  else
    let w := drainBase op r
    match op.bound w, (s.eng k .me).active with
    | some h, some o =>
      let at' := o.buf.outPos
      let n := routeBytes r.1
      let poison := (s.core k).acc.poisoned o.pos (at' / n) (16 / n)
      let a := h.addr (argRow w + o.pos) at'
      let s := s.land k .me a ((o.buf.out.drop at').take 16) poison (granuleAddr h w (a / 16))
      if at' + 16 = o.buf.out.length then s.drainNext k z
      else s.onActive k .me fun o => { o with buf := { o.buf with outPos := at' + 16 } }
    | _, _ => s

/-- One token of a drain to a stream port is sent (kind 2); a poisoned row is not sent, and the drain fails. -/
def State.drainToken (s : State) (k : CoreId) (op : EngOp) (z : Bool) (r : Word × Word) : State :=
  match s.opOut k op (r.1.extractLsb' 8 8).toNat with
  | .error (code, a) => s.failOp k .me code a
  | .ok p =>
    if op.buf.out.isEmpty && (s.core k).acc.poisoned op.pos 0 128 then s.failOp k .me .poison 0
    else if 4 ≤ (s.outPort k p.1).buf.length then s
    else
      let s := s.drainFill k op r.1
      match (s.eng k .me).active with
      | none => s
      | some o =>
        let at' := o.buf.outPos
        let s := s.engToken k o p.1 (BitVec.ofNat 512 (leNat ((o.buf.out.drop at').take 64)))
        if at' + 64 = o.buf.out.length then s.drainNext k z
        else s.onActive k .me fun o => { o with buf := { o.buf with outPos := at' + 64 } }

/-- A steered drain takes its steer token (R178): the token chooses the route, and the drain makes its checks. What the
token's sender released is acquired where the context joins the engine (R190 step 4, R192). -/
def State.steerTake (s : State) (k : CoreId) : State :=
  match (s.eng k .me).active with
  | none => s
  | some op =>
    match op.instr with
    | .mdrain _ (some n) =>
      if op.route.isSome || op.failed.isSome then s
      else
        match s.opIn k op n.toNat with
        | .error (code, a) => s.failOp k .me code a
        | .ok p =>
          match (s.inPort k p.1).head with
          | none => s
          | some t =>
            if t.kind ≠ .steer || 15 < t.val.toNat then s.failOp k .me .streamProto 0
            else
              let clock := t.clock.getD Stamp.zero
              let s := (s.dropToken k p.1).onOrder (k.ctx op.ctx) fun o => { o with engAcq := Stamp.join o.engAcq clock }
              let r := s.routeOf k t.val.toNat
              let op := s.bindOp k { op with route := some r }
              let op := match s.drainCheck k op r with
                | .ok _ => op
                | .error (code, a) => op.fail code a
              s.onActive k .me fun _ => op
    | _ => s

end Sys2Proof.Machine
end

