-- ==== Sys2Proof/Machine/Copies.lean ====
section
/-! DEFINITION. The copy engine at work (R180 to R184, R309 to R323): its reads and writes of global memory (R144,
R146, R168, R280), sealed chunks (R183, R284), and one step of each copy; and the events of both engines. -/

namespace Sys2Proof.Machine

/-! ## Global memory -/

/-- What a global access of an operation comes to. -/
inductive EngMem where
  /-- it cannot be performed yet -/
  | wait
  | fault (s : State) (x : XFault)
  /-- it has been performed: the state, the bytes read, and whether they are poisoned -/
  | got (s : State) (bs : List Byte) (poison : Bool)

/-- The page size of the unit's copies (R144). -/
def State.unitPage (s : State) (c : CtxId) : Option Nat :=
  match (s.ctx c).unit with
  | some u => some u.page
  | none => none

/-- An operation translates an address, through the stream TLB at the page size of its unit (R144). -/
def State.engXlate (s : State) (k : CoreId) (op : EngOp) (kind : XKind) (va : Word) : Except XFault Xlat :=
  s.xlate (s.tlbOf k true) (s.worldOf k) (s.unitPage (k.ctx op.ctx)) kind va

/-- A byte may be read by an engine of a die now: its channel serves it, and an atomic of the die that has not
been performed does not touch it (R190). -/
def State.engByteReady (s : State) (d : Nat) (op : EngOp) (home : Bool) (a : Nat) : Bool :=
  s.mem.serves a && !(home && s.ownComesFirst d op.acq op.after a) &&
  !s.amoOpen d a

/-- A copy has come to a cell: within a sector, or at its boundary (R38). -/
def State.atSector (s : State) (k : CoreId) (cell : Nat) : State :=
  s.onActive k .ce fun op => { op with mid := cell % 48 ≠ 0 }

/-- An operation reads bytes within one page (R169, R192): what comes before it must be there. `raw` reads them as
they are stored. -/
def State.engRead (s : State) (k : CoreId) (op : EngOp) (home : Bool) (kind : XKind) (va : Word) (n : Nat) : EngMem :=
  match s.engXlate k op kind va with
  | .error x => .fault s x
  | .ok x =>
    let home := home || x.atHome
    let cells := (List.range n).map fun i => x.cell + i
    let ready := Stamp.covers (s.vc k.die) op.acq &&
      (op.after.all fun id => if home then s.isDone id else s.isApplied k.die id) &&
      cells.all fun a => s.engByteReady k.die op home a
    if !ready then .wait
    else
      let secs := (cells.map sectorOf).dedup
      let e := eccRead s.mem.ecc secs
      let bad := secs.any fun a => Map.find s.mem.ecc a == some .bad
      let s := s.fillTlb k true [(0, x)] 0x10
      let s := s.onMem fun m => { m with ecc := eccAfterRead m.ecc secs }
      let s := if e.corrected = 0 then s else s.countOp k .ce (evCorrected e.corrected)
      if bad then .fault s { code := .eccUe, addr := va, offered := false }
      else
        let view (a : Nat) : Seen := if home then s.mem.atHome a else s.mem.view k.die a
        let key := if kind.sealing.isSome then none else x.key
        let bs := cells.map fun a => s.byteAs (fun a => (view a).val) key a
        let srcs := (cells.filterMap fun a => (view a).src).dedup
        let s := if home || pteDup x.entry.pte then s else s.tookLines k.die cells
        let s := s.atSector k (x.cell + n)
        .got (s.carryBack (k.ctx op.ctx) srcs false) bs e.fault.isSome

/-- The parts of a write by an engine: each granule whole (R198). -/
def engParts (x : Xlat) (bs : List Byte) (poison : Bool) : List WritePart :=
  [.issue x.cell bs x.key poison]

/-- An operation writes bytes of one aligned sixteen: a causal write of its context (R168), which counts in the
store-acknowledgement count of the unit (R48). The replay of a write to a duplicated page passes its DUP bit
(R147). -/
def State.engWrite (s : State) (k : CoreId) (op : EngOp) (va : Word) (bs : List Byte) (poison : Bool) : EngMem :=
  let c := k.ctx op.ctx
  let r : Except XFault Xlat := match s.engXlate k op xCopyWrite va with
    | .error x => if x.code = FCode.pgDupw && op.replay then s.engXlate k op { xCopyWrite with write := false } va else .error x
    | .ok x => .ok x
  match r with
  | .error x => .fault s x
  | .ok x =>
    let causal := !x.atHome
    let ready := Stamp.covers (s.vc k.die) op.acq && (!causal || op.after.all fun id => s.isApplied k.die id)
    if !ready then .wait
    else
      let s := s.fillTlb k true [(0, x)] 0x30
      let w : MemWrite :=
        { MemWrite.issue k.die (.engine c op.id) op.pc va causal (engParts x bs poison) none (s.liveOf op.after) with
            dup := op.replay }
      let s := (s.sendWrite w).onUnit c fun u => { u with pending := u.pending + 1 }
      .got ((s.onActive k .ce fun o => { o with replay := false }).atSector k (x.cell + bs.length)) [] false

/-- Bytes to the next sixteen. -/
def chunkLen (va : Word) (n : Nat) : Nat := min n (16 - va.toNat % 16)

/-! ## Rows -/

/-- Change the buffer of the active copy. -/
def State.onBuf (s : State) (k : CoreId) (f : EngBuf → EngBuf) : State :=
  s.onActive k .ce fun op => { op with buf := f op.buf }

/-- The copy goes on to its next row. -/
def State.nextRow (s : State) (k : CoreId) : State :=
  s.onActive k .ce fun op =>
    { op with pos := op.pos + 1, buf := { EngBuf.reset with chunk := op.buf.chunk }, mid := false }

/-- The first codec fault or SEAL-GATH of an operation is noted (R130, R311). -/
def EngOp.note (op : EngOp) (code : FCode) (va : Word) : EngOp :=
  if op.late.isSome then op else { op with late := some (code, va) }

/-- A codec fault is noted, and class 6 counts the row (R130). -/
def State.codecFault (s : State) (k : CoreId) (code : FCode) (va : Word) : State :=
  (s.countOp k .ce (evOne evNone 6)).onActive k .ce fun op => op.note code va

/-- The global address of row i of a copy. -/
def rowVa (args : List Word) (i : Nat) : Word := args.getD 1 0 + BitVec.ofNat 64 (i * (args.headD 0).toNat)

/-- The global bytes of a row that a decoder reads, given those it has read (R130, R180). The header is read whole even when
the pitch is less than its 16 bytes (DESIGN CHOICE, log entry 131). -/
def rawLen (codec : Codec) (desc : BitVec 32) (len pitch : Nat) (raw : List Byte) : Nat :=
  match codec with
  | .none => len
  | .e => len / 64 * (eVariant desc).block
  | .z => if raw.length < 16 then 16 else max 16 (min (zHead raw).csize pitch)

/-- The blocks of an E row. -/
def eBlocks (v : EVariant) (raw : List Byte) : Nat → List (List Byte × Bool)
  | 0 => []
  | n + 1 => v.decode (raw.take v.block) :: eBlocks v (raw.drop v.block) n

/-- A decoded row: its bytes, the codec fault it raises, and whether it is in error (R128, R130). A row that both overruns
and underruns reports CODEC-OVER (DESIGN CHOICE, log entry 130). -/
def decodeRow (codec : Codec) (desc : BitVec 32) (len pitch : Nat) (raw : List Byte) :
    List Byte × Option FCode × Bool :=
  match codec with
  | .none => (raw, none, false)
  | .e =>
    let bs := eBlocks (eVariant desc) raw (len / 64)
    (bs.flatMap fun b => b.1, none, bs.any fun b => b.2)
  | .z =>
    let h := zHead raw
    let body := (raw.drop 16).take (min h.csize pitch - 16)
    let (bs, past, short) := zDecode h body len
    (bs, if past then some .codecOver else if short then some .codecUnder else none, past || short)

/-- The row's source bytes have all been read: it is decoded, and its events counted. -/
def State.rowRead (s : State) (k : CoreId) (codec : Codec) (desc : BitVec 32) (len pitch : Nat) (va : Word) : State :=
  match (s.eng k .ce).active with
  | none => s
  | some op =>
    if op.buf.raw.length < rawLen codec desc len pitch op.buf.raw then s
    else
      let (bs, code, err) := decodeRow codec desc len pitch op.buf.raw
      let s := match code with
        | some c => s.codecFault k c va
        | none => if err then s.countOp k .ce (evOne evNone 6) else s
      (s.onBuf k fun b => { b with out := bs, outPos := 0 }).onActive k .ce fun op => { op with mid := false }

/-- Read the next chunk of the row's source; `rd` is how. -/
def State.rowChunk (s : State) (k : CoreId) (op : EngOp) (codec : Codec) (desc : BitVec 32) (len pitch : Nat) (va : Word)
    (rd : Word → Nat → EngMem) : State :=
  let need := rawLen codec desc len pitch op.buf.raw
  let at' := op.buf.raw.length
  let a := va + BitVec.ofNat 64 at'
  match rd a (chunkLen a (need - at')) with
  | .wait => s
  | .fault s x => s.engFault k .ce a x
  | .got s bs p =>
    (s.onBuf k fun b => { b with raw := b.raw ++ bs, bad := b.bad || p }).rowRead k codec desc len pitch va

/-! ## CPY (R317) -/

/-- One step of CPY: a chunk of the row's source is read, or a granule of the row lands. Without a codec the
granule lands as its sixteen bytes are read. -/
def State.cpyStep (s : State) (k : CoreId) (op : EngOp) (codec : Codec) (home : Bool) : State :=
  let w := op.args.getD 3 0
  match op.bound w with
  | none => s
  | some h =>
    let len := h.rowBytes
    let pitch := (op.args.headD 0).toNat
    let va := rowVa op.args op.pos
    let land (s : State) (n : Nat) (bs : List Byte) (p : Bool) : State :=
      let a := h.addr (argRow w + op.pos) n
      let s := s.land k .ce a bs p (granuleAddr h w (a / 16))
      if n + 16 = len then s.nextRow k else s.onBuf k fun b => { b with outPos := n + 16 }
    if codec = .none then
      let n := op.buf.outPos
      let a := va + BitVec.ofNat 64 n
      match s.engRead k op home xCopyRead a 16 with
      | .wait => s
      | .fault s x => s.engFault k .ce a x
      | .got s bs p => land s n bs p
    else if op.buf.out.isEmpty then
      s.rowChunk k op codec h.desc len pitch va (s.engRead k op home xCopyRead)
    else land s op.buf.outPos ((op.buf.out.drop op.buf.outPos).take 16) op.buf.bad

/-! ## CPYP (R183, R284, R320) -/

/-- The granules of the Pantry that a row of a handle lies in. -/
def pantryRowGranules (h : HandleSt) (row : Nat) : List Nat :=
  (List.range 128).map fun j =>
    (if h.rows ≤ row then h.slice j (h.sliceData + 4 * (row - h.rows)) else h.slice j (row * h.rb / 8)) / 16

/-- The rows of a handle that share a Pantry granule with a row, when they fill it: the copy writes the granule whole when
it writes them all. A granule that holds bytes of something else, or beyond the handle's own, is not filled. -/
def granuleRows (h : HandleSt) (row : Nat) : Option (Nat × Nat) :=
  let part := decide (h.rows ≤ row)
  let start := h.slice 0 (if part then h.sliceData else 0)
  let size := if part then 4 * h.metaRows else h.sliceData
  let lo := h.slice 0 (if part then h.sliceData + 4 * (row - h.rows) else row * h.rb / 8) / 16 * 16
  if start ≤ lo && lo + 16 ≤ start + size then
    let off := lo - start
    some (if part then (h.rows + off / 4, h.rows + off / 4 + 4) else (off * 8 / h.rb, off * 8 / h.rb + 128 / h.rb))
  else none

/-- A row lands in the Pantry (R148). -/
def State.landPantry (s : State) (k : CoreId) (h : HandleSt) (k0 rows row : Nat) (bs : List Byte) (poison : Bool)
    (fa : Word) : State :=
  let gs := pantryRowGranules h row
  let fills := match granuleRows h row with
    | some (a, b) => if k0 ≤ a && b ≤ k0 + rows then some a else none
    | none => none
  if fills.isNone && eccBlocks (s.core k).pecc gs then
    (s.onCore k fun x => { x with
      pecc := (gs.filter fun g => eccBlocks x.pecc [g]).foldl (fun m g => Map.put m g .poison) x.pecc }).failOp k .ce .eccRmw fa
  else
    s.onCore k fun x =>
      let y := x.pantryRow h row bs
      let pecc := if fills = some row then eccClear y.pecc gs else y.pecc
      { y with pecc := if poison then gs.foldl (fun m g => Map.put m g .poison) pecc else pecc }

/-- The slot of a sealing copy has been revoked since the copy began: its next chunk raises KEY-REVOKED (R285 step 3). -/
def KeySlot.cutOff (k : KeySlot) (op : EngOp) : Bool :=
  decide (op.id < k.mark) && (k.phase != .active || op.buf.chunk.isSome || op.pos != 0)

/-- The plaintext of the sealed chunk that holds an address (R183, R284): a chunk that the copy has read, and verified, stays
with it and needs no access any more; the next one is read whole. -/
def State.sealedChunk (s : State) (k : CoreId) (op : EngOp) (slot : Nat) (va : Word) : EngMem :=
  match op.buf.chunk with
  | some (page, l) => if page = va.toNat / 4096 then .got s ((l.drop (va.toNat % 4096)).take 16) false else next s
  | none => next s
where
  /-- The access of a chunk that the copy does not hold. -/
  next (s : State) : EngMem :=
    if (s.keys.slot slot).cutOff op then .fault s { code := .keyRevoked, addr := va, offered := false }
    else
      match s.engXlate k op { write := false, fetch := false, sealing := some slot, sealCode := .sealCpy } va with
      | .error x => .fault s x
      | .ok x => fresh s x
  /-- A chunk that has not been read yet: it is read whole, and its tag verified. -/
  fresh (s : State) (x : Xlat) : EngMem :=
    let frame := x.cell / 4096
    let key := s.keys.slot slot
    let base := s.cell key.base
    let n := (frame * 4096 - base) / 4096
    let a := frame * 4096
    let t := s.cell key.tagpa + 16 * n
    let cells := (List.range 4096).map fun i => a + i
    let ready := Stamp.covers (s.vc k.die) op.acq && (op.after.all fun id => s.isDone id) &&
      cells.all fun a => s.engByteReady k.die op true a
    if !ready then .wait
    else
      let secs := (List.range 87).map fun i => sectorOf a + i
      let e := eccRead s.mem.ecc secs
      let s := s.onMem fun m => { m with ecc := eccAfterRead m.ecc secs }
      let s := if e.corrected = 0 then s else s.countOp k .ce (evCorrected e.corrected)
      match e.fault with
      | some code => .fault s { code := code, addr := va, offered := false }
      | none =>
        let ct := (s.storedBytes a 4096).map fun b => b.toNat
        let tag := (s.storedBytes t 16).map fun b => b.toNat
        let iv := natBytes key.nonce 4 ++ natBytes n 8
        let (pt, want) := gcmDec (natBytes ((s.keys.material key.ring).toNat % 2 ^ 256) 32) iv ct
        if decide (base ≤ a) && decide (n < key.count) && tag == want then
          let l := pt.map fun b => BitVec.ofNat 8 b
          let s := s.onBuf k fun b => { b with chunk := some (va.toNat / 4096, l) }
          .got (s.fillTlb k true [(0, x)] 0x10) ((l.drop (x.cell % 4096)).take 16) false
        else .fault s { code := .sealAuth, addr := va, offered := false }

/-- A sealed chunk as the source of a row. -/
def State.sealedRead (s : State) (k : CoreId) (op : EngOp) (slot : Nat) (va : Word) (n : Nat) : EngMem :=
  match s.sealedChunk k op slot va with
  | .got s bs p => .got s (bs.take n) p
  | .wait => .wait
  | .fault s x => .fault s x

/-- One step of CPYP: a chunk of the row's source is read, or the row lands. -/
def State.cpypStep (s : State) (k : CoreId) (op : EngOp) (codec : Codec) (sl home : Bool) : State :=
  let args := cpypArgs op sl
  let w := args.getD 3 0
  match op.bound w with
  | none => s
  | some h =>
    let row := argRow w + op.pos
    let len := if h.rows ≤ row then 512 else h.rowBytes
    let pitch := (args.headD 0).toNat
    let rd : Word → Nat → EngMem :=
      if sl then s.sealedRead k op (op.args.headD 0).toNat else s.engRead k op home xCopyRead
    let s := if op.buf.out.isEmpty then s.rowChunk k op codec h.desc len pitch (rowVa args op.pos) rd else s
    match (s.eng k .ce).active with
    | some o =>
      if o.buf.out.isEmpty then s
      else (s.landPantry k h (argRow w) (args.getD 2 0).toNat row o.buf.out o.buf.bad (w + BitVec.ofNat 64 op.pos)).nextRow k
    | none => s

/-! ## CPYS (R321) -/

/-- The encoded row of CPYS: its bytes, the elements flushed, and whether it passes the pitch. -/
def encodeRow (codec : Codec) (desc : BitVec 32) (pitch : Nat) (row : List Byte) : List Byte × Nat × Bool :=
  match codec with
  | .none => (row, 0, false)
  | .e =>
    let v := eVariant desc
    let bs := (List.range (row.length / 64)).map fun i => v.encode ((row.drop (64 * i)).take 64)
    (bs.flatMap fun b => b.1, (bs.map fun b => b.2).sum, false)
  | .z =>
    let f := zEncode row
    (f.take pitch, 0, decide (pitch < f.length))

/-- The chunk of an encoded row is written from its position. -/
def State.writeChunk (s : State) (k : CoreId) (op : EngOp) (va : Word) (out : List Byte) (n len : Nat) (poison : Bool) :
    State :=
  let a := va + BitVec.ofNat 64 n
  let m := chunkLen a (len - n)
  match s.engWrite k op a (out.take m) poison with
  | .wait => s
  | .fault s x => s.engFault k .ce a x
  | .got s _ _ =>
    if len ≤ n + m then s.nextRow k else s.onBuf k fun b => { b with outPos := n + m }

/-- One step of CPYS: the row is read and encoded, or a chunk of it is written. -/
def State.cpysStep (s : State) (k : CoreId) (op : EngOp) (codec : Codec) : State :=
  let w := op.args.getD 3 0
  match op.bound w with
  | none => s
  | some h =>
    let pitch := (op.args.headD 0).toNat
    let va := rowVa op.args op.pos
    let a := h.addr (argRow w + op.pos) 0
    if codec = .none then
      let n := op.buf.outPos
      let (s, p) := s.opReads k .ce [(a + n) / 16] (granuleAddr h w)
      match (s.eng k .ce).active with
      | some o => if o.failed.isSome then s else s.writeChunk k op va ((s.core k).scratchBytes (a + n) 16) n h.rowBytes p
      | none => s
    else if op.buf.out.isEmpty then
      let (s, p) := s.opReads k .ce (rowGranules h (argRow w + op.pos) 1 h.rowBytes) (granuleAddr h w)
      let (bs, flushed, past) := encodeRow codec h.desc pitch ((s.core k).scratchBytes a h.rowBytes)
      let s := s.countOp k .ce (evNone.set 5 flushed)
      let s := if past then s.codecFault k .codecOver va else s
      if bs.isEmpty then s.nextRow k else s.onBuf k fun b => { b with out := bs, bad := p }
    else s.writeChunk k op va (op.buf.out.drop op.buf.outPos) op.buf.outPos op.buf.out.length op.buf.bad

/-! ## CPYH and CFILL (R182, R309, R318) -/

/-- The mark of a poisoned source granule among the sampled values. -/
def poisonKey (n : Nat) : Nat := 2 ^ 40 + n

/-- CPYH reads every source row before it writes (R182). -/
def State.cpyhRead (s : State) (k : CoreId) (op : EngOp) (hs : HandleSt) (ws : Word) (rows : Nat) : State :=
  let gs := rowGranules hs (argRow ws) rows hs.rowBytes
  let (s, _) := s.opReads k .ce gs (granuleAddr hs ws)
  let x := s.core k
  let raw := (List.range (rows * hs.rowBytes)).map fun i => BitVec.ofNat 8 (x.opByte op (hs.addr (argRow ws) i))
  let marks := (gs.zip (List.range gs.length)).filterMap fun p =>
    if Map.find x.ecc p.1 == some .poison then some (poisonKey p.2, 1) else none
  s.onActive k .ce fun o => { o with buf := { o.buf with raw := raw }, sampled := marks }

/-- One step of CPYH: every source row is read, or a granule lands. -/
def State.cpyhStep (s : State) (k : CoreId) (op : EngOp) : State :=
  let rows := (op.args.headD 0).toNat
  let ws := op.args.getD 1 0
  let wd := op.args.getD 2 0
  match op.bound ws, op.bound wd with
  | some hs, some hd =>
    if op.buf.raw.isEmpty then s.cpyhRead k op hs ws rows
    else
      let n := op.pos
      let a := hd.addr (argRow wd + n / hs.rb) (n % hs.rb * 16)
      let s := s.land k .ce a ((op.buf.raw.drop (16 * n)).take 16) (Map.find op.sampled (poisonKey n)).isSome (granuleAddr hd wd (a / 16))
      s.onActive k .ce fun o => { o with pos := n + 1 }
  | _, _ => s

/-- One step of CFILL: a granule lands. -/
def State.cfillStep (s : State) (k : CoreId) (op : EngOp) : State :=
  let w := op.args.getD 2 0
  match op.bound w with
  | some h =>
    let v := leBytes (op.args.headD 0).toNat 8
    let a := h.addr (argRow w) (op.pos * 16)
    let s := s.land k .ce a (v ++ v) false (granuleAddr h w (a / 16))
    s.onActive k .ce fun o => { o with pos := o.pos + 1 }
  | none => s

/-! ## CGATH (R311) -/

/-- The bytes that a gathered element lands, a part at a time. -/
def State.gathLand (s : State) (k : CoreId) (hd : HandleSt) (wd : Word) (n size : Nat) : State :=
  match (s.eng k .ce).active with
  | none => s
  | some o =>
    let at' := o.buf.outPos
    let a := hd.addr (argRow wd) (n * size + at')
    let s := s.land k .ce a ((o.buf.out.drop at').take 16) o.buf.bad (granuleAddr hd wd (a / 16))
    if size ≤ at' + 16 then s.nextRow k else s.onBuf k fun b => { b with outPos := at' + 16 }

/-- One step of CGATH: an element is read and its first granule lands, or its next granule does. An element of a
sealed page is zeros, and SEAL-GATH is noted. -/
def State.cgathStep (s : State) (k : CoreId) (op : EngOp) (size : GathSize) (home : Bool) : State :=
  let wi := op.args.getD 1 0
  let wd := op.args.getD 3 0
  let sz := gathBytes size
  match op.bound wi, op.bound wd with
  | some hi, some hd =>
    if !op.buf.out.isEmpty then s.gathLand k hd wd op.pos sz
    else
      let ia := hi.addr (argRow wi) (4 * op.pos)
      let (s, p) := s.opReads k .ce [ia / 16] (granuleAddr hi wi)
      if p then s.failOp k .ce .poison (granuleAddr hi wi (ia / 16))
      else if (s.eng k .ce).active.any fun o => o.failed.isSome then s
      else
        let ix := leNat ((s.core k).scratchBytes ia 4)
        let va := op.args.getD 2 0 + BitVec.ofNat 64 (ix * sz)
        if va.toNat % sz ≠ 0 then s.failOp k .ce .align va
        else
          let fill (s : State) (bs : List Byte) (p : Bool) : State :=
            (s.onBuf k fun b => { b with out := bs, outPos := 0, bad := p }).gathLand k hd wd op.pos sz
          match s.engRead k op home { xCopyRead with sealCode := .sealGath } va sz with
          | .wait => s
          | .fault s x =>
            if x.code = .sealGath then
              fill (s.onActive k .ce fun o => o.note .sealGath va)
                (List.replicate sz 0) false
            else s.engFault k .ce va x
          | .got s bs p => fill s bs p
  | _, _ => s

/-! ## CSTRM and CSINK (R184, R322, R323) -/

/-- Bytes of a token of a port. -/
def tokenBytes (vec : Bool) : Nat := if vec then 64 else 8

/-- One step of CSTRM: a chunk of a token is read, or the token enters the output buffer. Poisoned bytes are not
sent, and the operation fails. -/
def State.cstrmStep (s : State) (k : CoreId) (op : EngOp) (home : Bool) : State :=
  match s.opOut k op (op.args.getD 2 0).toNat with
  | .error (code, a) => s.failOp k .ce code a
  | .ok (p, vec) =>
    let w := tokenBytes vec
    let left := (op.args.headD 0).toNat - op.pos * w
    let need := min w left
    let n := op.buf.raw.length
    if n < need then
      let a := op.args.getD 1 0 + BitVec.ofNat 64 (op.pos * w + n)
      match s.engRead k op home xCopyRead a (chunkLen a (need - n)) with
      | .wait => s
      | .fault s x => s.engFault k .ce a x
      | .got s bs bad =>
        if bad then s.failOp k .ce .poison a else s.onBuf k fun b => { b with raw := b.raw ++ bs }
    else if 4 ≤ (s.outPort k p).buf.length then s
    else (s.engToken k op p (BitVec.ofNat 512 (leNat op.buf.raw))).nextRow k

/-- The bytes that a CSINK has written before its next token. -/
def sinkAt (op : EngOp) (w : Nat) : Nat := op.pos * w

/-- A chunk of the token that CSINK holds is written. -/
def State.csinkWrite (s : State) (k : CoreId) (w : Nat) : State :=
  match (s.eng k .ce).active with
  | none => s
  | some o =>
    let va := o.args.getD 1 0 + BitVec.ofNat 64 (sinkAt o w)
    s.writeChunk k o va (o.buf.out.drop o.buf.outPos) o.buf.outPos w false

/-- CSINK takes the token at the head of its port and begins to write it (R322); what the token's sender released
comes before the writes (R156). -/
def State.csinkTake (s : State) (k : CoreId) : State :=
  match (s.eng k .ce).active with
  | none => s
  | some op =>
    if op.instr ≠ .csink || op.failed.isSome || op.halted.isSome || op.stopRow || !op.buf.out.isEmpty then s
    else
      match s.opIn k op (op.args.getD 2 0).toNat with
      | .error (code, a) => s.failOp k .ce code a
      | .ok (p, vec) =>
        let w := tokenBytes vec
        if (op.args.headD 0).toNat < sinkAt op w + w then s
        else
          match (s.inPort k p).head with
          | none => s
          | some t =>
            match t.kind with
            | .eos | .marker => s
            | .steer => s.failOp k .ce .streamProto 0
            | .data =>
              let s := s.dropToken k p
              let clock := t.clock.getD Stamp.zero
              let ids := (s.mem.writes.filter fun x => x.causal && Stamp.covers clock x.stamp).map fun x => x.id
              let s := s.onOrder (k.ctx op.ctx) fun o => { o with engAcq := Stamp.join o.engAcq clock }
              let s := s.onActive k .ce fun o =>
                { o with acq := Stamp.join o.acq clock, after := joinIds o.after ids,
                         buf := { o.buf with out := leBytes t.val.toNat w, outPos := 0 } }
              s.csinkWrite k w

/-! ## The events of the engines -/

/-- An operation goes on: nothing has failed it or halted it, and it is not to end at this row boundary. -/
def EngOp.goes (op : EngOp) : Bool := op.failed.isNone && op.halted.isNone

/-- The operation is at a boundary of its rows, tokens or elements. -/
def EngOp.atRow (op : EngOp) : Bool :=
  match op.instr with
  | .cpyh =>
    match op.bound (op.args.getD 1 0) with
    | some h => op.pos % h.rb == 0
    | none => true
  | .cfill =>
    match op.bound (op.args.getD 2 0) with
    | some h => op.pos % h.rb == 0
    | none => true
  | _ => op.buf.raw.isEmpty && op.buf.out.isEmpty && op.buf.outPos == 0

/-- The operation has done all of its work but the acknowledgement of its writes (R168). -/
def State.workDone (s : State) (k : CoreId) (op : EngOp) : Bool :=
  match op.instr with
  | .mdrain .. => decide (drainRows op ≤ op.pos) && op.route.isSome
  | .cpy .. | .cpys .. => decide ((op.args.getD 2 0).toNat ≤ op.pos)
  | .cpyp _ _ sl _ => decide (((cpypArgs op sl).getD 2 0).toNat ≤ op.pos)
  | .cpyh =>
    match op.bound (op.args.getD 1 0) with
    | some h => decide ((op.args.headD 0).toNat * h.rb ≤ op.pos)
    | none => true
  | .cfill =>
    match op.bound (op.args.getD 2 0) with
    | some h => decide ((op.args.getD 1 0).toNat * h.rb ≤ op.pos)
    | none => true
  | .cgath _ => decide ((op.args.headD 0).toNat ≤ op.pos)
  | .cstrm _ =>
    match s.opOut k op (op.args.getD 2 0).toNat with
    | .ok (_, vec) => decide ((op.args.headD 0).toNat ≤ op.pos * tokenBytes vec)
    | .error _ => decide ((op.args.headD 0).toNat = 0)
  | .csink =>
    match s.opIn k op (op.args.getD 2 0).toNat with
    | .error _ => false
    | .ok (p, vec) =>
      op.buf.out.isEmpty &&
        (decide ((op.args.headD 0).toNat < sinkAt op (tokenBytes vec) + tokenBytes vec) ||
          ((s.inPort k p).head.any fun t => t.kind == .eos))
  | _ => true

/-- An operation that comes back after a cut enters a free shadow set (R261). -/
def State.bringBack (s : State) (k : CoreId) (e : Engine) : State :=
  match (s.eng k e).shadow, s.returning k e with
  | none, some op =>
    (s.onCore k fun x => { x with halted := x.halted.filter fun p => p.2.id != op.id }).onEng k e fun x => { x with shadow := some op }
  | _, _ => s

/-- ENGINE_ACTIVATE (R93, R167): the shadow set becomes active when the engine is idle; an operation that comes back after
a cut, and then a passed word, enters the shadow set that it leaves. -/
def State.activate (s : State) (k : CoreId) (e : Engine) : State :=
  let s := match (s.eng k e).active, (s.eng k e).shadow with
    | none, some op => s.onEng k e fun _ => { shadow := none, active := some (s.beginOp k op) }
    | _, _ => s
  let s := s.bringBack k e
  match e with
  | .me => s.admitHeld k
  | .ce => s

/-- ENGINE_WRITE_LAND (R136): the active operation takes its next step towards memory. -/
def State.engineStep (s : State) (k : CoreId) (e : Engine) (home : Bool) : State :=
  match (s.eng k e).active with
  | none => s
  | some op =>
    if !op.goes || s.workDone k op || (op.stopRow && op.atRow) then s
    else
      match op.instr with
      | .mdrain z _ =>
        match op.route with
        | some r => if routeKind r.1 = 2 then s else s.drainLand k op z r
        | none => s
      | .cpy _ codec _ => s.cpyStep k op codec home
      | .cpys codec _ => s.cpysStep k op codec
      | .cpyh => s.cpyhStep k op
      | .cpyp _ codec sl _ => s.cpypStep k op codec sl home
      | .cgath size => s.cgathStep k op size home
      | .cfill => s.cfillStep k op
      | .csink =>
        match s.opIn k op (op.args.getD 2 0).toNat with
        | .ok (_, vec) => if op.buf.out.isEmpty then s else s.csinkWrite k (tokenBytes vec)
        | .error (code, a) => s.failOp k .ce code a
      | _ => s

/-- A copy that is to stop comes to the boundary of the sector that it is at, as far as it can (R38, R180). -/
def State.finishSector (s : State) (k : CoreId) : Nat → State
  | 0 => s
  | n + 1 => if (s.eng k .ce).active.any fun op => op.mid then (s.engineStep k .ce false).finishSector k n else s

/-- ENGINE_PORT_WRITE (R154): the active operation takes its next step towards an output port. -/
def State.enginePort (s : State) (k : CoreId) (e : Engine) (home : Bool) : State :=
  match (s.eng k e).active with
  | none => s
  | some op =>
    if !op.goes || s.workDone k op || (op.stopRow && op.atRow) then s
    else
      match op.instr with
      | .mdrain z _ =>
        match op.route with
        | some r => if routeKind r.1 = 2 then s.drainToken k op z r else s
        | none => s
      | .cstrm _ => s.cstrmStep k op home
      | _ => s

/-- CHAIN_PASS (R185): the copy has landed, and the held word goes to the matrix engine. -/
def State.chainPass (s : State) (c : CtxId) : State :=
  let x := s.ctx c
  match x.held with
  | none => s
  | some h =>
    if h.passed.isSome || !h.ready || x.wait.stop == .stopped then s
    else
      let s := (s.onCtx c fun x => { x with held := some { h with passed := some s.fresh } }).bump
      s.admitHeld c.coreId

/-- ENGINE_OP_COMPLETE (R168): the active operation has finished, with its writes acknowledged; one that must end
at a row boundary is discarded there (R231). -/
def State.engineComplete (s : State) (k : CoreId) (e : Engine) : State :=
  match (s.eng k e).active with
  | none => s
  | some op =>
    if op.failed.isSome then s
    else if op.stopRow && op.atRow then s.opDiscard k e op
    else if op.halted.isSome || op.late.isSome || !s.workDone k op || !s.opAcked k op then s
    else
      let s := s.matrixWork k op
      match (s.eng k e).active with
      | some o => if o.failed.isSome then s else s.opComplete k e o
      | none => s

/-- ENGINE_FAULT (R173): the active operation ends with its fault; a codec fault or a noted SEAL-GATH is reported
when the rest is done (R130, R311). -/
def State.engineFault (s : State) (k : CoreId) (e : Engine) : State :=
  match (s.eng k e).active with
  | none => s
  | some op =>
    match op.failed, op.late with
    | some (code, a), _ => s.opFault k e op code a
    | none, some (code, a) => if s.workDone k op && op.halted.isNone then s.opFault k e op code a else s
    | none, none => s

/-- A page fault of an operation is resolved: it goes on from its queue pointer (R146); a write to a duplicated
page replays (R147). -/
def State.resolveEng (s : State) (k : CoreId) (e : Engine) (id : Nat) (dup : Bool) : State :=
  let s := s.onMem fun m => { m with faults := Map.drop m.faults id }
  s.onActive k e fun op => if op.halted = some id then { op with halted := none, replay := dup } else op

/-- A page fault of an operation is declined: it ends with that code (R146). -/
def State.declineEng (s : State) (k : CoreId) (e : Engine) (id : Nat) (p : PageFault) : State :=
  let s := s.onMem fun m => { m with faults := Map.drop m.faults id }
  let s := s.onActive k e fun op =>
    if op.halted = some id then { op with halted := none }.fail p.code p.addr else op
  s

end Sys2Proof.Machine
end

