-- ==== Sys2Proof/Machine/Scalar.lean ====
section
/-! DEFINITION. The scalar instructions: arithmetic and logic of major 0x01 (R294 to R375), CMP (R314)
and the predicate instructions (R365). -/

namespace Sys2Proof.Machine

/-! ## The shape of major 0x01 (R294) -/

/-- A two-source result in the 64-bit form, or in the 32-bit form with its sign extended (R294). -/
def aluVal (w32 : Bool) (f : (n : Nat) → BitVec n → BitVec n → BitVec n) (a b : Word) : Word :=
  if w32 then (f 32 (a.setWidth 32) (b.setWidth 32)).signExtend 64 else f 64 a b

/-- Run a two-source instruction (R294). -/
def aluRun (f : (n : Nat) → BitVec n → BitVec n → BitVec n) (x : AluArgs) (s : State) :
    Host.Outcome State Fault Refusal :=
  plainRun x.guard s fun c => do
    let a ← s.readSrc c x.a
    let b ← s.readSrc2 c x.b
    s.finishG c x.w x.d (aluVal x.w32 f a b) (s.deps c (srcKey x.a :: src2Keys x.b))

/-- Run a one-source instruction (R294). -/
def unRun (f : (n : Nat) → BitVec n → BitVec n) (x : UnArgs) (s : State) :
    Host.Outcome State Fault Refusal :=
  plainRun x.guard s fun c => do
    let a ← s.readSrc c x.a
    s.finishG c x.w x.d (aluVal x.w32 (fun n a _ => f n a) a 0) (s.deps c [srcKey x.a])

/-- ADD (R295). -/
def execAdd (x : AluArgs) (s : State) : Host.Outcome State Fault Refusal := aluRun (fun _ a b => a + b) x s
/-- SUB (R384). -/
def execSub (x : AluArgs) (s : State) : Host.Outcome State Fault Refusal := aluRun (fun _ a b => a - b) x s
/-- AND (R301). -/
def execAnd (x : AluArgs) (s : State) : Host.Outcome State Fault Refusal := aluRun (fun _ a b => a &&& b) x s
/-- ANDN (R301). -/
def execAndn (x : AluArgs) (s : State) : Host.Outcome State Fault Refusal :=
  aluRun (fun _ a b => a &&& ~~~b) x s
/-- OR (R363). -/
def execOr (x : AluArgs) (s : State) : Host.Outcome State Fault Refusal := aluRun (fun _ a b => a ||| b) x s
/-- XOR (R409). -/
def execXor (x : AluArgs) (s : State) : Host.Outcome State Fault Refusal := aluRun (fun _ a b => a ^^^ b) x s

/-- SHL (R374): the amount is taken modulo the form's width. -/
def execShl (x : AluArgs) (s : State) : Host.Outcome State Fault Refusal :=
  aluRun (fun n a b => a <<< (b.toNat % n)) x s
/-- SHR (R374). -/
def execShr (x : AluArgs) (s : State) : Host.Outcome State Fault Refusal :=
  aluRun (fun n a b => a >>> (b.toNat % n)) x s
/-- SAR (R374). -/
def execSar (x : AluArgs) (s : State) : Host.Outcome State Fault Refusal :=
  aluRun (fun n a b => a.sshiftRight (b.toNat % n)) x s

/-- MIN (R352). -/
def execMin (x : AluArgs) (s : State) : Host.Outcome State Fault Refusal :=
  aluRun (fun _ a b => if b.slt a then b else a) x s
/-- MAX (R352). -/
def execMax (x : AluArgs) (s : State) : Host.Outcome State Fault Refusal :=
  aluRun (fun _ a b => if a.slt b then b else a) x s
/-- MINU (R352). -/
def execMinu (x : AluArgs) (s : State) : Host.Outcome State Fault Refusal :=
  aluRun (fun _ a b => if b.ult a then b else a) x s
/-- MAXU (R352). -/
def execMaxu (x : AluArgs) (s : State) : Host.Outcome State Fault Refusal :=
  aluRun (fun _ a b => if a.ult b then b else a) x s

/-- MUL (R361): the low half of the product. -/
def execMul (x : AluArgs) (s : State) : Host.Outcome State Fault Refusal := aluRun (fun _ a b => a * b) x s
/-- MULH (R361): the high half of the signed product. -/
def execMulh (x : AluArgs) (s : State) : Host.Outcome State Fault Refusal :=
  aluRun (fun n a b => BitVec.ofInt n (a.toInt * b.toInt / 2 ^ n)) x s
/-- MULHU (R361): the high half of the unsigned product. -/
def execMulhu (x : AluArgs) (s : State) : Host.Outcome State Fault Refusal :=
  aluRun (fun n a b => BitVec.ofNat n (a.toNat * b.toNat / 2 ^ n)) x s

/-! ## The divider (R325, R326, R371) -/

/-- A quotient, signed (R325). -/
def divS (n : Nat) (x y : BitVec n) : BitVec n :=
  if y = 0 then BitVec.allOnes n else BitVec.ofInt n (x.toInt.tdiv y.toInt)

/-- A quotient, unsigned (R325). -/
def divU (n : Nat) (x y : BitVec n) : BitVec n :=
  if y = 0 then BitVec.allOnes n else BitVec.ofNat n (x.toNat / y.toNat)

/-- A remainder, signed: its sign is that of the dividend (R371). -/
def remS (n : Nat) (x y : BitVec n) : BitVec n :=
  if y = 0 then x else BitVec.ofInt n (x.toInt.tmod y.toInt)

/-- A remainder, unsigned (R371). -/
def remU (n : Nat) (x y : BitVec n) : BitVec n :=
  if y = 0 then x else BitVec.ofNat n (x.toNat % y.toNat)

/-- Issue a divide: the core's one divider takes it and its result lands at DIVIDER_DONE; a divide
that finds the divider taken holds issue (R326). -/
def divRun (f : (n : Nat) → BitVec n → BitVec n → BitVec n) (x : AluArgs) (s : State) :
    Host.Outcome State Fault Refusal :=
  plainRun x.guard s fun c => do
    let a ← s.readSrc c x.a
    let b ← s.readSrc2 c x.b
    s.useDestG c x.w x.d
    if (s.core c.coreId).divider.isSome then .error (.hold .divider)
    else
      let id := s.fresh
      let s' := s.issueLate c (if x.w then .none else destG x.d) (.divide (aluVal x.w32 f a b))
        (s.deps c (srcKey x.a :: src2Keys x.b))
      return (s'.onCore c.coreId fun y => { y with divider := some id }).advance c false

/-- DIV (R325). -/
def execDiv (x : AluArgs) (s : State) : Host.Outcome State Fault Refusal := divRun divS x s
/-- DIVU (R325). -/
def execDivu (x : AluArgs) (s : State) : Host.Outcome State Fault Refusal := divRun divU x s
/-- REM (R371). -/
def execRem (x : AluArgs) (s : State) : Host.Outcome State Fault Refusal := divRun remS x s
/-- REMU (R371). -/
def execRemu (x : AluArgs) (s : State) : Host.Outcome State Fault Refusal := divRun remU x s

/-! ## One-source instructions -/

/-- The zero bits above the most significant 1 among the low `n` bits (R313). -/
def leadZeros (x : Nat) : Nat → Nat
  | 0 => 0
  | n + 1 => if x.testBit n then 0 else leadZeros x n + 1

/-- The zero bits below the least significant 1 among `n` bits from bit `i` (R324). -/
def trailZeros (x : Nat) (i : Nat) : Nat → Nat
  | 0 => 0
  | n + 1 => if x.testBit i then 0 else trailZeros x (i + 1) n + 1

/-- The number of 1 bits among the low `n` bits (R367). -/
def popCount (x : Nat) : Nat → Nat
  | 0 => 0
  | n + 1 => (if x.testBit n then 1 else 0) + popCount x n

/-- CLZ (R313). -/
def execClz (x : UnArgs) (s : State) : Host.Outcome State Fault Refusal :=
  unRun (fun n a => BitVec.ofNat n (leadZeros a.toNat n)) x s
/-- CTZ (R324). -/
def execCtz (x : UnArgs) (s : State) : Host.Outcome State Fault Refusal :=
  unRun (fun n a => BitVec.ofNat n (trailZeros a.toNat 0 n)) x s
/-- POPC (R367). -/
def execPopc (x : UnArgs) (s : State) : Host.Outcome State Fault Refusal :=
  unRun (fun n a => BitVec.ofNat n (popCount a.toNat n)) x s

/-! ## Bit fields (R331, R332) -/

/-- Run EXT, EXTU or INS: `f` takes the source, the old destination, the position and the width. -/
def fieldRun (f : (n : Nat) → BitVec n → BitVec n → Nat → Nat → BitVec n) (old : Bool) (x : FieldArgs)
    (s : State) : Host.Outcome State Fault Refusal :=
  plainRun x.guard s fun c => do
    let a ← s.readSrc c x.a
    let d ← if old then s.readG c x.d else .ok 0
    s.finishG c x.w x.d (aluVal x.w32 (fun n a d => f n a d x.pos.toNat (x.wm1.toNat + 1)) a d)
      (s.deps c (srcKey x.a :: if old then [depG x.d] else []))

/-- EXT (R332). -/
def execExt (x : FieldArgs) (s : State) : Host.Outcome State Fault Refusal :=
  fieldRun (fun n a _ pos w => (a.extractLsb' pos w).signExtend n) false x s
/-- EXTU (R332). -/
def execExtu (x : FieldArgs) (s : State) : Host.Outcome State Fault Refusal :=
  fieldRun (fun n a _ pos w => (a.extractLsb' pos w).zeroExtend n) false x s
/-- INS (R332): the destination is a third source. -/
def execIns (x : FieldArgs) (s : State) : Host.Outcome State Fault Refusal :=
  fieldRun (fun n a d pos w =>
    let m := (BitVec.allOnes w).zeroExtend n <<< pos
    (d &&& ~~~m) ||| ((a <<< pos) &&& m)) true x s

/-! ## Moves and selection -/

/-- SEL (R375): k and kn are its selector, and it always executes (R75). -/
def execSel (x : AluArgs) (s : State) : Host.Outcome State Fault Refusal :=
  let c := s.cur
  settle c s (do
    let a ← s.readSrc c x.a
    let b ← s.readSrc2 c x.b
    s.finishG c x.w x.d (aluVal x.w32 (fun _ a _ => a) (if s.guardTrue c x.guard then a else b) 0)
      (s.deps c (depK x.guard.k :: srcKey x.a :: src2Keys x.b)))

/-- MOV (R358). -/
def execMov (x : MovArgs) (s : State) : Host.Outcome State Fault Refusal :=
  plainRun x.guard s fun c => do
    let b ← s.readSrc2 c x.b
    s.finishG c x.w x.d (aluVal x.w32 (fun _ b _ => b) b 0) (s.deps c (src2Keys x.b))

/-- MOVHI (R359). -/
def execMovhi (x : MovHiArgs) (s : State) : Host.Outcome State Fault Refusal :=
  plainRun x.guard s fun c => do
    let a ← s.readSrc c x.a
    s.finishG c x.w x.d (x.imm ++ a.extractLsb' 0 35) (s.deps c [srcKey x.a])

/-! ## Predicates (R314, R315, R365, R366) -/

/-- CMP (R315). -/
def execCmp (x : CmpArgs) (s : State) : Host.Outcome State Fault Refusal :=
  plainRun x.guard s fun c => do
    let a ← s.readSrc c x.a
    let b ← s.readSrc2 c x.b
    let t := if x.w32 then condHolds x.cond (a.extractLsb' 0 32) (b.extractLsb' 0 32)
      else condHolds x.cond a b
    return (s.resultK c x.d (predOf t) (s.deps c (srcKey x.a :: src2Keys x.b))).advance c false

/-- Run PAND, POR or PXOR (R366). -/
def predRun (f : Word → Word → Word) (x : PredArgs) (s : State) : Host.Outcome State Fault Refusal :=
  plainRun x.guard s fun c =>
    let r := (s.ctx c).regs
    .ok ((s.resultK c x.d (f (r.getK x.a) (r.getK x.b)) (s.deps c [depK x.a, depK x.b])).advance c false)

/-- PAND (R366). -/
def execPand (x : PredArgs) (s : State) : Host.Outcome State Fault Refusal := predRun (· &&& ·) x s
/-- POR (R366). -/
def execPor (x : PredArgs) (s : State) : Host.Outcome State Fault Refusal := predRun (· ||| ·) x s
/-- PXOR (R366). -/
def execPxor (x : PredArgs) (s : State) : Host.Outcome State Fault Refusal := predRun (· ^^^ ·) x s

/-- PNOT (R366). -/
def execPnot (g : Guard) (d a : KReg) (s : State) : Host.Outcome State Fault Refusal :=
  plainRun g s fun c =>
    .ok ((s.resultK c d (~~~(s.ctx c).regs.getK a) (s.deps c [depK a])).advance c false)

/-- PMOV to a k register (R366). -/
def execPmovGToK (g : Guard) (d : KReg) (a : Src) (s : State) : Host.Outcome State Fault Refusal :=
  plainRun g s fun c => do
    let v ← s.readSrc c a
    return (s.resultK c d v (s.deps c [srcKey a])).advance c false

/-- PMOV from a k register (R366). -/
def execPmovKToG (g : Guard) (w : Bool) (d : GReg) (a : KReg) (s : State) :
    Host.Outcome State Fault Refusal :=
  plainRun g s fun c => s.finishG c w d ((s.ctx c).regs.getK a) (s.deps c [depK a])

end Sys2Proof.Machine
end

