-- ==== Sys2Proof/Machine/Events.lean ====
section
/-! DEFINITION. The events of a core and of its memory accesses: fetches (R21), waking and forcing out (R55, R57),
late results and loads (R293, R326, R344), writes on their way (R48, R190, R191, R199, R427), page faults (R146,
R147), traps (R247), and the engines (R93, R136, R154, R168, R173, R178, R184, R185). An event whose condition does
not hold changes nothing. -/

namespace Sys2Proof.Machine

/-- An event of a core the package has. -/
def coreEvent (k : CoreId) (t : State) : Host.Outcome State Fault Refusal :=
  if k.die < 4 && k.core < 128 then .next t else .fault .noSuchPart

/-- An event of a context the package has. -/
def ctxEvent (c : CtxId) (t : State) : Host.Outcome State Fault Refusal :=
  if c.die < 4 && c.core < 128 && c.ctx < 4 then .next t else .fault .noSuchPart

/-- An event of a die that keeps a clock: a compute die, or the I/O die. -/
def anyDieEvent (d : Nat) (t : State) : Host.Outcome State Fault Refusal :=
  if d < 5 then .next t else .fault .noSuchPart

/-- An event of a compute die. -/
def dieEvent (d : Nat) (t : State) : Host.Outcome State Fault Refusal :=
  if d < 4 then .next t else .fault .noSuchPart

/-! ## Issue -/

/-- INSTRUCTION_FETCH_RETURN (R21). -/
def execInstructionFetchReturn (c : CtxId) (s : State) : Host.Outcome State Fault Refusal :=
  ctxEvent c (s.fetchReturn c)

/-- CONTEXT_WAKE (R55): a parked context whose condition holds is the next to issue. -/
def State.wake (s : State) (c : CtxId) : State :=
  let x := s.core c.coreId
  if x.holder.isNone && (s.ctx c).wait.park.isSome && s.nextReady c.coreId x.last == some c.ctx then s.gain c else s

/-- CONTEXT_WAKE (R55). -/
def execContextWake (c : CtxId) (s : State) : Host.Outcome State Fault Refusal := ctxEvent c (s.wake c)

/-- The context holds issue. -/
def State.holds (s : State) (c : CtxId) : Bool := (s.core c.coreId).holder == some c.ctx

/-- CONTEXT_OVERDUE (R57). -/
def execContextOverdue (c : CtxId) (s : State) : Host.Outcome State Fault Refusal :=
  ctxEvent c (if s.holds c && decide (4096 ≤ s.issueCount c) then s.onWait c fun w => { w with overdue := true } else s)

/-- FORCE_OUT_BACKSTOP (R57): at a count of 5,120 the latches are invalidated, and the context gives up issue when another
is ready. -/
def execForceOutBackstop (c : CtxId) (s : State) : Host.Outcome State Fault Refusal :=
  ctxEvent c (if s.holds c && decide (5120 ≤ s.issueCount c) then s.backstop c else s)

/-- The instruction that a context holds issue for. -/
def State.heldInstr (s : State) (c : CtxId) : Option Instr :=
  match s.cached c (wordAddr (s.pc c)) with
  | none => none
  | some w =>
    match decode w (wordPos (s.pc c)) with
    | .ok i => some i
    | .error _ => none

/-- ISSUE_HOLD_RELEASE (R57): the wait of a fence or of a divide has ended, and the instruction completes; another
instruction that held issue issues again. -/
def execIssueHoldRelease (c : CtxId) (s : State) : Host.Outcome State Fault Refusal :=
  if c.die < 4 && c.core < 128 && c.ctx < 4 then
    if s.holds c && (s.ctx c).wait.hold.isSome && (s.ctx c).wait.fetch.isNone && s.running c && !s.mustTrap c &&
        !s.loopForced c && decide (s.issueCount c < 5120) then
      let t := { s with cur := c }
      match s.heldInstr c with
      | some (.fence g scope kind) => execFence g scope kind t
      | some (.qfence g mask) => execQfence g mask t
      | some (.div x) => execDiv x t
      | some (.divu x) => execDivu x t
      | some (.rem x) => execRem x t
      | some (.remu x) => execRemu x t
      | _ => .next (s.onWait c fun w => { w with hold := none })
    else .next s
  else .fault .noSuchPart

/-! ## Late results and loads -/

/-- The divide of a core's divider, with the context it belongs to. -/
def State.dividing (s : State) (k : CoreId) : Option (CtxId × Late) :=
  match (s.core k).divider with
  | none => none
  | some id =>
    let find (n : Nat) : Option (CtxId × Late) :=
      ((s.ctx (k.ctx n)).wait.lates.find? fun l => l.id == id).map fun l => (k.ctx n, l)
    [0, 1, 2, 3].findSome? find

/-- DIVIDER_DONE (R326): the quotient or remainder is written, and the divider is free. -/
def State.dividerDone (s : State) (k : CoreId) : State :=
  let s' := s.onCore k fun x => { x with divider := none }
  match s.dividing k with
  | none => s'
  | some (c, l) =>
    match l.src with
    | .divide q => s'.landLate c l q
    | .amo _ | .cancel _ _ => s

/-- DIVIDER_DONE (R326). -/
def execDividerDone (k : CoreId) (s : State) : Host.Outcome State Fault Refusal := coreEvent k (s.dividerDone k)

/-- The result of a cancel that stops the caller's own unit has landed: the unit stops at this boundary (R40). -/
def State.stopSelf (s : State) (c : CtxId) (id : Nat) : State :=
  if s.net.cancels.any fun q => q.decided && q.src == some (c, id) then s.onWait c fun w => { w with stop := .cancel } else s

/-- LATE_RESULT_ARRIVE (R293): the reply of an AMO or CANCEL arrives. -/
def State.lateArrive (s : State) (c : CtxId) (id : Nat) : State :=
  match (s.ctx c).wait.lates.find? fun l => l.id == id with
  | none => s
  | some l =>
    match l.src with
    | .amo w => s.amoArrive c l w
    | .cancel _ _ =>
      match l.value with
      | some v => (s.landLate c l v).stopSelf c id
      | none => s
    | .divide _ => s

/-- LATE_RESULT_ARRIVE (R293). -/
def execLateResultArrive (c : CtxId) (id : Nat) (s : State) : Host.Outcome State Fault Refusal :=
  ctxEvent c (s.lateArrive c id)

/-- LOAD_DATA_RETURN (R344): served by the home, or by the die's own copy. -/
def execLoadDataReturn (c : CtxId) (home : Bool) (s : State) : Host.Outcome State Fault Refusal :=
  ctxEvent c (s.loadReturn c home)

/-! ## Writes on their way -/

/-- STORE_ACK: an atomic of a running unit is acknowledged by its reply; the last acknowledgement of a stopped unit
completes its launch (R201). -/
def State.storeAck (s : State) (id : Nat) : State :=
  match s.write id with
  | none => s
  | some w =>
    match w.src with
    | .ctx c => if w.amo.isSome && !w.acked && (s.lateOfAmo c id).isSome then s else s.ackWrite id
    | .gone _ => (s.ackWrite id).settle
    | .engine .. | .mgmt _ | .sink _ _ | .sec | .other => s.ackWrite id

/-- STORE_ACK (R48, R200). -/
def execStoreAck (id : Nat) (s : State) : Host.Outcome State Fault Refusal := .next (s.storeAck id)

/-- HOME_WRITE_PERFORM (R191). -/
def execHomeWritePerform (id part : Nat) (s : State) : Host.Outcome State Fault Refusal :=
  .next (s.homePerform id part)

/-- AMO_HOME_PERFORM (R199). -/
def execAmoHomePerform (id : Nat) (s : State) : Host.Outcome State Fault Refusal := .next (s.amoPerform id)

/-- CAUSAL_WRITE_APPLY (R190). -/
def execCausalWriteApply (id die : Nat) (s : State) : Host.Outcome State Fault Refusal :=
  anyDieEvent die (s.causalApply id die)

/-- PLAIN_WRITE_APPLY (R427). -/
def execPlainWriteApply (id part die : Nat) (s : State) : Host.Outcome State Fault Refusal :=
  anyDieEvent die (s.plainApply id part die)

/-! ## Page faults -/

/-- The die whose management core a page fault waits for (R146). -/
def Faulter.die : Faulter → Nat
  | .ctx c => c.die
  | .engine k _ => k.die

/-- A page fault is resolved; `dup` replays a write to a duplicated page (R146, R147). The ROM scheduler resolves none
(R245). -/
def State.resolve (s : State) (id : Nat) (dup : Bool) : State :=
  match Map.find s.mem.faults id with
  | none => s
  | some p =>
    if (s.die p.who.die).sched.rom then s
    else match p.who with
    | .ctx c => s.resolveCtx c id p dup
    | .engine k e => s.resolveEng k e id dup

/-- PAGE_FAULT_RESOLVE (R146). -/
def execPageFaultResolve (id : Nat) (s : State) : Host.Outcome State Fault Refusal := .next (s.resolve id false)

/-- PAGE_FAULT_DECLINE (R146). -/
def execPageFaultDecline (id : Nat) (s : State) : Host.Outcome State Fault Refusal :=
  .next (match Map.find s.mem.faults id with
    | none => s
    | some p =>
      match p.who with
      | .ctx c => s.declineCtx c id p
      | .engine k e => s.declineEng k e id p)

/-- DUP_WRITE_REPLAY (R147): every holder has acknowledged, and the write replays once at its home. -/
def execDupWriteReplay (id : Nat) (s : State) : Host.Outcome State Fault Refusal :=
  .next (match Map.find s.mem.faults id with
    | some p => if p.dup then s.resolve id true else s
    | none => s)

/-! ## Traps -/

/-- TRAP_ENTRY (R247): the first waiting trap of a context is taken at an instruction boundary. -/
def State.trapEntry (s : State) (c : CtxId) : State :=
  let x := s.core c.coreId
  if !s.running c || !s.trapReady c || (s.ctx c).wait.fetch.isSome then s
  else if s.holds c then s.takeWaiting c
  else if x.holder.isNone && s.nextReady c.coreId x.last == some c.ctx then (s.gain c).takeWaiting c
  else s

/-- TRAP_ENTRY (R247). -/
def execTrapEntry (c : CtxId) (s : State) : Host.Outcome State Fault Refusal := ctxEvent c (s.trapEntry c)

/-! ## The engines -/

/-- ENGINE_ACTIVATE (R93, R167). -/
def execEngineActivate (k : CoreId) (e : Engine) (s : State) : Host.Outcome State Fault Refusal :=
  coreEvent k (s.activate k e)

/-- ENGINE_WRITE_LAND (R136). -/
def execEngineWriteLand (k : CoreId) (e : Engine) (home : Bool) (s : State) : Host.Outcome State Fault Refusal :=
  coreEvent k (s.engineStep k e home)

/-- ENGINE_PORT_WRITE (R154). -/
def execEnginePortWrite (k : CoreId) (e : Engine) (home : Bool) (s : State) : Host.Outcome State Fault Refusal :=
  coreEvent k (s.enginePort k e home)

/-- MDRAIN_STEER_TAKE (R178). -/
def execMdrainSteerTake (k : CoreId) (s : State) : Host.Outcome State Fault Refusal := coreEvent k (s.steerTake k)

/-- CSINK_TOKEN_TAKE (R322). -/
def execCsinkTokenTake (k : CoreId) (s : State) : Host.Outcome State Fault Refusal := coreEvent k (s.csinkTake k)

/-- CHAIN_PASS (R185). -/
def execChainPass (c : CtxId) (s : State) : Host.Outcome State Fault Refusal := ctxEvent c (s.chainPass c)

/-- ENGINE_OP_COMPLETE (R168). -/
def execEngineOpComplete (k : CoreId) (e : Engine) (s : State) : Host.Outcome State Fault Refusal :=
  coreEvent k (s.engineComplete k e)

/-- ENGINE_FAULT (R173). -/
def execEngineFault (k : CoreId) (e : Engine) (s : State) : Host.Outcome State Fault Refusal :=
  coreEvent k (s.engineFault k e)

end Sys2Proof.Machine
end

