-- ==== Sys2Proof/Machine/Network.lean ====
section
/-! DEFINITION. Routers, circuits and bridges: slot tables and bank changes (R158 to R160, R428), tokens on their
way (R151, R152), handle-bound ports (R166), packet beats (R157, R161), and flits with their retry (R162 to R165,
R32). -/

namespace Sys2Proof.Machine

/-- Change the network of a die. -/
def State.onLink (s : State) (d : Nat) (f : DieNet → DieNet) : State := s.onDie d fun x => { x with net := f x.net }

/-! ## Ports of clients -/

/-- A region of a die. -/
def State.region (s : State) (d n : Nat) : RegionSt := Map.get (s.die d).regions RegionSt.reset n

/-- Change a region. -/
def State.onRegion (s : State) (d n : Nat) (f : RegionSt → RegionSt) : State :=
  s.onDie d fun x => { x with regions := Map.upd x.regions RegionSt.reset n f }

/-- The key of a region's or Sieve's port among its die's ports. -/
def regionPort (region port : Nat) : Nat := 2 * region + port
/-- The key of a Sieve's port. -/
def sievePort (sieve port : Nat) : Nat := 64 + 4 * sieve + port

/-- An input port of a client. -/
def State.inOf (s : State) (r : PortRef) : InPort :=
  match r with
  | .core d k p => s.inPort { die := d, core := k } p
  | .region d n p => Map.get (s.die d).cin InPort.reset (regionPort n p)
  | .sieve d n p => Map.get (s.die d).cin InPort.reset (sievePort n p)

/-- Change an input port of a client. -/
def State.onInOf (s : State) (r : PortRef) (f : InPort → InPort) : State :=
  match r with
  | .core d k p => s.onIn { die := d, core := k } p f
  | .region d n p => s.onDie d fun x => { x with cin := Map.upd x.cin InPort.reset (regionPort n p) f }
  | .sieve d n p => s.onDie d fun x => { x with cin := Map.upd x.cin InPort.reset (sievePort n p) f }

/-- An output port of a client. -/
def State.outOf (s : State) (r : PortRef) : OutPort :=
  match r with
  | .core d k p => s.outPort { die := d, core := k } p
  | .region d n p => Map.get (s.die d).cout OutPort.reset (regionPort n p)
  | .sieve d n p => Map.get (s.die d).cout OutPort.reset (sievePort n p)

/-- Change an output port of a client. -/
def State.onOutOf (s : State) (r : PortRef) (f : OutPort → OutPort) : State :=
  match r with
  | .core d k p => s.onOut { die := d, core := k } p f
  | .region d n p => s.onDie d fun x => { x with cout := Map.upd x.cout OutPort.reset (regionPort n p) f }
  | .sieve d n p => s.onDie d fun x => { x with cout := Map.upd x.cout OutPort.reset (sievePort n p) f }

/-- The router of a region (R203). -/
def regionRouter (region : Nat) : Nat := if region < 16 then 32 + region else 112 + (region - 16)
/-- The router of a Sieve (R262). -/
def sieveRouter (sieve : Nat) : Nat :=
  match sieve with
  | 0 => 32 | 1 => 47 | 2 => 112 | _ => 127

/-- The die of a client's port. -/
def PortRef.die : PortRef → Nat
  | .core d _ _ => d
  | .region d _ _ => d
  | .sieve d _ _ => d

/-- The router of a client's port, and the number of its output and input there (R160). -/
def PortRef.place : PortRef → Nat × Nat
  | .core _ k _ => (coreRouter k, 26 + k % 4)
  | .region _ n _ => (regionRouter n, 30)
  | .sieve _ n _ => (sieveRouter n, 31)

/-- The ports of the client at an output of a router: `n` of them for a core, two for a region, `q` for a Sieve. -/
def clientPorts (d r o q : Nat) : List PortRef :=
  let col := r % 16
  let top := if r / 16 = 2 then 0 else 1
  if r / 16 ≠ 2 && r / 16 ≠ 7 then []
  else if 26 ≤ o && o ≤ 29 then
    (List.range 16).map fun p => .core d (64 * top + 4 * col + (o - 26)) p
  else if o = 30 then [.region d (16 * top + col) 0, .region d (16 * top + col) 1]
  else if o = 31 && (col = 0 || col = 15) then
    (List.range q).map fun p => .sieve d (2 * top + (if col = 0 then 0 else 1)) p
  else []

/-- The input port of a circuit at a client. -/
def State.consumerOf (s : State) (d r o circ : Nat) : Option PortRef :=
  (clientPorts d r o 3).find? fun p => (s.inOf p).bound && (s.inOf p).circ == circ

/-- The output port of a circuit at a client: it stays until its buffer has drained. -/
def State.producerOf (s : State) (d r o circ : Nat) : Option PortRef :=
  (clientPorts d r o 1).find? fun p => ((s.outOf p).bound || !(s.outOf p).buf.isEmpty) && (s.outOf p).circ == circ

/-! ## Slot tables (R158, R160) -/

/-- An output exists at a router (R160). -/
def outExists (r o : Nat) : Bool :=
  let row := r / 16
  let col := r % 16
  let core := row == 2 || row == 7
  if o < 16 then o != col
  else if o < 26 then o - 16 != row
  else if o < 31 then core
  else if o = 31 then core && (col == 0 || col == 15)
  else if o < 34 then !core
  else if o = 34 then r == 0
  else if o = 35 then col == 0
  else if o = 36 then col == 15
  else o = 37 && row == 9

/-- The key of a slot entry. -/
def slotKey (r o bank n : Nat) : Nat := ((r * 40 + o) * 2 + bank) * 64 + n

/-- The bank that an output uses now. -/
def DieNet.bank (x : DieNet) (r o : Nat) : Nat := if (Map.get x.act 0 r).getLsbD o then 1 else 0

/-- An entry of a slot table. -/
def DieNet.entry (x : DieNet) (r o bank n : Nat) : BitVec 32 := Map.get x.tab 0 (slotKey r o bank n)

/-- V of an entry. -/
def slotV (e : BitVec 32) : Bool := e.getLsbD 31
/-- WORLD of an entry. -/
def slotWorld (e : BitVec 32) : Nat := (e.extractLsb' 28 3).toNat
/-- IN of an entry. -/
def slotIn (e : BitVec 32) : Nat := (e.extractLsb' 16 6).toNat
/-- CIRC of an entry. -/
def slotCirc (e : BitVec 32) : Nat := (e.extractLsb' 0 12).toNat

/-- The entry of an output in the present slot of its die (R158). -/
def State.slotNow (s : State) (d r o : Nat) : BitVec 32 :=
  let x := (s.die d).net
  x.entry r o (x.bank r o) ((s.die d).cyc % 64)

/-- The output has not sent in this cycle, and no bank change is due (R160). -/
def State.slotFree (s : State) (d r o : Nat) : Bool :=
  let x := (s.die d).net
  outExists r o && x.next.isNone && Map.find x.used (r * 40 + o) != some ((s.die d).cyc + 1)

/-- The output sends in this cycle. -/
def State.useSlot (s : State) (d r o : Nat) : State :=
  let n := (s.die d).cyc + 1
  s.onLink d fun x => { x with used := Map.put x.used (r * 40 + o) n }

/-- SLOT_BANK_SWITCH (R160): every output of the die uses the bank that was selected at slot 0. -/
def State.bankSwitch (s : State) (d : Nat) : State :=
  s.onLink d fun x => match x.next with
    | some m => { x with act := m, next := none }
    | none => x

/-! ## Tokens -/

/-- An entry has left a receive buffer: the sending side's allowance rises (R164). -/
def State.allowBack (s : State) (d node sid : Nat) : State :=
  let (e, m) : Nat × Nat := match d, node with
    | 4, n => (n - 32, 2)
    | _, 0 => ((d + 3) % 4, 1)
    | _, 1 => ((d + 1) % 4, 0)
    | _, _ => (4, 32 + d)
  s.onLink e fun y => match Map.find y.tx (m * 65536 + sid) with
    | some t => { y with tx := Map.put y.tx (m * 65536 + sid) { t with left := t.left + 1 } }
    | none => y

/-- The outputs of a region send nothing while its clock changes (R204). -/
def State.outStands (s : State) : PortRef → Bool
  | .region d n _ => (s.region d n).stands (s.die d).cyc
  | .core .. | .sieve .. => false

/-- A token that an output may take in its slot: with its launch, and the state in which it has left its place. -/
def State.slotSource (s : State) (d r inp circ : Nat) : Option (Token × Nat × State) :=
  let x := (s.die d).net
  if 26 ≤ inp && inp ≤ 31 then
    match s.producerOf d r inp circ with
    | none => none
    | some p =>
      let o := s.outOf p
      if s.outStands p then none
      else
      match o.buf with
      | [] => none
      | t :: rest =>
        if t.kind = .marker then some (t, o.launch, s.onOutOf p fun y => { y with buf := rest })
        else if o.credits = 0 then none
        else some (t, o.launch, s.onOutOf p fun y => { y with buf := rest, credits := y.credits - 1 })
  else if 35 ≤ inp && inp ≤ 37 then
    let node := inp - 35
    match x.rx.find? fun q => q.1 / 65536 == node && q.2.circ == circ && (!q.2.buf.isEmpty || q.2.marker.isSome) with
    | none => none
    | some (key, q) =>
      match q.buf, q.marker with
      | t :: rest, _ =>
        let s := s.onLink d fun y => { y with rx := Map.put y.rx key { q with buf := rest } }
        some (t, q.launch, s.allowBack d node (key % 65536))
      | [], some t => some (t, q.launch, s.onLink d fun y => { y with rx := Map.put y.rx key { q with marker := none } })
      | [], none => none
  else
    let match' (f : TokFlight) : Bool := f.here && f.router == r && f.inp == inp && f.circ == circ
    match x.transit.find? match' with
    | none => none
    | some f => some (f.tok, f.launch, s.onLink d fun y => { y with transit := y.transit.erase f })

/-- ETYPE and KIND of a token (R163). -/
def tokenTag (t : Token) (vec : Bool) (world sid : Nat) : Word :=
  let kind : Nat := match t.kind with
    | .data => 0 | .eos => 1 | .marker => 2 | .steer => 3
  BitVec.ofNat 64 (world % 8 * 2 ^ 29 + (if vec then 2 else 1) * 2 ^ 26 + kind * 2 ^ 24 + sid % 65536)

/-- A token enters the sending side of a bridge, for the stream of its circuit (R164). -/
def State.toBridge (s : State) (d node circ launch : Nat) (t : Token) : State :=
  match (s.die d).net.tx.find? fun q => q.1 / 65536 == node && q.2.circ == circ with
  | none => s
  | some (key, q) =>
    let e : FlitEntry :=
      { tag := tokenTag t q.vec q.world (key % 65536), val := t.val, clock := t.clock, launch := launch, beat := none }
    s.onLink d fun x =>
      let l := Map.get x.links LinkSt.reset node
      { x with links := Map.put x.links node { l with queue := l.queue ++ [e] } }

/-- TOKEN_SLOT_SEND (R159, R428): the token of the circuit that holds the present slot leaves the output: to the next
router of its route, to the consumer, or into a bridge. -/
def State.tokenSend (s : State) (d r o : Nat) : State :=
  let e := s.slotNow d r o
  if !s.slotFree d r o || !slotV e then s
  else
    match s.slotSource d r (slotIn e) (slotCirc e) with
    | none => s
    | some (t, launch, s) =>
      let s := s.useSlot d r o
      let cyc := (s.die d).cyc
      let f : TokFlight :=
        { tok := t, launch := launch, circ := slotCirc e, router := r, inp := 0, ready := cyc, here := false, out := some o }
      let move (nxt inp : Nat) : State :=
        s.onLink d fun x =>
          { x with transit := x.transit ++ [{ f with router := nxt, inp := inp, ready := cyc + 4, out := none }] }
      if o < 16 then move (r / 16 * 16 + o) (r % 16)
      else if o < 26 then move ((o - 16) * 16 + r % 16) (16 + r / 16)
      else if o ≤ 31 then s.onLink d fun x => { x with transit := x.transit ++ [f] }
      else if 35 ≤ o then s.toBridge d (o - 35) (slotCirc e) launch t
      else s

/-- A token enters a consumer's buffer (R151); a marker takes its own entry. -/
def State.deliverToken (s : State) (p : PortRef) (t : Token) : State :=
  s.onInOf p fun x =>
    if t.kind = .marker then { x with marker := true } else { x with buf := x.buf ++ [t] }

/-- TOKEN_ARRIVE (R158): the first token of a circuit on a link is at the next router's output stage, or in the
consumer's buffer. -/
def State.tokenArrive (s : State) (d r inp circ : Nat) : State :=
  let cyc := (s.die d).cyc
  match (s.die d).net.transit.find? fun f => !f.here && f.router == r && f.inp == inp && f.circ == circ with
  | none => s
  | some f =>
    if cyc < f.ready then s
    else
      match f.out with
      | none => s.onLink d fun x =>
          { x with transit := x.transit.map fun g => if g = f then { g with here := true } else g }
      | some o =>
        let s := s.onLink d fun x => { x with transit := x.transit.erase f }
        match s.consumerOf d r o circ with
        | some p => if (s.inOf p).launch = f.launch then s.deliverToken p f.tok else s
        | none => s

/-! ## Bridge ends (R162 to R164) -/

/-- A bridge that a die has: three on a compute die; 32 scale-up ports and four inner bridges on the I/O die. -/
def nodeOk (d node : Nat) : Bool := (d < 4 && node < 3) || (d == 4 && node < 36)

/-- The far end of a bridge; none for a scale-up port, whose far end is another package. -/
def peerOf (d node : Nat) : Option (Nat × Nat) :=
  if d = 4 then if node < 32 then none else some (node - 32, 2)
  else match node with
    | 0 => some ((d + 3) % 4, 1)
    | 1 => some ((d + 1) % 4, 0)
    | _ => some (4, 32 + d)

/-- Data lanes of a bridge end (R32). -/
def laneCount (d node : Nat) : Nat := if d = 4 && node < 32 then 8 else 64

/-- The width of a link in quarters: what the lanes that are left carry, in steps of a quarter (R32). -/
def LinkSt.width (l : LinkSt) (d node : Nat) : Nat := 4 * (laneCount d node - l.lost.length) / laneCount d node

/-- A bridge end. -/
def State.link (s : State) (d node : Nat) : LinkSt := Map.get (s.die d).net.links LinkSt.reset node

/-- Change a bridge end. -/
def State.onEnd (s : State) (d node : Nat) (f : LinkSt → LinkSt) : State :=
  s.onLink d fun x => { x with links := Map.put x.links node (f (Map.get x.links LinkSt.reset node)) }

/-- A field of a tag. -/
def tagField (t : Word) (lo n : Nat) : Nat := (t.extractLsb' lo n).toNat

/-! ## Credits (R152) -/

/-- The router and output that feed an input of a router, for the links of a die (R160). -/
def upstream (r inp : Nat) : Nat × Nat :=
  if inp < 16 then (r / 16 * 16 + inp, r % 16) else ((inp - 16) * 16 + r % 16, 16 + r / 16)

/-- The router whose table holds a circuit at a bridge output of a die (R157, R159). -/
def State.bridgeRouter (s : State) (d o circ : Nat) : Option Nat :=
  let x := (s.die d).net
  (List.range 160).find? fun r => outExists r o && (List.range 64).any fun i =>
    let e := x.entry r o (x.bank r o) i
    slotV e && slotCirc e == circ

/-- Where a circuit begins on a die, found along its route against the flow, from the output of a router, by the entries of the
slot tables: at a producer, or at the stream of a bridge by which it comes in. -/
def State.traceBack (s : State) (d r o circ : Nat) : Nat → Option (PortRef ⊕ Nat)
  | 0 => none
  | n + 1 =>
    let x := (s.die d).net
    let slot := (List.range 64).find? fun i =>
      let e := x.entry r o (x.bank r o) i
      slotV e && slotCirc e == circ
    match slot with
    | none => none
    | some i =>
      let inp := slotIn (x.entry r o (x.bank r o) i)
      if inp < 26 then
        let (r', o') := upstream r inp
        s.traceBack d r' o' circ n
      else if inp ≤ 31 then (s.producerOf d r inp circ).map .inl
      else (x.rx.find? fun q => q.1 / 65536 == inp - 35 && q.2.circ == circ).map fun q => .inr q.1

/-- The tag of a credit entry (R163). -/
def creditTag (world sid count : Nat) : Word := BitVec.ofNat 64 (count * 2 ^ 32 + world % 8 * 2 ^ 29 + 3 * 2 ^ 26 + sid % 65536)

/-- Credits of a stream leave by the bridge that it comes in by (R152, R163). -/
def State.creditOut (s : State) (d key world count : Nat) : State :=
  let e : FlitEntry := { tag := creditTag world (key % 65536) count, val := 0, clock := none, launch := 0, beat := none }
  s.onEnd d (key / 65536) fun l => { l with queue := l.queue ++ [e] }

/-- Credits go back along a circuit on a die (R152): to the producer's output port, where those of another launch are lost, or
into the bridge that the stream comes in by. -/
def State.creditAlong (s : State) (d r o circ launch count : Nat) : Option State :=
  match s.traceBack d r o circ 24 with
  | none => none
  | some (.inl p) =>
    some (if (s.outOf p).launch = launch then s.onOutOf p fun y => { y with credits := y.credits + count } else s)
  | some (.inr key) => match Map.find (s.die d).net.rx key with
    | some q => some (s.creditOut d key q.world count)
    | none => none

/-- CREDIT_RETURN (R152): a credit leaves the consumer's port, along the circuit of its edge; one whose launch has left the
producer's port is lost. -/
def State.creditBack (s : State) (n : Nat) : State :=
  match s.net.credits[n]? with
  | none => s
  | some c =>
    let (r, o) := c.ref.place
    match s.creditAlong c.ref.die r o c.circ c.launch 1 with
    | none => s
    | some t => t.onNet fun x => { x with credits := x.credits.eraseIdx n }

/-! ## Handle-bound ports (R166) -/

/-- The ring of a handle-bound port: its first byte in scratch and its bytes (R166). -/
def ringOf (h : HandleSt) (row0 : Nat) : Nat × Nat := (h.addr row0 0, (h.rows - row0) * h.rowBytes)

/-- HANDLE_PORT_TOKEN (R166): the token at the head of a handle-bound port writes its ring position once its four
granules are empty; EOS ends the binding, and a steer token is discarded with a fault of the unit. -/
def State.ringToken (s : State) (c : CtxId) (port : Nat) : State :=
  let k := c.coreId
  match (s.ctx c).unit with
  | none => s
  | some u =>
    match Map.find u.rings port, Map.find u.ports port with
    | some (n, row0), some (p, _) =>
      match (s.inPort k p).head, Map.find (s.core k).handles n with
      | some t, some h =>
        match t.kind with
        | .marker => s
        | .eos => (s.dropToken k p).onIn k p fun x => { x with eos := true }
        | .steer => (s.dropToken k p).queueTrap c (impreciseReq .streamProto (s.pc c) 0 none .none)
        | .data =>
          let (a, len) := ringOf h row0
          let at' := a + 64 * (s.inPort k p).ring % len
          let gs := (List.range 4).map fun i => at' / 16 + i
          if !(s.core k).fullAre gs false then s
          else
            let s := (s.dropToken k p).onIn k p fun x => { x with ring := x.ring + 1 }
            let ids := match t.clock with
              | some v => (s.mem.writes.filter fun w => w.causal && Stamp.covers v w.stamp).map fun w => w.id
              | none => []
            s.onCore k fun x =>
              let y := x.write at' (leBytes t.val.toNat 64) gs gs false
              { y with fe := gs.foldl (fun m g => if ids.isEmpty then Map.drop m g else Map.put m g ids) y.fe }
      | _, _ => s
    | _, _ => s

/-! ## Packet beats (R157, R161) -/

/-- The way of a packet beat from a router (R157): the output it takes next. Row first on a die; to a neighbouring
die by its edge bridge, and to the die across by the I/O die. -/
def State.beatOut (s : State) (d : Nat) (b : Beat) : Nat :=
  let goal := placeDie b.place
  let row := b.router / 16
  let col := b.router % 16
  if placePkg b.place ≠ s.pkg || goal = (d + 2) % 4 then if row = 9 then 37 else 16 + 9
  else if goal = (d + 3) % 4 then if col = 0 then 35 else 0
  else if goal = (d + 1) % 4 then if col = 15 then 36 else 15
  else
    let r := coreRouter (placeCore b.place)
    if col ≠ r % 16 then r % 16
    else if row ≠ r / 16 then 16 + r / 16
    else 26 + placeCore b.place % 4

/-- A beat may use an output in the present slot (R159, R161): the slot is unreserved, or its circuit has no token
ready and the beat is of the reserving world or of the system channel. -/
def State.beatMay (s : State) (d r o : Nat) (b : Beat) : Bool :=
  let e := s.slotNow d r o
  b.router == r && s.beatOut d b == o && decide (b.ready ≤ (s.die d).cyc) &&
  (!slotV e || ((s.slotSource d r (slotIn e) (slotCirc e)).isNone && (b.chan == .system || b.world == slotWorld e)))

/-- The rank of a channel (R161): system, then reply, then request and capsule. -/
def chanRank : Chan → Nat
  | .system => 0
  | .reply => 1
  | .request | .capsule => 2

/-- The router and input that a link output leads to. -/
def linkTo (r o : Nat) : Nat × Nat := if o < 16 then (r / 16 * 16 + o, r % 16) else ((o - 16) * 16 + r % 16, 16 + r / 16)

/-- A beat has passed the last router of its route. -/
def State.beatLanded (s : State) (b : Beat) : State :=
  s.onNet fun x =>
    { x with flights := x.flights.map fun (f : CapFlight) =>
        if f.cap.id = b.cap then { f with left := f.left - 1 } else f }

/-- The next router takes a beat that leaves by an output: a full buffer of one world or channel blocks no other (R161). -/
def DieNet.takes (x : DieNet) (r o : Nat) (b : Beat) : Bool :=
  decide (26 ≤ o) || x.room (linkTo r o).1 (linkTo r o).2 b

/-- The beat that an output sends (R161): the best channel first, worlds in turn, the oldest of them. -/
def State.pickBeat (s : State) (d r o : Nat) : Option Beat :=
  let x := (s.die d).net
  let may := x.beats.filter fun b => s.beatMay d r o b && x.takes r o b
  let best := (may.map fun b => chanRank b.chan).min?
  let top := may.filter fun b => some (chanRank b.chan) == best
  let last := Map.get x.turn 0 (r * 40 + o)
  (List.range 8).findSome? fun i => top.find? fun b => b.world == (last + 1 + i) % 8

/-- The tag of a packet beat (R163). -/
def beatTag (world : Nat) (c : Chan) : Word :=
  let ch := match c with
    | .request => 0
    | .reply => 1
    | .capsule => 2
    | .system => 3
  BitVec.ofNat 64 (world % 8 * 2 ^ 29 + 4 * 2 ^ 26 + ch * 2 ^ 20)

/-- PACKET_BEAT_SEND (R161): the output carries a packet beat. -/
def State.beatSend (s : State) (d r o : Nat) : State :=
  if !s.slotFree d r o then s
  else
    match s.pickBeat d r o with
    | none => s
    | some b =>
      let cyc := (s.die d).cyc
      let gone (s : State) (l : List Beat) : State :=
        (s.useSlot d r o).onLink d fun x =>
          { x with beats := x.beats.erase b ++ l, turn := Map.put x.turn (r * 40 + o) b.world }.feedBeats
      if o < 26 then gone s [{ b with router := (linkTo r o).1, inp := (linkTo r o).2, ready := cyc + 4 }]
      else if o ≤ 31 then (gone s []).beatLanded b
      else
        let e : FlitEntry := { tag := beatTag b.world b.chan, val := 0, clock := none, launch := 0, beat := some b }
        (gone s []).onLink d fun x =>
          let l := Map.get x.links LinkSt.reset (o - 35)
          { x with links := Map.put x.links (o - 35) { l with queue := l.queue ++ [e] } }

/-- A packet of a class that the model holds nowhere, a request, a reply, or a message of the system channel, takes the present
slot of an output (R159, R161): before capsule beats unless it is a request, and worlds in turn. -/
def State.traffic (s : State) (d r o : Nat) (chan : Chan) (world : Nat) : State :=
  let e := s.slotNow d r o
  let idle := !slotV e || ((s.slotSource d r (slotIn e) (slotCirc e)).isNone && (chan == .system || world == slotWorld e))
  if chan = .capsule || !s.slotFree d r o || !idle then s
  else (s.useSlot d r o).onLink d fun x =>
    if chan = .system then x else { x with turn := Map.put x.turn (r * 40 + o) world }

/-! ## Flits (R162 to R165) -/

/-- Bytes of an entry in a flit (R163). -/
def FlitEntry.bytes (e : FlitEntry) : Nat :=
  match tagField e.tag 26 3 with
  | 1 => 16
  | 2 => 72
  | 4 => 72
  | _ => 8

/-- The entry is a token that counts towards its stream's allowance: not a marker (R164, R258). -/
def FlitEntry.counts (e : FlitEntry) : Bool :=
  let t := tagField e.tag 26 3
  (t == 1 || t == 2) && tagField e.tag 24 2 != 2

/-- Fill a flit from a queue, in order, within 240 bytes; a stream with no allowance left waits, with its later
entries, and the others pass it (R164). Answers the entries, what is left of the queue, and the streams. -/
def packFlit (node : Nat) (stopped : List Nat) (room : Nat) (tx : Map TxStream) :
    List FlitEntry → List FlitEntry × List FlitEntry × Map TxStream
  | [] => ([], [], tx)
  | e :: rest =>
    let sid := tagField e.tag 0 16
    let key := node * 65536 + sid
    let isTok := tagField e.tag 26 3 == 1 || tagField e.tag 26 3 == 2
    let left := match Map.find tx key with
      | some t => t.left
      | none => 0
    if room < e.bytes then ([], e :: rest, tx)
    else if isTok && (stopped.contains sid || (e.counts && left == 0)) then
      let (a, b, tx) := packFlit node (sid :: stopped) room tx rest
      (a, e :: b, tx)
    else
      let tx := if e.counts then
          match Map.find tx key with
          | some t => Map.put tx key { t with left := t.left - 1 }
          | none => tx
        else tx
      let (a, b, tx) := packFlit node stopped (room - e.bytes) tx rest
      (e :: a, b, tx)

/-- A flit with room left for a tag ends with a pad (R163). -/
def padFlit (es : List FlitEntry) : List FlitEntry :=
  if (es.map FlitEntry.bytes).sum + 8 ≤ 240 then es ++ [{ tag := 0, val := 0, clock := none, launch := 0, beat := none }] else es

/-- BRIDGE_FLIT_SEND (R163, R164): the entries that wait leave in a flit, which the retry buffer of 256 keeps. -/
def State.flitSend (s : State) (d node : Nat) : State :=
  let l := s.link d node
  if l.width d node = 0 || l.failed || 256 ≤ l.retry.length then s
  else
    let (es, queue, tx) := packFlit node [] 240 (s.die d).net.tx l.queue
    if es.isEmpty then s
    else
      let f : Flit := { seq := l.seq, entries := padFlit es }
      (s.onLink d fun x => { x with tx := tx }).onEnd d node fun l =>
        { l with queue := queue, seq := l.seq + 1, wire := l.wire ++ [f], retry := l.retry ++ [f] }

/-- The entry breaks the table of R163: a reserved bit is set, or its ETYPE is not defined. -/
def tagBad (t : Word) : Bool :=
  let ty := tagField t 26 3
  tagField t 48 16 != 0 || tagField t 16 4 != 0 || decide (4 < ty) ||
    (ty != 3 && tagField t 32 16 != 0) || (ty != 4 && tagField t 20 4 != 0)

/-- The kind of a token from its tag. -/
def tagKind (t : Word) : TokKind :=
  match tagField t 24 2 with
  | 0 => .data
  | 1 => .eos
  | 2 => .marker
  | _ => .steer

/-- A fault code of delivery M at a bridge is told to the management core of its die; those of the I/O die are told to
all four. -/
def State.bridgeReport (s : State) (d : Nat) (code : FCode) : State :=
  if d = 4 then (List.range 4).foldl (fun (s : State) e => s.notify e (.report code 0)) s else s.notify d (.report code 0)

/-- A scale-up port refuses the streams of a group: no digests have been exchanged over it, or the member at its far end, or
this package, has not shown the digest bound (R290, R291). -/
def State.portRefused (s : State) (port : Nat) : Bool :=
  match Map.find s.sec.peers port with
  | none => !s.sec.groups.isEmpty
  | some p => s.sec.groups.any fun g =>
      g.members.any fun m => (m.1 == p.pkg && !(p.good && m.2 == p.digest)) || (m.1 == s.pkg && m.2 != p.own)

/-- The entry goes through a scale-up port that refuses it: on its way out, or in. -/
def State.entryRefused (s : State) (d node : Nat) (q : RxStream) : Bool :=
  d == 4 && ((decide (node < 32) && s.portRefused node) || match q.fwd with
    | some (n, _) => decide (n < 32) && s.portRefused n
    | none => false)

/-- A token enters the receive side of a bridge: its stream's buffer or marker entry; on the I/O die it goes on to
the bridge of its stream (R162, R164). One of another world than its SID is bound to is dropped and reported (R276); one
through a port that refuses its stream is dropped, and no allowance returns (R291). -/
def State.rxToken (s : State) (d node : Nat) (e : FlitEntry) : State :=
  let sid := tagField e.tag 0 16
  let key := node * 65536 + sid
  let t : Token := { kind := tagKind e.tag, val := e.val, clock := e.clock }
  match Map.find (s.die d).net.rx key with
  | none => s
  | some q =>
    if tagField e.tag 29 3 ≠ q.world % 8 then s.bridgeReport d .streamProto
    else if s.entryRefused d node q then s
    else
    match q.fwd with
    | some (node', sid') =>
      let s := if e.counts then State.allowBack s d node sid else s
      s.onEnd d node' fun l => { l with queue := l.queue ++ [{ e with tag := tokenTag t q.vec q.world sid' }] }
    | none =>
      let q' := if t.kind = .marker then { q with marker := some t } else { q with buf := q.buf ++ [t] }
      s.onLink d fun x => { x with rx := Map.put x.rx key q' }

/-- A beat comes out of a bridge: on a compute die at the router it crossed beside, on the I/O die towards the die of
its place (R157, R162). -/
def State.rxBeat (s : State) (d node : Nat) (e : FlitEntry) (b : Beat) : State :=
  if d = 4 then
    if placePkg b.place ≠ s.pkg then s.onEnd 4 0 fun l => { l with queue := l.queue ++ [e] }
    else s.onEnd 4 (32 + placeDie b.place) fun l => { l with queue := l.queue ++ [e] }
  else
    let r := match node with
      | 0 => b.router / 16 * 16
      | 1 => b.router / 16 * 16 + 15
      | _ => 9 * 16 + b.router % 16
    let cyc := (s.die d).cyc
    s.onLink d fun x => { x with feed := x.feed ++ [{ b with router := r, inp := 35 + node, ready := cyc }] }.feedBeats

/-- Credits that come back by a bridge for a stream that goes out by it (R152, R163): on a compute die they go on along its
circuit, on the I/O die into the bridge by which the stream comes in. -/
def State.rxCredit (s : State) (d node : Nat) (e : FlitEntry) : State :=
  let sid := tagField e.tag 0 16
  let count := tagField e.tag 32 16
  if d = 4 then
    match (s.die 4).net.rx.find? fun q => q.2.fwd == some (node, sid) with
    | none => s
    | some (key, q) =>
      if tagField e.tag 29 3 ≠ q.world % 8 then s.bridgeReport d .streamProto
      else if s.entryRefused d (key / 65536) q then s
      else s.creditOut 4 key q.world count
  else
    match Map.find (s.die d).net.tx (node * 65536 + sid) with
    | none => s
    | some t =>
      if tagField e.tag 29 3 ≠ t.world % 8 then s.bridgeReport d .streamProto
      else ((s.bridgeRouter d (35 + node) t.circ).bind fun r =>
        s.creditAlong d r (35 + node) t.circ t.launch count).getD s

/-- The entries of a flit that a receiver has not yet taken; it stops at one that breaks the table (R163). Answers
whether all were taken, and how many. -/
def State.takeEntries (s : State) (d node n : Nat) : List FlitEntry → State × Bool × Nat
  | [] => (s, true, n)
  | e :: rest =>
    if tagBad e.tag then (s, false, n)
    else
      match tagField e.tag 26 3 with
      | 0 => (s, true, n)
      | 3 => (s.rxCredit d node e).takeEntries d node (n + 1) rest
      | 4 =>
        match e.beat with
        | some b => (s.rxBeat d node e b).takeEntries d node (n + 1) rest
        | none => s.takeEntries d node (n + 1) rest
      | _ => (s.rxToken d node e).takeEntries d node (n + 1) rest

/-- The receiver asks for a replay; after three failed replays of a flit the link has failed, and the management core
is told (R163). -/
def State.replayFrom (s : State) (d node : Nat) (taken : Nat) : State :=
  let n := (s.link d node).fails + 1
  let s := s.onEnd d node fun l => { l with fails := n, taken := taken, failed := l.failed || decide (4 ≤ n) }
  let s := match peerOf d node with
    | some (e, m) =>
      let want := (s.link d node).expect
      s.onEnd e m fun l => { l with wire := l.retry.filter fun f => want ≤ f.seq }
    | none => s
  if n = 4 then
    if d = 4 then (List.range 4).foldl (fun s e => s.notify e (.linkFailure (256 + node))) s
    else s.notify d (.linkFailure node)
  else s

/-- A flit is at a receiver (R163, R164): a duplicate is dropped, one out of order or in error is replayed. -/
def State.flitAt (s : State) (d node : Nat) (good : Bool) (f : Flit) : State :=
  let l := s.link d node
  if f.seq < l.expect then s
  else if !good || l.expect < f.seq then s.replayFrom d node l.taken
  else
    match s.takeEntries d node l.taken (f.entries.drop l.taken) with
    | (s, true, _) => s.onEnd d node fun l => { l with expect := l.expect + 1, taken := 0, fails := 0 }
    | (s, false, n) => s.replayFrom d node n

/-- BRIDGE_FLIT_RECEIVE (R163). -/
def State.flitReceive (s : State) (d node : Nat) (f : FlitIn) : State :=
  if (s.link d node).failed then s
  else
    match f, peerOf d node with
    | .wire good, some (e, m) =>
      match (s.link e m).wire with
      | [] => s
      | x :: rest => (s.onEnd e m fun l => { l with wire := rest }).flitAt d node good x
    | .outside seq es, none =>
      let entry (p : Word × Vec) : FlitEntry := { tag := p.1, val := p.2, clock := none, launch := 0, beat := none }
      s.flitAt d node true { seq := seq, entries := es.map entry }
    | .wire _, none | .outside _ _, some _ => s

/-- BRIDGE_FLIT_ACK (R164): the far side acknowledges the flits it has taken, and the retry buffer drops them; another
package acknowledges one flit (R165). -/
def State.flitAck (s : State) (d node : Nat) : State :=
  match peerOf d node with
  | some (e, m) =>
    let upTo := (s.link e m).expect
    s.onEnd d node fun l => { l with retry := l.retry.filter fun f => upTo ≤ f.seq }
  | none =>
    match (s.link d node).retry with
    | [] => s
    | f :: rest => s.onEnd d node fun l => { l with retry := rest, wire := l.wire.filter fun x => x.seq ≠ f.seq }

/-- Tokens of a stream that a bridge's retry buffer keeps. -/
def LinkSt.unacked (l : LinkSt) (sid : Nat) : Nat :=
  (l.retry.flatMap fun f => f.entries.filter fun e => e.counts && tagField e.tag 0 16 == sid).length

/-- An entry of a stream has left the receive buffer of another package: one unit of allowance returns to the scale-up port
(R164, R165). -/
def State.farAllow (s : State) (port sid : Nat) : State :=
  if 32 ≤ port then s
  else match Map.find (s.die 4).net.tx (port * 65536 + sid) with
    | none => s
    | some t =>
      if t.left + (s.link 4 port).unacked sid < t.allow then
        s.onLink 4 fun x => { x with tx := Map.put x.tx (port * 65536 + sid) { t with left := t.left + 1 } }
      else s

/-! ## The events -/

/-- TOKEN_SLOT_SEND (R159). -/
def execTokenSlotSend (die router out : Nat) (s : State) : Host.Outcome State Fault Refusal :=
  if die < 4 && router < 160 && out < 40 then .next (s.tokenSend die router out) else .fault .noSuchPart

/-- TOKEN_ARRIVE (R158). -/
def execTokenArrive (die router inp circ : Nat) (s : State) : Host.Outcome State Fault Refusal :=
  if die < 4 && router < 160 then .next (s.tokenArrive die router inp circ) else .fault .noSuchPart

/-- HANDLE_PORT_TOKEN (R166). -/
def execHandlePortToken (c : CtxId) (port : Nat) (s : State) : Host.Outcome State Fault Refusal :=
  ctxEvent c (s.ringToken c port)

/-- CREDIT_RETURN (R152). -/
def execCreditReturn (n : Nat) (s : State) : Host.Outcome State Fault Refusal := .next (s.creditBack n)

/-- PACKET_BEAT_SEND (R161). -/
def execPacketBeatSend (die router out : Nat) (s : State) : Host.Outcome State Fault Refusal :=
  if die < 4 && router < 160 && out < 40 then .next (s.beatSend die router out) else .fault .noSuchPart

/-- SLOT_BANK_SWITCH (R160). -/
def execSlotBankSwitch (die : Nat) (s : State) : Host.Outcome State Fault Refusal := dieEvent die (s.bankSwitch die)

/-- An event of a bridge that the package has. -/
def nodeEvent (d node : Nat) (t : State) : Host.Outcome State Fault Refusal :=
  if nodeOk d node then .next t else .fault .noSuchPart

/-- BRIDGE_FLIT_SEND (R163). -/
def execBridgeFlitSend (die node : Nat) (s : State) : Host.Outcome State Fault Refusal :=
  nodeEvent die node (s.flitSend die node)

/-- BRIDGE_FLIT_RECEIVE (R163). -/
def execBridgeFlitReceive (die node : Nat) (f : FlitIn) (s : State) : Host.Outcome State Fault Refusal :=
  nodeEvent die node (s.flitReceive die node f)

/-- BRIDGE_FLIT_ACK (R164). -/
def execBridgeFlitAck (die node : Nat) (s : State) : Host.Outcome State Fault Refusal :=
  nodeEvent die node (s.flitAck die node)

end Sys2Proof.Machine
end

