-- ==== Sys2Proof/Machine/System.lean ====
section
/-! DEFINITION. The system instructions: NOP, END (R48, R328, R329), YIELD (R410), WAIT (R408), TRAP, BKPT and
TRET (R253, R302), MFC and MTC (R71, R354, R355) and CANCEL (R305, R306). -/

namespace Sys2Proof.Machine

/-- NOP (R362). -/
def execNop (g : Guard) (s : State) : Host.Outcome State Fault Refusal :=
  plainRun g s fun c => .ok (s.advance c false)

/-! ## END (R48, R328) -/

/-- The tokens of a port up to its EOS, and whether the EOS is there. -/
def beforeEos : List Token → List Token × Bool
  | [] => ([], false)
  | t :: rest =>
    if t.kind = .eos then ([], true)
    else
      let (ts, e) := beforeEos rest
      (t :: ts, e)

/-- Step 3 of END for one port: tokens before the EOS are discarded with their credits; whether the EOS is at
the head. -/
def State.drainPort (s : State) (k : CoreId) (p : Nat) : State × Bool :=
  let x := s.inPort k p
  if x.closed then (s, false)
  else if x.eos && x.buf.isEmpty then (s, true)
  else
    let (ts, e) := beforeEos x.buf
    (ts.foldl (fun s _ => s.dropToken k p) s, e)

/-- Step 3 of END: the ports in increasing order, stopping at the first whose EOS has not arrived. -/
def State.drainPorts (s : State) (k : CoreId) : List (Nat × Nat × Bool) → State × Option Nat
  | [] => (s, none)
  | (n, p, _) :: rest =>
    match s.drainPort k p with
    | (s, true) => s.drainPorts k rest
    | (s, false) => (s, some n)

/-- The EOS that END and SEOS place, with the clock it releases (R156). -/
def State.eosToken (s : State) (d : Nat) : Token := { kind := .eos, val := 0, clock := some (s.die d).vc }

/-- Step 4 of END: an EOS on every output that has none, stopping at the first without room. -/
def State.closePorts (s : State) (k : CoreId) : List (Nat × Nat × Bool) → State × Option Nat
  | [] => (s, none)
  | (n, p, _) :: rest =>
    let x := s.outPort k p
    if x.eos then s.closePorts k rest
    else if x.buf.length < 4 then (s.placeToken k p (s.eosToken k.die)).closePorts k rest
    else (s, some n)

/-- Where END waits. -/
inductive EndAt where
  | queues | acks | input (port : Nat) | output (port : Nat) | done
  deriving DecidableEq, Repr

/-- END goes as far as it can. -/
def State.endSteps (s : State) (c : CtxId) : State × EndAt :=
  match (s.ctx c).unit with
  | none => (s, .done)
  | some u =>
    if !s.endQueues c then (s, .queues)
    else if !s.endAcked c then (s, .acks)
    else
      match s.drainPorts c.coreId u.ports with
      | (s, some n) => (s, .input n)
      | (s, none) =>
        match s.closePorts c.coreId u.outs with
        | (s, some n) => (s, .output n)
        | (s, none) => (s, .done)

/-- The end report of a unit sets out for its home die (R36). -/
def State.reportEnd (s : State) (world launch die slot : Nat) : State :=
  s.onObj world .launch launch fun o =>
    { o with units := o.units.map fun x =>
        if x.die = die && x.slot = slot && x.stage = .running then { x with stage := .reporting } else x }

/-- A unit leaves its context: its tiles are released, its handles freed and its ports unbound, and its slot is
free (R328, R133). -/
def State.leaveCtx (s : State) (c : CtxId) : State :=
  let s := s.onCore c.coreId fun x =>
    let x := x.releaseTiles c.ctx
    let hs := (x.handles.filter fun (p : Nat × HandleSt) => p.2.owner == c.ctx).map fun p => p.1
    hs.foldl (fun x n => x.freeHandle n) x
  let s := match (s.ctx c).unit with
    | none => s
    | some u =>
      let s := u.ports.foldl (fun (s : State) (p : Nat × Nat × Bool) => s.onIn c.coreId p.2.1 fun _ => InPort.reset) s
      u.outs.foldl (fun (s : State) (p : Nat × Nat × Bool) =>
        s.onOut c.coreId p.2.1 fun x => { x with bound := false }) s
  let s := s.onSlot c.die c.slot fun x =>
    { x with state := 0, bound := none, loaded := false, since := (s.die c.die).cyc }
  s.onCtx c fun x => { x with unit := none, cap := none, chain := none, held := none, wait := Wait.reset }

/-- END has completed its steps (R47). -/
def State.endUnit (s : State) (c : CtxId) : State :=
  match (s.ctx c).unit with
  | none => s
  | some u => ((s.leaveCtx c).reportEnd u.world u.launch c.die c.slot).giveUp c

/-- END (R48, R328): a held capsule raises HINVAL; each step parks at a switch point, and a parked END begins
again at step 1. -/
def execFin (g : Guard) (s : State) : Host.Outcome State Fault Refusal :=
  switchRun g s fun c => do
    must (match (s.ctx c).cap with
      | some k => k.sending.isSome
      | none => true) .hinval
    match (s.invalidate c).endSteps c with
    | (s, .done) => return s.endUnit c
    | (s, .input n) => return s.parkAt c (.ending (some n) none) none
    | (s, .output n) => return s.parkAt c (.ending none (some n)) none
    | (s, .queues) => return s.parkAt c (.ending none none) none
    | (s, .acks) => return s.parkAt c (.ending none none) none

/-! ## YIELD and WAIT -/

/-- YIELD (R410): a switch point whatever its guard. -/
def execYield (g : Guard) (s : State) : Host.Outcome State Fault Refusal :=
  switchRun g s fun c =>
    let s := (s.invalidate c).advance c true
    .ok (if s.otherReady c && (s.core c.coreId).holder == some c.ctx then s.giveUp c else s)

/-- The result of WAIT (R408). -/
def State.waitResult (s : State) (c : CtxId) (mask : BitVec 19) (t0 : Nat) (n : Word) : Word :=
  let b := s.waitBits c &&& (mask ||| 0x70000)
  b.zeroExtend 64 ||| (if s.timedOut c t0 n then 0x100000 else 0)

/-- The start and the timeout of WAIT: read at the first issue, and kept while it is parked (R408). -/
def State.waitStart (s : State) (c : CtxId) (a : Src) : Act (Nat × Word) :=
  match s.captured c with
  | some (.wait t0 n) => .ok (t0, n)
  | some (.value _) | none => do
    let n ← s.readSrc c a
    return ((s.die c.die).cyc, n)

/-- WAIT (R408): the timeout and its start are read at the first issue. -/
def execWait (g : Guard) (w : Bool) (d : GReg) (a : Src) (mask : BitVec 19) (s : State) :
    Host.Outcome State Fault Refusal :=
  switchRun g s fun c => do
    let (t0, n) ← s.waitStart c a
    must ((List.range 16).all fun p => !mask.getLsbD p || (s.inPhys c p).isSome) .portUnbound
    s.useDestG c w d
    if s.blockHolds c (.cond mask t0 n) then
      return ((s.invalidate c).resultG c w d (s.waitResult c mask t0 n) []).advance c true
    else .error (.park (.cond mask t0 n) (some (.wait t0 n)))

/-! ## Traps -/

/-- The trap of TRAP and BKPT (R253). -/
def trapReq (kind code : Nat) (pc : Word) : TrapReq :=
  { kind := kind, code := code, pc := pc, addr := 0, resume := some (pc + 8), precise := true, engine := false,
    replay := none, deps := [], dest := .none, isFault := false }

/-- TRAP in S mode (R253): the node freezes, and a record that is free takes the trap. -/
def State.trapInS (s : State) (c : CtxId) (n : Nat) : State :=
  let s := if (s.ctx c).ctl.frecV then s.onWait c fun w => { w with kept := true }
    else s.onCtl c fun k => { k with frec := frecOf (trapReq 1 n (s.pc c)) (s.pc c + 8) false }
  s.freeze c

/-- TRAP (R253). -/
def execTrap (g : Guard) (n : BitVec 8) (s : State) : Host.Outcome State Fault Refusal :=
  plainRun g s fun c => do
    s.notForced c
    if (s.ctx c).ctl.s then
      if (s.ctx c).wait.lates.isEmpty then return s.trapInS c n.toNat else .error (.hold .late)
    else .error (.trap (trapReq 1 n.toNat (s.pc c)))

/-- BKPT (R302, R253): in S mode, a double fault. -/
def execBkpt (g : Guard) (s : State) : Host.Outcome State Fault Refusal :=
  plainRun g s fun c => do
    s.notForced c
    if (s.ctx c).ctl.s then
      if (s.ctx c).wait.lates.isEmpty then return s.halt c else .error (.hold .late)
    else .error (.trap (trapReq 2 0 (s.pc c)))

/-- Issue the replay record at FREC2 (R252, R253). -/
def State.replayAccess (s : State) (c : CtxId) (k : AccKind) (pc va : Word) : State :=
  s.access c k { pc := pc, deps := s.liveOf (s.ctx c).wait.replayDeps, replay := true } va false

/-- TRET (R253): a switch point. -/
def execTret (g : Guard) (replay : Bool) (s : State) : Host.Outcome State Fault Refusal :=
  privSwitchRun (.tret g replay) g s fun c => do
    let x := s.ctx c
    must (!replay || x.ctl.frecR) .illOpnd
    match (if replay then x.wait.replay else none) with
    | none => return (s.onWait c fun w => { w with replay := none }).trapReturn c
    | some k =>
      if !k.writes || s.mayIssue c k.isCausal (s.liveOf x.wait.replayDeps) then
        let s := (s.onWait c fun w => { w with replay := none }).trapReturn c
        return s.replayAccess c k x.ctl.frec[1] x.ctl.frec[2]
      else .error (.hold .fence)

/-! ## MFC and MTC (R71, R72, R354, R355) -/

/-- Bits of a word. -/
def flagAt (b : Bool) (n : Nat) : Nat := if b then 2 ^ n else 0

/-- What MFC reads (R71 to R73, R126). -/
def State.creg (s : State) (c : CtxId) (r : Creg) : Word :=
  let k := (s.ctx c).ctl
  match r with
  | .cid => s.cid c
  | .cyc => BitVec.ofNat 64 (s.die c.die).cyc
  | .mode => BitVec.ofNat 64 (flagAt k.precise 9 + flagAt k.rcap 8 + flagAt k.ps 1 + flagAt k.s 0)
  | .fpmode => BitVec.ofNat 64 (flagAt k.satf 2 + k.rm.toNat)
  | .tshape => s.tshape c
  | .tsaveh => k.tsaveh.zeroExtend 64
  | .trapv => k.trapv
  | .frec n => k.frec[n.toNat]
  | .evcnt n => (k.evcnt[n.toNat]).zeroExtend 64
  | .evth n => (k.evth[n.toNat]).zeroExtend 64
  | .evwin => k.evpos ++ k.evlen
  | .evact => BitVec.ofNat 64 (k.fired.toNat * 256 + k.host.toNat)
  | .ftbind => k.ftbind.zeroExtend 64
  | .world => BitVec.ofNat 64 (s.worldOf c.coreId % 8)

/-- MFC (R354). -/
def execMfc (g : Guard) (w : Bool) (d : GReg) (creg : Creg) (s : State) : Host.Outcome State Fault Refusal :=
  privRun (.mfc g w d creg) g s fun c =>
    s.finishG c w d (s.creg c creg) []

/-- FTBIND keeps V, Z and BASE (R69). -/
def ftbindOf (v : Word) : BitVec 16 := v.extractLsb' 0 16 &&& 0x811F

/-- FREC0 after a write (R248, R355): P, E and C keep their values, and R stays 0 while no record is held. -/
def frec0Of (old v : Word) (held : Bool) : Word :=
  let m : Word := if held then 0xC00003FF else 0x800003FF
  (old &&& 0x38000000) ||| (v &&& m)

/-- A value as TRAPV holds it: its reserved bits read 0 (R248). -/
def trapvOf (v : Word) : Word := v &&& ~~~(6 : Word)

/-- FREC as an image of it is copied back (R248, R257): reserved bits read 0. -/
def frecImage (f : Vector Word 4) : Vector Word 4 :=
  (f.set 0 (f[0] &&& 0xF80003FF)).set 3 (f[3] &&& ~~~(1 : Word))

/-- What MTC writes (R355). -/
def Ctl.write (k : Ctl) (r : Creg) (v : Word) (held : Bool) : Ctl :=
  match r with
  | .cid | .cyc | .tshape | .world => k
  | .mode => { k with s := v.getLsbD 0, ps := v.getLsbD 1 }
  | .fpmode => { k with satf := v.getLsbD 2, rm := v.extractLsb' 0 2 }
  | .tsaveh => { k with tsaveh := v.extractLsb' 0 8 }
  | .trapv => { k with trapv := trapvOf v }
  | .frec n =>
    let x := if n = 0 then frec0Of k.frec[0] v held else if n = 3 then v &&& ~~~(1 : Word) else v
    { k with frec := k.frec.set n.toNat x }
  | .evcnt n => { k with evcnt := k.evcnt.set n.toNat (v.extractLsb' 0 32) }
  | .evth n => { k with evth := k.evth.set n.toNat (v.extractLsb' 0 32) }
  | .evwin => { k with evlen := v.extractLsb' 0 32 }
  | .evact =>
    if k.s then { k with host := v.extractLsb' 0 8, fired := k.fired &&& ~~~(v.extractLsb' 8 8) } else k
  | .ftbind => { k with ftbind := ftbindOf v }

/-- MTC (R355): a record whose R is cleared is held no more. -/
def execMtc (g : Guard) (creg : Creg) (a : Src) (s : State) : Host.Outcome State Fault Refusal :=
  privRun (.mtc g creg a) g s fun c => do
    let x := s.ctx c
    let v ← s.readSrc c a
    let s := s.onCtl c fun k => k.write creg v x.wait.replay.isSome
    let s := if (s.ctx c).ctl.frecR then s else s.onWait c fun w => { w with replay := none }
    return s.advance c false

/-! ## CANCEL (R305, R306) -/

/-- The object at a level that contains a launch (R35): its id, 0 when there is none. -/
def State.ancestor (s : State) (world launch : Nat) (l : Level) : Nat :=
  let up (l : Level) (id : Nat) : Nat := match s.obj world l id with
    | some o => o.parent
    | none => 0
  match l with
  | .launch => launch
  | .graph => up .launch launch
  | .phase => up .graph (up .launch launch)
  | .job => up .phase (up .graph (up .launch launch))

/-- CANCEL (R306): the request sets out for the object's home die, and its result is late (R293). -/
def execCancel (g : Guard) (w : Bool) (d : GReg) (a : Src) (level : Level) (s : State) :
    Host.Outcome State Fault Refusal :=
  plainRun g s fun c => do
    let v ← s.readSrc c a
    s.useDestG c w d
    let (launch, home) := match (s.ctx c).unit with
      | some u => (u.launch, u.home)
      | none => (0, c.die)
    let n := (v.extractLsb' 0 32).toNat
    let id := if n = 0 then s.ancestor (s.worldOf c.coreId) launch level else n
    let req : CancelReq :=
      { src := some (c, s.fresh), level := level, id := id, world := s.worldOf c.coreId, user := !(s.ctx c).ctl.s,
        launch := launch, home := home, decided := false }
    let s := s.issueLate c (if w then .none else destG d) (.cancel level id) []
    return (s.onNet fun n => { n with cancels := n.cancels ++ [req] }).advance c false

end Sys2Proof.Machine
end

