-- ==== Sys2Proof/Machine/Transit.lean ====
section
/-! DEFINITION. Capsules outside a context (11_capsules R222, R226 to R230): arrival, checks on the way, the escape path
with its spill area, and delivery to a CAPSINK unit. -/

namespace Sys2Proof.Machine

/-! ## Runs of memory of any length -/

/-- Translate a run of bytes page by page (R143), without a TLB: an address with its translation for each page. -/
def State.xlatePages (s : State) (world : Nat) (k : XKind) (va : Word) (n : Nat) : Except XFault (List (Nat × Xlat)) :=
  let off := va.toNat % 4096
  (List.range ((off + n + 4095) / 4096)).mapM fun i => do
    let skip := if i = 0 then 0 else i * 4096 - off
    let x ← s.xlate [] world none k (va + BitVec.ofNat 64 skip)
    return (skip, x)

/-- The cell and key of byte `i` of a run that starts at `off` in its first page. -/
def pagesCell (xs : List (Nat × Xlat)) (off i : Nat) : Nat × Option Nat :=
  match xs[(off + i) / 4096]? with
  | some (skip, x) => (x.cell + (i - skip), x.key)
  | none => (0, none)

/-- The parts of a write by hardware of a run aligned to 16 bytes: its aligned sixteens (R198). -/
def runParts (xs : List (Nat × Xlat)) (va : Word) (data : List Byte) : List WritePart :=
  (List.range ((data.length + 15) / 16)).map fun i =>
    let c := pagesCell xs (va.toNat % 4096) (16 * i)
    .issue c.1 ((data.drop (16 * i)).take 16) c.2 false

/-- A write by hardware of a run of bytes. -/
def hwWrite (d : Nat) (src : Writer) (causal : Bool) (va : Word) (parts : List WritePart) (amo : Option AmoReq)
    (after : List Nat) : MemWrite :=
  .issue d src 0 va causal parts amo after

/-- Set the A and D bits of the pages of a run (R143). -/
def State.touchPages (s : State) (xs : List (Nat × Xlat)) (bits : Nat) : State :=
  xs.foldl (fun (s : State) (x : Nat × Xlat) => s.setPageBits x.2.entry.loc bits) s

/-- Bytes that hardware of a die reads from a run (R141). -/
def State.readPages (s : State) (d : Nat) (xs : List (Nat × Xlat)) (va : Word) (n : Nat) : List Byte :=
  (List.range n).flatMap fun i =>
    let c := pagesCell xs (va.toNat % 4096) i
    s.memBytes d (runAtHome xs) c.2 c.1 1

/-- The sectors of a run (R148). -/
def runSectors (xs : List (Nat × Xlat)) (va : Word) (n : Nat) : List Nat :=
  ((List.range n).map fun i => sectorOf (pagesCell xs (va.toNat % 4096) i).1).dedup

/-- Read bytes of a world's space by hardware of a die; none when a translation faults, or when the run meets an
uncorrectable or poisoned sector (R148). -/
def State.hwRead (s : State) (d world : Nat) (va : Word) (n : Nat) : Option (List Byte) :=
  match s.xlatePages world xRead va n with
  | .error _ => none
  | .ok xs => if (eccRead s.mem.ecc (runSectors xs va n)).fault.isSome then none else some (s.readPages d xs va n)

/-! ## Places (R230) -/

/-- The launch that a capsule counts on. -/
def State.capLaunch (s : State) (k : Capsule) : Option WorkObj := s.obj (hdrByte k.hdr 7) .launch k.launch

/-- The CAPSINK unit of a launch on a core (R229): its slot. -/
def State.sinkOn (s : State) (d core world launch : Nat) : Option Nat :=
  [0, 1, 2, 3].findSome? fun i =>
    match (s.slot d (4 * core + i)).sink with
    | some x => if x.launch = launch && x.world = world && !x.failed then some (4 * core + i) else none
    | none => none

/-- The CAPSINK unit of a launch at a place has ended by a fault (R229). -/
def State.sinkDead (s : State) (k : Capsule) (p : BitVec 17) : Bool :=
  (match s.capLaunch k with
   | some o => o.deadSinks.contains p
   | none => false) ||
  (placePkg p == s.pkg && [0, 1, 2, 3].any fun i =>
    match (s.slot (placeDie p) (4 * placeCore p + i)).sink with
    | some x => x.launch == k.launch && x.world == hdrByte k.hdr 7 && x.failed
    | none => false)

/-- A place is retired for a capsule (R230); a core whose spare map entry is being changed is not. -/
def State.retiredFor (s : State) (k : Capsule) (role : CapRole) (p : BitVec 17) : Bool :=
  let remap := placePkg p == s.pkg && (s.core { die := placeDie p, core := placeCore p }).remap
  (!s.placeIn (hdrByte k.hdr 7) p && !remap) ||
  match role with
  | .hop => false
  | .sink | .fault => s.sinkDead k p

/-- Where a capsule goes whose place is retired (R230): none when it is discarded. -/
def State.redirect (s : State) (k : Capsule) : Option (CapRole × BitVec 17) :=
  let sink := placeOf (capWord k.hdr 4)
  let fplace := placeOf (capWord k.hdr 5)
  let trySink := if s.retiredFor k .sink sink then none else some (CapRole.sink, sink)
  let tryFault := if s.retiredFor k .fault fplace then none else some (CapRole.fault, fplace)
  match k.role with
  | .hop => trySink <|> tryFault
  | .sink => tryFault
  | .fault => trySink

/-- The redirected flag (R220). -/
def capRedirected (h : CapHdr) : CapHdr := capSetByte h 6 (capByte h 6 ||| 2)

/-- The sender of a capsule awaits it no more (R197). -/
def State.capArrived (s : State) (sender : CtxId) (id : Nat) : State :=
  s.onCtx sender fun x => { x with sent := x.sent.filter fun n => n ≠ id }

/-- A capsule is discarded at a die (R230, R50). -/
def State.discardCap (s : State) (d : Nat) (k : Capsule) (sender : CtxId) : State :=
  ((s.capArrived sender k.id).leaveLaunch (hdrByte k.hdr 7) k.launch).notify d (.capsule (capWord k.hdr 0).toNat)

/-- A flight leaves the network with its beats. -/
def State.dropFlight (s : State) (f : CapFlight) : State :=
  let s := s.onNet fun x => { x with flights := x.flights.filter fun g => g.cap.id ≠ f.cap.id }
  (List.range 5).foldl (fun (s : State) d => s.onDie d fun x =>
    let keep (e : FlitEntry) : Bool := match e.beat with
      | some b => b.cap != f.cap.id
      | none => true
    { x with net := { x.net with
        beats := x.net.beats.filter fun b => b.cap ≠ f.cap.id,
        feed := x.net.feed.filter fun b => b.cap ≠ f.cap.id,
        links := x.net.links.map fun (p : Nat × LinkSt) => (p.1, { p.2 with queue := p.2.queue.filter keep }) } }) s

/-- A beat of a capsule is in the package's network or on a bridge. -/
def State.beatsLeft (s : State) (id : Nat) : Bool :=
  let has (e : FlitEntry) : Bool := match e.beat with
    | some b => b.cap == id
    | none => false
  (List.range 5).any fun d =>
    let x := (s.die d).net
    ((x.beats ++ x.feed).any fun b => b.cap == id) ||
    x.links.any fun (p : Nat × LinkSt) =>
      p.2.queue.any has || (p.2.wire ++ p.2.retry).any fun f => f.entries.any has

/-- Send a redirected capsule on from a router of a die (R230), or discard it. -/
def State.redirectFrom (s : State) (d router : Nat) (k : Capsule) (sender : CtxId) : State :=
  match s.redirect k with
  | none => s.discardCap d k sender
  | some (role, p) =>
    s.launchCap { k with hdr := capRedirected k.hdr, role := role, sink := none, taken := none } p sender d router 34

/-- CAPSULE_ROUTER_CHECK: the place of a capsule is checked on the way, and a retired one redirects it from the
router where its first beat is (R230). -/
def State.routerCheck (s : State) (n : Nat) : State :=
  match s.net.flights[n]? with
  | none => s
  | some f =>
    if f.escaping.isSome || !s.retiredFor f.cap f.cap.role f.place then s
    else
      let here : Nat × Nat :=
        if f.left = 0 then (placeDie f.place, coreRouter (placeCore f.place))
        else ((List.range 4).findSome? fun d =>
          (((s.die d).net.beats ++ (s.die d).net.feed).find? fun b => b.cap == f.cap.id).map fun b => (d, b.router)).getD (f.die, f.router)
      (s.dropFlight f).redirectFrom here.1 here.2 f.cap f.sender

/-- CAPSULE_ROUTER_CHECK (R230). -/
def execCapsuleRouterCheck (n : Nat) (s : State) : Host.Outcome State Fault Refusal := .next (s.routerCheck n)

/-! ## Readout, arrival, receipt -/

/-- CAPSULE_READOUT_END (R226). -/
def execCapsuleReadoutEnd (c : CtxId) (s : State) : Host.Outcome State Fault Refusal := ctxEvent c (s.readoutEnd c)

/-- CAPSULE_RECEIVE_DONE (R308). -/
def execCapsuleReceiveDone (c : CtxId) (s : State) : Host.Outcome State Fault Refusal := ctxEvent c (s.receiveDone c)

/-- A spilled capsule for a core waits in an area of its die (R227). -/
def State.spillWaits (s : State) (k : CoreId) : Bool :=
  (s.die k.die).spill.any fun (p : Nat × SpillSt) =>
    p.2.caps.any fun c => !c.gone && placeCore c.place == k.core

/-- A receive buffer of a core is free (R222), and the core takes capsules (R30). -/
def State.bufferFree (s : State) (k : CoreId) : Bool := decide ((s.core k).rxbuf.length < 2) && !(s.core k).remap

/-- A capsule takes a receive buffer (R222): one for a sink or fault place goes to the launch's CAPSINK unit there
(R229, R50). -/
def State.takeBuffer (s : State) (k : CoreId) (cap : Capsule) (sender : CtxId) : State :=
  let sink := match cap.role with
    | .hop => none
    | .sink | .fault => s.sinkOn k.die k.core (hdrByte cap.hdr 7) cap.launch
  (s.onCore k fun x => { x with rxbuf := x.rxbuf ++ [{ cap with sink := sink, taken := none }] }).capArrived sender cap.id

/-- The role of the place at which another package's capsule arrives (R225). -/
def outsideRole (h : CapHdr) (p : BitVec 17) : CapRole :=
  if capFlt h then .fault
  else if capCur h < capNhop h && capByte h 6 / 2 % 2 = 0 && placeOf (capHop h (capCur h)) = p then .hop
  else .sink

/-- CAPSULE_ARRIVE: a capsule whose last beat has passed the last router takes a free receive buffer, unless a spilled
capsule for the core comes first; otherwise it waits at the router (R222, R227). One for another package has left when
no beat of it is left. -/
def State.flightArrive (s : State) (n : Nat) : State :=
  match s.net.flights[n]? with
  | none => s
  | some f =>
    if placePkg f.place ≠ s.pkg then
      if s.beatsLeft f.cap.id then s
      else
        let a : AwayCap := { world := hdrByte f.cap.hdr 7, launch := f.cap.launch, id := f.cap.id }
        ((s.dropFlight f).capArrived f.sender f.cap.id).onNet fun x =>
          if f.cap.launch = 0 then x else { x with away := x.away ++ [a] }
    else if f.left ≠ 0 || f.escaping.isSome || s.retiredFor f.cap f.cap.role f.place then s
    else
      let k : CoreId := { die := placeDie f.place, core := placeCore f.place }
      if s.bufferFree k && !s.spillWaits k then (s.dropFlight f).takeBuffer k f.cap f.sender
      else if f.waiting then s
      else
        let cyc := (s.die k.die).cyc
        s.onNet fun x =>
          { x with flights := x.flights.map fun g =>
              if g.cap.id = f.cap.id then { g with waiting := true, since := cyc } else g }

/-- A capsule of a launch that is away in other packages has left it there, or comes back (R50): none when no capsule of the
launch is away. -/
def State.takeAway (s : State) (world launch : Nat) : Option State :=
  match s.net.away.find? fun a => a.world == world && a.launch == launch with
  | none => none
  | some a => some (s.onNet fun x => { x with away := x.away.erase a })

/-- A capsule of a launch leaves it in another package: the launch count falls (R50). -/
def State.awayDone (s : State) (world launch : Nat) : State :=
  match s.takeAway world launch with
  | none => s
  | some t => t.leaveLaunch world launch

/-- A capsule that another package sends comes by the I/O die's bridge to the die of its place, beat by beat on its world's
capsule channel (R161, R226): it orders no accesses (R165). -/
def State.comeIn (s : State) (p : BitVec 17) (hdr : CapHdr) (data : List Byte) (launch : Nat) : State :=
  let cap : Capsule :=
    { hdr := hdr, data := data, launch := launch, home := 5, id := s.fresh, clock := Stamp.zero, role := outsideRole hdr p,
      taken := none, sink := none }
  let n := capBeats hdr
  let router := 144 + coreRouter (placeCore p) % 16
  let b : Beat :=
    { cap := cap.id, chan := .capsule, world := hdrByte hdr 7, place := p, router := router, inp := 37, ready := 0 }
  let f : CapFlight :=
    { cap := cap, place := p, sender := { die := placeDie p, core := placeCore p, ctx := 0 }, waiting := false, since := 0,
      left := n, die := placeDie p, router := router, escaping := none, spoiled := false }
  let e : FlitEntry := { tag := beatTag b.world b.chan, val := 0, clock := none, launch := 0, beat := some b }
  ((s.onNet fun x => { x with flights := x.flights ++ [f] }).onEnd 4 (32 + placeDie p) fun l =>
    { l with queue := l.queue ++ List.replicate n e }).bump

/-- A capsule of another package arrives at the I/O die (R226): one of no launch of this package, or one that comes back. -/
def State.outsideArrive (s : State) (p : BitVec 17) (hdr : CapHdr) (data : List Byte) (launch : Nat) : State :=
  if placePkg p ≠ s.pkg || data.length ≠ capSize hdr then s
  else if launch = 0 then s.comeIn p hdr data 0
  else match s.takeAway (hdrByte hdr 7) launch with
    | none => s
    | some t => t.comeIn p hdr data launch

/-- CAPSULE_ARRIVE (R222). -/
def execCapsuleArrive (a : CapIn) (s : State) : Host.Outcome State Fault Refusal :=
  match a with
  | .flight n => .next (s.flightArrive n)
  | .outside p hdr data launch => .next (s.outsideArrive p hdr data launch)

/-! ## The escape path (R227, R228) -/

/-- The spill area of a world on a die. -/
def State.spillOf (s : State) (d w : Nat) : SpillSt := Map.get (s.die d).spill SpillSt.reset w

/-- Change a spill area. -/
def State.onSpill (s : State) (d w : Nat) (f : SpillSt → SpillSt) : State :=
  s.onDie d fun x => { x with spill := Map.upd x.spill SpillSt.reset w f }

/-- The area has room (R228). -/
def SpillSt.room (a : SpillSt) : Bool := a.base != 0 && decide (a.caps.length < a.slots)

/-- A spill write of the area is under way. -/
def State.spilling (s : State) (d w : Nat) : Bool :=
  s.net.flights.any fun f => f.escaping.isSome && placeDie f.place == d && hdrByte f.cap.hdr 7 == w

/-- The address of a slot of a spill area or sink ring (R228, R229). -/
def slotAddr (base : Word) (n : Nat) : Word := base + BitVec.ofNat 64 (n * 16448)

/-- The bytes of a capsule in a slot (R228). -/
def capBytes (h : CapHdr) (data : List Byte) : List Byte := leBytes h.toNat 64 ++ data

/-- CAPSULE_ESCAPE: after 4,096 cycles at the router the management core begins to move the capsule into the spill area
of its world; a write that faults leaves it waiting, and one that is held for a change of the spare map stays (R227, R228,
R30). -/
def State.escape (s : State) (n : Nat) : State :=
  match s.net.flights[n]? with
  | none => s
  | some f =>
    let d := placeDie f.place
    let w := hdrByte f.cap.hdr 7
    let a := s.spillOf d w
    if !f.waiting || f.escaping.isSome || (s.core { die := d, core := placeCore f.place }).remap ||
        (s.die d).cyc < f.since + 4096 || !a.room || s.spilling d w then s
    else
      let bs := capBytes f.cap.hdr f.cap.data
      let va := slotAddr a.base a.head
      match s.xlatePages w xWrite va bs.length with
      | .error _ => s.notify d (.capsule (capWord f.cap.hdr 0).toNat)
      | .ok xs =>
        let id := s.fresh
        let s := s.onNet fun x =>
          { x with flights := x.flights.map fun g => if g.cap.id = f.cap.id then { g with escaping := some id } else g }
        (s.touchPages xs 0x30).sendWrite (hwWrite d (.mgmt d) true va (runParts xs va bs) none [])

/-- CAPSULE_ESCAPE (R227). -/
def execCapsuleEscape (n : Nat) (s : State) : Host.Outcome State Fault Refusal := .next (s.escape n)

/-- A write has been acknowledged. -/
def State.isAcked (s : State) (id : Nat) : Bool :=
  match s.write id with
  | some w => w.acked
  | none => true

/-- CAPSULE_SPILL_DONE: the spill write is acknowledged, and the capsule leaves the router (R227, R228). After one that has met a
fault it goes on waiting there, HEAD and COUNT are as they were, and the management core is told. -/
def State.spillDone (s : State) (n : Nat) : State :=
  match s.net.flights[n]? with
  | none => s
  | some f =>
    match f.escaping with
    | none => s
    | some id =>
      let d := placeDie f.place
      if f.spoiled then
        (s.onNet fun x => { x with flights := x.flights.map fun g =>
          if g.cap.id = f.cap.id then { g with escaping := none, spoiled := false } else g }).notify d
            (.capsule (capWord f.cap.hdr 0).toNat)
      else if !s.isAcked id then s
      else
        (s.dropFlight f).onSpill d (hdrByte f.cap.hdr 7) fun a =>
          let e : Spilled :=
            { slot := a.head, cap := f.cap, place := f.place, sender := f.sender, write := id, gone := false }
          { a with head := (a.head + 1) % a.slots, caps := a.caps ++ [e] }

/-- CAPSULE_SPILL_DONE (R228). -/
def execCapsuleSpillDone (n : Nat) (s : State) : Host.Outcome State Fault Refusal := .next (s.spillDone n)

/-- TAIL passes over the slots of discarded capsules (R38). -/
def SpillSt.skipGone (a : SpillSt) : SpillSt :=
  let n := (a.caps.takeWhile fun c => c.gone).length
  { a with caps := a.caps.drop n, tail := if a.slots = 0 then 0 else (a.tail + n) % a.slots }

/-- The capsule of a slot leaves its area. -/
def SpillSt.pop (a : SpillSt) : SpillSt :=
  ({ a with caps := a.caps.drop 1, tail := (a.tail + 1) % a.slots }).skipGone

/-- CAPSULE_UNSPILL: the oldest spilled capsule of an area is read back and takes a free receive buffer of its core
(R227, R228); one whose place is retired by then is redirected from the management core's router (R230). -/
def State.unspill (s : State) (d w : Nat) : State :=
  match (s.spillOf d w).caps with
  | [] => s
  | e :: _ =>
    let k : CoreId := { die := d, core := placeCore e.place }
    let retired := s.retiredFor e.cap e.cap.role e.place
    if !s.isApplied d e.write || (!retired && !s.bufferFree k) then s
    else
      let va := slotAddr (s.spillOf d w).base e.slot
      match s.xlatePages w xRead va (64 + e.cap.data.length) with
      | .error _ => s.notify d (.capsule (capWord e.cap.hdr 0).toNat)
      | .ok xs =>
        let bs := s.readPages d xs va (64 + e.cap.data.length)
        let cap := { e.cap with hdr := BitVec.ofNat 512 (leNat (bs.take 64)), data := bs.drop 64 }
        let s := (s.touchPages xs 0x10).onSpill d w SpillSt.pop
        if retired then s.redirectFrom d 0 cap e.sender else s.takeBuffer k cap e.sender

/-- CAPSULE_UNSPILL (R227). -/
def execCapsuleUnspill (die world : Nat) (s : State) : Host.Outcome State Fault Refusal :=
  dieEvent die (s.unspill die world)

/-! ## CAPSINK units (R229) -/

/-- The oldest capsule in a core's buffers that a CAPSINK unit receives. -/
def State.sinkHead (s : State) (d slot : Nat) : Option Capsule :=
  (s.core { die := d, core := slot / 4 }).rxbuf.find? fun k => k.sink == some slot

/-- A capsule leaves its receive buffer. -/
def State.freeBuffer (s : State) (k : CoreId) (id : Nat) : State :=
  s.onCore k fun x => { x with rxbuf := x.rxbuf.filter fun y => y.id ≠ id }

/-- One write of a CAPSINK unit to its ring, a causal write that its acknowledgements count (R229): the state with the write's
number, or the fault of its translation. -/
def State.sinkPut (s : State) (d slot world : Nat) (va : Word) (bs : List Byte) (amo : Bool) (after : List Nat) :
    Except FCode (State × Nat) :=
  match s.xlatePages world xWrite va bs.length with
  | .error e => .error e.code
  | .ok xs =>
    let loc := match xs with
      | (_, y) :: _ => y.entry.loc
      | [] => 0
    let q : AmoReq := { op := .add, size := 8, operand := 1, compare := 0, loc := loc, old := none, srcs := [] }
    let id := s.fresh
    let s := (s.touchPages xs (if amo then 0x10 else 0x30)).sendWrite
      (hwWrite d (.sink d slot) true va (runParts xs va bs) (if amo then some q else none) after)
    .ok (s.onSink d slot fun y => { y with pending := y.pending + 1 }, id)

/-- The writes of a CAPSINK unit for a capsule (R229): the data rows, then the header, then the counter. A write that faults ends
the unit, the writes before it stand, and the capsule counts as delivered. -/
def State.sinkWrites (s : State) (d slot : Nat) (x : SinkSt) (k : Capsule) : State :=
  let at0 := slotAddr (x.base + 64) (x.count % x.slots)
  let ends (s : State) (c : FCode) : State := (s.sinkFault d slot c).leaveLaunch x.world k.launch
  match s.sinkPut d slot x.world (at0 + 64) k.data false [] with
  | .error c => ends s c
  | .ok (s, i1) =>
    match s.sinkPut d slot x.world at0 (leBytes k.hdr.toNat 64) false [i1] with
    | .error c => ends s c
    | .ok (s, i2) =>
      match s.sinkPut d slot x.world x.base (List.replicate 8 0) true [i2] with
      | .error c => ends s c
      | .ok (s, _) => s.onSink d slot fun y => { y with count := y.count + 1, hdrs := y.hdrs ++ [(i2, k.launch)] }

/-- CAPSINK_DELIVER: the sink writes a capsule to its ring (R229). A capsule that finds the unit ended by a fault is
redirected. -/
def State.sinkDeliver (s : State) (d slot : Nat) : State :=
  match (s.slot d slot).sink, s.sinkHead d slot with
  | some x, some k =>
    let core : CoreId := { die := d, core := slot / 4 }
    let s := s.freeBuffer core k.id
    if x.failed then s.redirectFrom d (coreRouter core.core) k { die := d, core := core.core, ctx := 0 }
    else s.sinkWrites d slot x k
  | some _, none | none, _ => s

/-- CAPSINK_DELIVER (R229). -/
def execCapsinkDeliver (die slot : Nat) (s : State) : Host.Outcome State Fault Refusal :=
  if die < 4 && slot < 512 then .next (s.sinkDeliver die slot) else .fault .noSuchPart

/-- CAPSINK_HEADER_ACK: the header write is acknowledged, and the launch count falls (R229, R50). -/
def State.sinkAck (s : State) (d slot : Nat) : State :=
  match (s.slot d slot).sink with
  | none => s
  | some x =>
    match x.hdrs with
    | [] => s
    | (id, launch) :: rest =>
      let s := if s.isAcked id then s else s.ackWrite id
      if s.isAcked id then (s.onSink d slot fun y => { y with hdrs := rest }).leaveLaunch x.world launch else s

/-- CAPSINK_HEADER_ACK (R229). -/
def execCapsinkHeaderAck (die slot : Nat) (s : State) : Host.Outcome State Fault Refusal :=
  if die < 4 && slot < 512 then .next (s.sinkAck die slot) else .fault .noSuchPart

end Sys2Proof.Machine
end

