-- ==== Sys2Proof/Machine/Cancel.lean ====
section
/-! DEFINITION. Cancels (02_work R38 to R40, 16_reference R306): the object's status, and then the stop of its units,
streams and capsules. -/

namespace Sys2Proof.Machine

/-! ## Stopping a unit (R38 steps 2 and 3) -/

/-- A Sieve of a die. -/
def State.sieve (s : State) (d n : Nat) : SieveSt := Map.get (s.die d).sieves SieveSt.reset n

/-- Change a Sieve. -/
def State.onSieve (s : State) (d n : Nat) (f : SieveSt → SieveSt) : State :=
  s.onDie d fun x => { x with sieves := Map.upd x.sieves SieveSt.reset n f }

/-- A slot is free again; its FIFO and what firmware has written to it stay (R237, R256). -/
def State.freeSlot (s : State) (d n : Nat) : State :=
  s.onSlot d n fun x => { x with state := 0, bound := none, loaded := false, sink := none, since := (s.die d).cyc }

/-- Decrease the counter of a launch. -/
def State.lower (s : State) (world launch n : Nat) : State :=
  s.onObj world .launch launch fun o => { o with counter := o.counter - n }

/-- The slot of a CAPSINK unit is free; the capsules that it has delivered and whose header writes it still awaits leave
their launch with it (R50, R38). -/
def State.dropSink (s : State) (d n : Nat) : State :=
  match (s.slot d n).sink with
  | none => s.freeSlot d n
  | some x => (x.hdrs.foldl (fun (s : State) h => s.lower x.world h.2 1) s).freeSlot d n

/-- The tokens that the operator of a region has still to send are discarded with its streams (R38). -/
def RegionSt.silence (r : RegionSt) : RegionSt :=
  match r.active with
  | none => r
  | some a => { r with emitted := max r.emitted (Config.opOutputs a.digest r.hist (r.arrivals a)).length }

/-- The writes of a stopped unit go on under its launch's name (R201). -/
def MemSt.orphan (m : MemSt) (key : Nat) (mine : Writer → Bool) : MemSt :=
  { m with writes := m.writes.map fun w => if mine w.src then { w with src := .gone key } else w }

/-- A write belongs to a context or to its engine operations. -/
def ofCtx (c : CtxId) : Writer → Bool
  | .ctx x => x == c
  | .engine x _ => x == c
  | .mgmt _ | .sink _ _ | .gone _ | .sec | .other => false

/-- The capsule that a context holds is discarded (R38, R231). -/
def State.dropHeld (s : State) (c : CtxId) : State :=
  match (s.ctx c).cap with
  | none => s
  | some k => (s.onCtx c fun x => { x with cap := none }).leaveLaunch (hdrByte k.hdr 7) k.launch

/-- A capsule that a context was moving in is one that waits again. -/
def State.untake (s : State) (c : CtxId) : State :=
  s.onCore c.coreId fun x =>
    { x with rxbuf := x.rxbuf.map fun k => if k.taken = some c.ctx then { k with taken := none } else k }

/-- The unit of a context stops: its queues are flushed, its page faults withdrawn, its capsule discarded, its handles
freed, and its slot is free (R38). -/
def State.stopCtx (s : State) (c : CtxId) : State :=
  match (s.ctx c).unit with
  | none => s
  | some u =>
    let s := if (s.eng c.coreId .ce).active.any fun op => op.ctx == c.ctx then s.finishSector c.coreId 12 else s
    let s := ((s.discardOps c fun _ => true).dropHeld c).untake c
    let halted (k : CoreId) (e : Engine) (n : Nat) : Bool := match (s.eng k e).active with
      | some op => op.halted == some n
      | none => false
    let s := s.onMem fun m =>
      { m.orphan (launchKey u.world u.launch) (ofCtx c) with
          faults := m.faults.filter fun (p : Nat × PageFault) => match p.2.who with
            | .ctx x => x ≠ c
            | .engine k e => halted k e p.1 }
    let s := s.leaveCtx c
    let s := s.onCtx c fun x => { x with sent := [] }
    if (s.core c.coreId).holder = some c.ctx then s.giveUp c else s

/-- The unit of a slot of a die stops, whatever its kind (R38). -/
def State.stopSlot (s : State) (d n key : Nat) : State :=
  if n < 512 then
    match (s.slot d n).sink with
    | some _ => (s.onMem fun m => m.orphan key fun w => w == .sink d n).dropSink d n
    | none => s.stopCtx { die := d, core := n / 4, ctx := n % 4 }
  else if n < 544 then
    (s.onRegion d (n - 512) fun r =>
      { r.silence with unit := none, run := false, mtiles := [], ins := [], outs := [], cut := false }).freeSlot d n
  else (s.onSieve d (n - 544) fun _ => SieveSt.reset).freeSlot d n

/-! ## Streams and capsules of a launch (R38 steps 4 and 5) -/

/-- The ports of a launch are emptied and unbound. -/
def dropIns (key : Nat) (m : Map InPort) : Map InPort := m.filter fun p => p.2.launch ≠ key
/-- The ports of a launch are emptied and unbound. -/
def dropOuts (key : Nat) (m : Map OutPort) : Map OutPort := m.filter fun p => p.2.launch ≠ key

/-- A bridge end without the entries of a launch. -/
def LinkSt.dropLaunch (l : LinkSt) (key : Nat) : LinkSt :=
  let keep (e : FlitEntry) : Bool := e.beat.isSome || e.launch != key
  let flit (f : Flit) : Flit := { f with entries := f.entries.filter keep }
  { l with queue := l.queue.filter keep, wire := l.wire.map flit, retry := l.retry.map flit }

/-- The routers and bridges of a die without the streams of a launch. -/
def DieNet.dropLaunch (x : DieNet) (key : Nat) : DieNet :=
  { x with
    transit := x.transit.filter fun f => f.launch ≠ key,
    links := x.links.map fun (p : Nat × LinkSt) => (p.1, p.2.dropLaunch key),
    tx := x.tx.filter fun (p : Nat × TxStream) => p.2.launch ≠ key,
    rx := x.rx.filter fun (p : Nat × RxStream) => p.2.launch ≠ key }

/-- The streams of a launch are discarded. -/
def State.dropStreams (s : State) (key : Nat) : State :=
  let s := { s with cores := s.cores.map fun (p : CoreId × CoreSt) =>
    (p.1, { p.2 with inp := dropIns key p.2.inp, out := dropOuts key p.2.out }) }
  let s := { s with dies := s.dies.map fun (p : Nat × DieSt) =>
    (p.1, { p.2 with net := p.2.net.dropLaunch key, cin := dropIns key p.2.cin, cout := dropOuts key p.2.cout }) }
  s.onNet fun x => { x with credits := x.credits.filter fun c => c.launch ≠ key }

/-- A capsule counts on a launch. -/
def Capsule.counts (k : Capsule) (world launch : Nat) : Bool := k.launch == launch && hdrByte k.hdr 7 == world

/-- The capsules of a launch are discarded wherever they lie, and those that are in other packages count no more (R38
step 5). -/
def State.dropCapsules (s : State) (world launch : Nat) : State :=
  let mine (k : Capsule) : Bool := k.counts world launch
  let fl := s.net.flights.filter fun f => mine f.cap
  let s := fl.foldl (fun (s : State) f => ((s.dropFlight f).capArrived f.sender f.cap.id).lower world launch 1) s
  let s := s.cores.foldl (fun (s : State) (p : CoreId × CoreSt) =>
    let gone := p.2.rxbuf.filter mine
    let s := gone.foldl (fun (s : State) k => match k.taken with
      | some n => s.onWait (p.1.ctx n) fun w => { w with park := some .capsule }
      | none => s) s
    (s.onCore p.1 fun x => { x with rxbuf := x.rxbuf.filter fun k => !mine k }).lower world launch gone.length) s
  let s := s.ctxs.foldl (fun (s : State) (p : CtxId × CtxSt) => match (s.ctx p.1).cap with
    | some k => if k.launch = launch && hdrByte k.hdr 7 = world then s.dropHeld p.1 else s
    | none => s) s
  let away (a : AwayCap) : Bool := a.world == world && a.launch == launch
  let n := (s.net.away.filter away).length
  let s := (s.onNet fun x => { x with away := x.away.filter fun a => !away a }).lower world launch n
  (List.range 4).foldl (fun (s : State) d =>
    let a := s.spillOf d world
    let n := (a.caps.filter fun c => !c.gone && mine c.cap).length
    if n = 0 then s
    else
      (s.onSpill d world fun a => SpillSt.skipGone
        { a with caps := a.caps.map fun c => if mine c.cap then { c with gone := true } else c }).lower world launch n) s

/-! ## Stopping a launch -/

/-- The records of a launch leave the bind FIFOs of a die. -/
def State.dropRecords (s : State) (world launch : Nat) : State :=
  let keep (r : BindRec) : Bool := !(recLaunch r == launch && recWorld r == world)
  { s with dies := s.dies.map fun (p : Nat × DieSt) => (p.1, { p.2 with
      slots := p.2.slots.map fun (q : Nat × SlotSt) => (q.1, { q.2 with fifo := q.2.fifo.filter keep }) }) }

/-- The units of a launch that are bound stop, and its streams are discarded. -/
def State.stopUnits (s : State) (o : WorkObj) : State :=
  let key := launchKey o.world o.id
  let bound := o.units.filter fun u => u.stage == .loaded || u.stage == .running
  let s := bound.foldl (fun (s : State) u => s.stopSlot u.die u.slot key) (s.dropRecords o.world o.id)
  s.dropStreams key

/-- The units of a launch stop, and it is left without streams and capsules; units whose end report is on its way are
counted when it arrives (R38, R36). -/
def State.stopLaunch (s : State) (world launch : Nat) : State :=
  match s.obj world .launch launch with
  | none => s
  | some o =>
    let s := (s.stopUnits o).dropCapsules world launch
    let n := (o.units.filter fun u => u.stage != .ended && u.stage != .reporting).length
    let s := s.onObj world .launch launch fun o =>
      { o with cutting := false,
               units := o.units.map fun u => if u.stage = .reporting then u else { u with stage := .ended } }
    (s.lower world launch n).settle

/-! ## Cancelling an object -/

/-- The objects one level below those of a list. -/
def State.childrenOf (s : State) (os : List WorkObj) : List WorkObj :=
  s.work.objs.filter fun o => os.any fun p =>
    p.world == o.world && levelUp o.level == some p.level && o.parent == p.id

/-- An object with every object below it (R38). -/
def State.family (s : State) (o : WorkObj) : List WorkObj :=
  let a := s.childrenOf [o]
  let b := s.childrenOf a
  [o] ++ a ++ b ++ s.childrenOf b

/-- The status of an object and of every object below it that still runs (R38 step 1). -/
def State.decideCancel (s : State) (o : WorkObj) (st : ObjStatus) (r : Report) : State :=
  let s := (s.family o).foldl (fun (s : State) (x : WorkObj) =>
    s.onObj x.world x.level x.id fun y => if y.status = .running then { y with status := .cancelled } else y) s
  s.onObj o.world o.level o.id fun y => { y with status := st, report := r }

/-- The launches of a cancelled object stop (R38 steps 2 to 6). -/
def State.finishCancel (s : State) (o : WorkObj) : State :=
  ((s.family o).foldl (fun (s : State) (x : WorkObj) =>
    if x.level = .launch && !x.posted then s.stopLaunch x.world x.id else s) s).settle

/-- A launch, by key, has been cancelled or has failed. -/
def State.launchLost (s : State) (k : Nat) : Bool :=
  match s.obj (k / 2 ^ 32) .launch (k % 2 ^ 32) with
  | some o => o.status == .cancelled || o.status == .faulted
  | none => false

/-- A sequence with a launch that has been cancelled ends in STATE 4, and the launch that waits for its start token is
cancelled (R275). -/
def State.seqAbort (s : State) : State :=
  (List.range 4).foldl (fun (s : State) d =>
    let q := (s.die d).mgmt.seq
    if q.go && (q.run.any s.launchLost || q.wait.any s.launchLost) then
      let s := s.onDie d fun x =>
        { x with mgmt := { x.mgmt with seq := { q with go := false, st := 4, run := none, wait := none } } }
      match q.wait with
      | none => s
      | some k => match s.obj (k / 2 ^ 32) .launch (k % 2 ^ 32) with
        | some o => if o.status = .running && !s.isOver o then (s.decideCancel o .cancelled { status := 0, fcode := 0, detail := 0 }).finishCancel o else s
        | none => s
    else s) s

/-- Cancel an object whole, with a status and a report (R38); one that is complete stays as it is (R39). -/
def State.cancelObj (s : State) (o : WorkObj) (st : ObjStatus) (r : Report) : State :=
  if o.status = .running && !s.isOver o then ((s.decideCancel o st r).finishCancel o).seqAbort else s

/-- The report of a plain cancel. -/
def Report.none : Report := { status := 0, fcode := 0, detail := 0 }

/-- The job that contains an object. -/
def State.jobOf (s : State) (o : WorkObj) : Nat :=
  let up (l : Level) (id : Nat) : Nat := match s.obj o.world l id with
    | some p => p.parent
    | none => 0
  match o.level with
  | .job => o.id
  | .phase => o.parent
  | .graph => up .phase o.parent
  | .launch => up .phase (up .graph o.parent)

/-- The result of a cancel (R39, R40). -/
def State.cancelResult (s : State) (q : CancelReq) : Nat × Option WorkObj :=
  match s.obj q.world q.level q.id with
  | none => (2, none)
  | some o =>
    let own := match s.obj q.world .launch q.launch with
      | some l => s.jobOf l == s.jobOf o
      | none => false
    if q.user && !own then (3, none)
    else if o.status ≠ .running || s.isOver o then (1, none)
    else (0, some o)

/-- The caller of a cancel is a unit of the object's. -/
def State.callerIn (s : State) (q : CancelReq) (o : WorkObj) : Bool :=
  q.src.isSome && (s.family o).any fun x => x.level == .launch && x.id == q.launch

/-- The late result of a cancel takes its value (R293, R306). -/
def State.answerCancel (s : State) (q : CancelReq) (v : Nat) : State :=
  match q.src with
  | none => s
  | some (c, id) => s.onWait c fun w =>
      { w with lates := w.lates.map fun l => if l.id = id then { l with value := some (BitVec.ofNat 64 v) } else l }

/-- The result of a cancel has landed, or its caller has gone. -/
def State.landed (s : State) (q : CancelReq) : Bool :=
  match q.src with
  | none => true
  | some (c, id) => !((s.ctx c).wait.lates.any fun l => l.id == id)

/-- A request leaves the cancels on their way. -/
def State.dropCancel (s : State) (n : Nat) : State := s.onNet fun x => { x with cancels := x.cancels.eraseIdx n }

/-- The units of a cancelled object stop, but for that of one context (R40). -/
def State.stopOthers (s : State) (o : WorkObj) (c : CtxId) : State :=
  (s.family o).foldl (fun (s : State) (x : WorkObj) =>
    if x.level != .launch || x.posted then s
    else
      let key := launchKey x.world x.id
      let gone := x.units.filter fun u => (u.stage == .loaded || u.stage == .running) && !(u.die == c.die && u.slot == c.slot)
      let s := gone.foldl (fun (s : State) u => s.stopSlot u.die u.slot key) (s.dropRecords x.world x.id)
      (s.onObj x.world .launch x.id fun y =>
        { y with units := y.units.map fun u =>
            if gone.any fun v => v.index == u.index then { u with stage := .ended } else u }).lower x.world x.id gone.length) s

/-- CANCEL_APPLY: a cancel reaches the home die of its object (R38, R39). When the object contains the caller, every other
unit stops, the result is written, the caller stops at the boundary at which it has landed, and the event then ends its unit
(R40). -/
def State.cancelApply (s : State) (n : Nat) : State :=
  match s.net.cancels[n]? with
  | none => s
  | some q =>
    if q.decided then
      match s.obj q.world q.level q.id with
      | none => s.dropCancel n
      | some o => if s.landed q then ((s.dropCancel n).finishCancel o).seqAbort else s
    else
      match s.cancelResult q with
      | (v, none) => (s.dropCancel n).answerCancel q v
      | (v, some o) =>
        let s := (s.answerCancel q v).decideCancel o .cancelled Report.none
        if s.callerIn q o then
          (match q.src with
           | some (c, _) => s.stopOthers o c
           | none => s).onNet fun x => { x with cancels := x.cancels.set n { q with decided := true } }
        else ((s.dropCancel n).finishCancel o).seqAbort

/-- CANCEL_APPLY (R38). -/
def execCancelApply (n : Nat) (s : State) : Host.Outcome State Fault Refusal := .next (s.cancelApply n)

/-- LAUNCH_WATCHDOG_EXPIRE: a launch has run WDOG cycles since its start token, counted on its home die (R246). -/
def State.watchdogExpire (s : State) (world launch : Nat) : State :=
  match s.obj world .launch launch with
  | none => s
  | some o =>
    match o.started with
    | none => s
    | some t =>
      if (s.die o.home).cyc < t + o.wdog then s
      else s.cancelObj o .cancelled { status := 5, fcode := 0x68, detail := 0 }

/-- LAUNCH_WATCHDOG_EXPIRE (R246). -/
def execLaunchWatchdogExpire (world launch : Nat) (s : State) : Host.Outcome State Fault Refusal :=
  .next (s.watchdogExpire world launch)

end Sys2Proof.Machine
end

