-- ==== Sys2Proof/Machine/Control.lean ====
section
/-! DEFINITION. Branches and loops: BR, BRX, CALL, CALLX and RET (R303, R304, R372) and the loop
instructions (R64 to R66, R347 to R350). -/

namespace Sys2Proof.Machine

/-- A branch target is a multiple of 8 (R303). -/
def checkTarget (t : Word) : Act Unit := must (t.extractLsb' 0 3 = 0) .align t

/-- PC + 8 × disp36 (R303). -/
def State.dispTarget (s : State) (c : CtxId) (disp : BitVec 36) : Word :=
  s.pc c + (disp.signExtend 64 <<< 3)

/-- Run a branch (R303): with a false guard it is not taken and is no switch point (R75). -/
def branchRun (g : Guard) (s : State) (link : Bool) (target : CtxId → Act Word) :
    Host.Outcome State Fault Refusal :=
  let c := s.cur
  settle c s (
    if s.guardTrue c g then do
      s.notForced c
      let t ← target c
      if link then s.useReg c (.g 31)
      checkTarget t
      let s' := s.invalidate c
      let s' := if link then s'.resultG c false 31 (s.pc c + 8) [] else s'
      return s'.branchTo c t
    else .ok (s.advance c false))

/-- BR (R303). -/
def execBr (g : Guard) (disp : BitVec 36) (s : State) : Host.Outcome State Fault Refusal :=
  branchRun g s false fun c => .ok (s.dispTarget c disp)
/-- BRX (R303). -/
def execBrx (g : Guard) (a : GReg) (s : State) : Host.Outcome State Fault Refusal :=
  branchRun g s false fun c => s.readG c a
/-- CALL (R304). -/
def execCall (g : Guard) (disp : BitVec 36) (s : State) : Host.Outcome State Fault Refusal :=
  branchRun g s true fun c => .ok (s.dispTarget c disp)
/-- CALLX (R304): the target is read before g31 is written. -/
def execCallx (g : Guard) (a : GReg) (s : State) : Host.Outcome State Fault Refusal :=
  branchRun g s true fun c => s.readG c a
/-- RET (R372). -/
def execRet (g : Guard) (a : GReg) (s : State) : Host.Outcome State Fault Refusal :=
  branchRun g s false fun c => s.readG c a

/-! ## Loops -/

/-- The nesting rules of R66 for an LPSET of `z` with the given end. -/
def Regs.nestOk (r : Regs) (z : Bool) (fin : Word) : Bool :=
  if z then !(r.z[0].active && r.z[0].fin.ult fin) else !(r.z[1].active && fin.ult r.z[1].fin)

/-- LPSET with a count of 0 (R348): the loop stays inactive, PC goes past its end, and the other loop
is tested as if the instruction at the end had executed; a switch point. -/
def State.skipLoop (s : State) (c : CtxId) (z : Bool) (fin : Word) : State :=
  let s := s.onRegs c fun r =>
    (r.setZ z { start := s.pc c + 8, fin := fin, initial := 0, remaining := 0, active := false }).invalidate
  if (s.ctx c).ctl.s then s.advanceTo c (fin + 8) true
  else
    match ((s.ctx c).regs.getZ (!z)).test fin with
    | none => s.advanceTo c (fin + 8) true
    | some (x, back) =>
      let s := s.onRegs c fun r => r.setZ (!z) x
      s.advanceTo c (if back then x.start else fin + 8) true

/-- Arm a loop (R64, R348). -/
def State.armLoop (s : State) (c : CtxId) (z : Bool) (disp : BitVec 36) (count : Word) : Act State := do
  let fin := s.dispTarget c disp
  must (count.toNat < 2 ^ 32) .illOpnd
  must ((s.ctx c).regs.nestOk z fin) .illOpnd
  if count = 0 then
    s.notForced c
    return s.skipLoop c z fin
  else
    let n := count.extractLsb' 0 32
    let x : LoopReg := { start := s.pc c + 8, fin := fin, initial := n, remaining := n, active := true }
    return (s.onRegs c fun r => r.setZ z x).advance c false

/-- LPSET with the count in a register (R347, R348). -/
def execLpsetReg (g : Guard) (z : Bool) (a : GReg) (disp : BitVec 36) (s : State) :
    Host.Outcome State Fault Refusal :=
  plainRun g s fun c => do
    let n ← s.readG c a
    s.armLoop c z disp n

/-- LPSET with an immediate count (R347, R348). -/
def execLpsetImm (g : Guard) (z : Bool) (count : BitVec 5) (disp : BitVec 36) (s : State) :
    Host.Outcome State Fault Refusal :=
  plainRun g s fun c => s.armLoop c z disp (count.zeroExtend 64)

/-- LPCLR (R350). -/
def execLpclr (g : Guard) (z : Bool) (s : State) : Host.Outcome State Fault Refusal :=
  plainRun g s fun c =>
    .ok ((s.onRegs c fun r => r.setZ z { r.getZ z with active := false }).advance c false)

/-- What LPGET reads (R349). -/
def LoopReg.part (x : LoopReg) (sel : LpSel) : Word :=
  match sel with
  | .cnt => x.initial ++ x.remaining
  | .start => x.start ||| (if x.active then 1 else 0)
  | .fin => x.fin

/-- LPGET (R349). -/
def execLpget (x : LpArgs) (s : State) : Host.Outcome State Fault Refusal :=
  plainRun x.guard s fun c => s.finishG c false x.a (((s.ctx c).regs.getZ x.z).part x.sel) []

/-- What LPRST writes (R349). -/
def LoopReg.withPart (x : LoopReg) (sel : LpSel) (v : Word) : Act LoopReg :=
  match sel with
  | .cnt => .ok { x with initial := v.extractLsb' 32 32, remaining := v.extractLsb' 0 32 }
  | .start => do
    must (v.extractLsb' 1 2 = 0) .illOpnd
    return { x with start := v &&& ~~~7, active := v.getLsbD 0 }
  | .fin => do
    must (v.extractLsb' 0 3 = 0) .illOpnd
    return { x with fin := v }

/-- LPRST (R349). -/
def execLprst (x : LpArgs) (s : State) : Host.Outcome State Fault Refusal :=
  plainRun x.guard s fun c => do
    let v ← s.readG c x.a
    let z ← ((s.ctx c).regs.getZ x.z).withPart x.sel v
    return (s.onRegs c fun r => r.setZ x.z z).advance c false

end Sys2Proof.Machine
end

