-- ==== Sys2Proof/Machine/Mapper.lean ====
section
/-! DEFINITION. The mapper's contract (02_work R51 to R53, 10_fabric R206): what a valid placement is, the cache of
placements, and how a placement that is dropped leaves its launches. -/

namespace Sys2Proof.Machine

/-! ## The graph of a launch (R102, R103) -/

/-- What the mapper reads of a graph: its section as stored, and its nodes with their images and edges. -/
structure GraphInfo where
  bytes  : List Byte
  images : List Image
  edges  : List (List Nat)
  deriving DecidableEq, Repr

/-- The sections of the binary at an address of a world; none when it cannot be read or is refused (R102). -/
def State.binaryAt (s : State) (d world : Nat) (va : Word) : Option (List Section) := do
  let h ← s.hwRead d world va 64
  let n ← binaryHeader h
  let t ← s.hwRead d world (va + 64) (32 * n)
  binarySections n t

/-- The bytes of a section. -/
def State.sectionBytes (s : State) (d world : Nat) (va : Word) (x : Section) : Option (List Byte) :=
  s.hwRead d world (va + BitVec.ofNat 64 x.off) x.size

/-- The graph of a binary (R103): each node with its image, read as a node of the kind that its record gives. Whether the
image is refused is found at bind (R105). A node record of no known kind, or with an image index past the end of the
images section, makes the mapping fail (DESIGN CHOICE, log entry 114). -/
def State.graphAt (s : State) (d world : Nat) (va : Word) : Option GraphInfo := do
  let secs ← s.binaryAt d world va
  let g ← sectionOf secs 4
  let m ← sectionOf secs 3
  let gb ← s.sectionBytes d world va g
  let mb ← s.sectionBytes d world va m
  let images ← (graphNodes gb).mapM fun (n : GraphNode) => do
    let k ← nodeKind n.kind
    let bs := imageFrom mb n.image
    if bs.isEmpty then none else some (imageOf bs k)
  return { bytes := gb, images := images, edges := graphEdges gb }

/-- The image of a unit of a launch, by way of its graph. -/
def State.unitImage (s : State) (o : WorkObj) (unit : Nat) : Option Image := do
  let g ← s.obj o.world .graph o.parent
  let gi ← s.graphAt o.home o.world g.va
  gi.images[unit]?

/-- The initial tokens of a port of an image. -/
def Image.initial (i : Image) (port : Nat) : Nat := (i.tokens.filter fun t => t.port == port).length

/-- The routes of a placement: those of the graph's edges, then those of the streams that leave the package. -/
def allRoutes (p : Placement) : List EdgeRoute := p.routes ++ p.far.map fun f => f.route

/-- The end of a stream that lies in another package: no unit of the launch. -/
def farEnd : Nat := 2 ^ 16

/-- The edge of a stream to or from another package. -/
def FarStream.edge (f : FarStream) : LaunchEdge :=
  if f.out then { prod := f.unit, pport := f.port, cons := farEnd, cport := 0, depth := f.depth, init := 0, feedback := false }
  else { prod := farEnd, pport := 0, cons := f.unit, cport := f.port, depth := f.depth, init := 0, feedback := false }

/-- The edges of a launch: those of the graph, then the streams that leave the package. -/
def GraphInfo.launchEdges (g : GraphInfo) (p : Placement) : List LaunchEdge :=
  ((g.edges.zip (List.range g.edges.length)).map fun x =>
    let e := x.1
    { prod := e.getD 0 0, pport := e.getD 1 0, cons := e.getD 2 0, cport := e.getD 3 0, depth := e.getD 4 0,
      init := match g.images[e.getD 2 0]? with
        | some i => i.initial (e.getD 3 0)
        | none => 0,
      feedback := match p.routes[x.2]? with
        | some r => r.feedback
        | none => false }) ++ p.far.map FarStream.edge

/-- The units of a launch. -/
def GraphInfo.launchUnits (g : GraphInfo) (p : Placement) : List LaunchUnit :=
  (g.images.zip (List.range g.images.length)).map fun x =>
    let (d, n) := p.units.getD x.2 (0, 0)
    { index := x.2, kind := x.1.kind, die := d, slot := n, stage := .placed, idem := x.1.idem, param := x.1.param,
      tiles := ((p.tiles.find? fun q => q.1 == x.2).map fun q => q.2).getD [], kept := none }

/-! ## Valid placements (R52) -/

/-- The part behind a slot: its number in the world map (R277). -/
def slotPart (n : Nat) : Nat := if n < 512 then n / 4 else if n < 544 then 128 + (n - 512) else 160 + (n - 544)

/-- A slot belongs to a world, and its part is not retired. -/
def State.slotIn (s : State) (d n world : Nat) : Bool :=
  let e := s.part d (slotPart n)
  decide (d < 4 ∧ n < 548) && e.v && e.world == world && !e.busy && !(s.die d).retired.contains (slotPart n)

/-- The plane that a node of a region is placed on: the active one, or, for the next launch of a sequence, one that a SWAP
of the sequencer brings (R274). -/
def RegionSt.planeFor (r : RegionSt) (soon : Bool) (cls : Nat) : Option Plane :=
  match r.active, r.shadow with
  | some a, b => if soon && a.cls != cls then (b.filter fun x => x.cls == cls) <|> some a else some a
  | none, b => if soon then b else none

/-- The operator class of the region that a node's placement names: that of its REGION node. -/
def GraphInfo.classAt (g : GraphInfo) (p : Placement) (u : Nat × Nat) : Nat :=
  match (g.images.zip p.units).find? fun x => x.1.kind == .region && x.2 == u with
  | some x => x.1.param
  | none => 0

/-- A node has a slot of its own kind; a REGION its class, and IDEM where its image asks for it (R217); an MTILE the
region of its edge and tiles of its role (R206). `soon` is the mapping of the next launch of a sequence (R274). -/
def State.nodeFits (s : State) (soon : Bool) (g : GraphInfo) (p : Placement) (world i : Nat) : Bool :=
  match g.images[i]?, p.units[i]? with
  | some x, some (d, n) =>
    s.slotIn d n world &&
    match x.kind with
    | .ctx | .capsink => decide (n < 512)
    | .region =>
      decide (512 ≤ n ∧ n < 544) &&
      match (s.region d (n - 512)).planeFor soon x.param with
      | some a => a.cls == x.param && (!x.idem || a.idem)
      | none => false
    | .sieve => decide (544 ≤ n)
    | .mtile =>
      let tiles := ((p.tiles.find? fun q => q.1 == i).map fun q => q.2).getD []
      let ins := g.edges.filter fun e => e.getD 2 0 == i
      let outs := g.edges.filter fun e => e.getD 0 0 == i
      decide (512 ≤ n ∧ n < 544) && !tiles.isEmpty && distinct tiles &&
      (match (s.region d (n - 512)).planeFor soon (g.classAt p (d, n)) with
       | some a => tiles.all fun t => decide (t < 48) && a.role t == x.param
       | none => false) &&
      (if x.param = 2 then decide (ins.length ≤ 1 ∧ outs.length ≤ 1) else outs.isEmpty) &&
      ((ins ++ outs).any fun e =>
        let other := if e.getD 0 0 = i then e.getD 2 0 else e.getD 0 0
        p.units[other]? == some (d, n) && (match g.images[other]? with
          | some y => y.kind == .region
          | none => false))
  | some _, none | none, _ => false

/-- Two nodes share a slot only as a REGION and the MTILE nodes of its region. -/
def slotsApart (g : GraphInfo) (p : Placement) : Bool :=
  let own := (g.images.zip p.units).filterMap fun x => match x.1.kind with
    | .mtile => none
    | .ctx | .region | .sieve | .capsink => some (x.2.1 * 1024 + x.2.2)
  distinct own

/-- No tile is taken by two MTILE nodes of the placement (R206). -/
def tilesApart (p : Placement) : Bool :=
  distinct (p.tiles.flatMap fun q =>
    let (d, n) := p.units.getD q.1 (0, 0)
    q.2.map fun t => (d * 1024 + n) * 64 + t % 64)

/-- The units of 1 KiB that a handle takes (R132). -/
def declaredUnits (h : Nat × Bool × BitVec 32) : Nat := shapeUnits h.2.1 h.2.2

/-- The images of the units of other launches that are placed on a core beside a placement's own, at slots that it does
not take: they are on the core at the same time (R52). -/
def State.coreMates (s : State) (p : Placement) (d core : Nat) : List Image :=
  s.work.objs.flatMap fun o =>
    if o.level != .launch || o.posted || o.placing.isNone || o.placing == some p then []
    else o.units.filterMap fun u =>
      if u.kind == .ctx && u.die == d && u.slot / 4 == core && u.stage != .ended && !p.units.contains (u.die, u.slot) then
        s.unitImage o u.index
      else none

/-- The images of the CTX units that a placement puts on a core. -/
def coreOwn (g : GraphInfo) (p : Placement) (d core : Nat) : List Image :=
  ((g.images.zip p.units).filter fun x => x.1.kind == .ctx && x.2.1 == d && decide (x.2.2 < 512) && x.2.2 / 4 == core).map
    fun x => x.1

/-- The units on one core at the same time: no handle number is declared twice, the declared handles fit together (R52,
R132), and no more than 16 physical ports of each kind are needed (R150). -/
def coreFits (is : List Image) : Bool :=
  let hs := is.flatMap fun i => i.handles
  let sum (lev : Bool) : Nat := ((hs.filter fun h => h.2.1 == lev).map declaredUnits).sum
  let ports (f : Image → Nat) : Nat := (is.map fun i => ((List.range 16).filter fun b => (f i).testBit b).length).sum
  distinct (hs.map fun h => h.1) && decide (sum false ≤ 1980 ∧ sum true ≤ 8192) &&
    decide (ports (fun i => i.inb) ≤ 16 ∧ ports (fun i => i.outb) ≤ 16)

/-! ## Routes (R157, R159, R428) -/

/-- The router of a slot's client, and the number of its output and input there (R160). -/
def slotPlace (n : Nat) : Nat × Nat :=
  if n < 512 then (coreRouter (n / 4), 26 + n / 4 % 4)
  else if n < 544 then (regionRouter (n - 512), 30)
  else (sieveRouter (n - 544), 31)

/-- Where a route has come to: a die, the router if it is known (a stream may leave a bridge at any router that has it),
the input, the circuit on the die, the slots of the link before on the die, and the row and column links taken there. -/
structure RouteAt where
  die    : Nat
  router : Option Nat
  inp    : Nat
  circ   : Option Nat
  prev   : Option (List Nat)
  row    : Bool
  col    : Bool
  deriving DecidableEq, Repr

/-- A link goes on from where a route has come to: the same router, input and circuit, with its slots 4 after those of the
link before on the die (R159, R428), and no second link of one direction on a die (R157). -/
def RouteAt.takes (a : RouteAt) (slots : Nat) (h : Hop) : Bool :=
  h.die == a.die && h.inp == a.inp && outExists h.router h.out && (a.router.getD h.router == h.router) &&
    (a.router.isSome || outExists h.router a.inp) && (a.circ.getD h.circ == h.circ) &&
    h.slots.length == slots && distinct h.slots && (h.slots.all fun n => decide (n < 64)) &&
    decide (h.die < 4 ∧ h.router < 160 ∧ h.circ < 4096) &&
    (match a.prev with
     | none => true
     | some q => h.slots == q.map fun n => (n + 4) % 64) &&
    !(a.row && decide (h.out < 16)) && !(a.col && decide (16 ≤ h.out ∧ h.out < 26))

/-- A route from where it has come to, to a client of a die, or out of the package (R157, R159, R162, R428). -/
def routeGo (slots : Nat) (goal : Option (Nat × Nat × Nat)) : RouteAt → List Hop → List Crossing → Bool
  | _, [], _ => false
  | a, h :: hs, cs =>
    a.takes slots h &&
    let row := h.router / 16
    let col := h.router % 16
    let at' (r inp : Nat) : RouteAt :=
      { die := a.die, router := some r, inp := inp, circ := some h.circ, prev := some h.slots,
        row := a.row || decide (h.out < 16), col := a.col || decide (16 ≤ h.out) }
    let from' (d inp circ : Nat) : RouteAt :=
      { die := d, router := none, inp := inp, circ := some circ, prev := none, row := false, col := false }
    if h.out < 16 then routeGo slots goal (at' (row * 16 + h.out) col) hs cs
    else if h.out < 26 then routeGo slots goal (at' ((h.out - 16) * 16 + col) (16 + row)) hs cs
    else if h.out ≤ 31 then hs.isEmpty && cs.isEmpty && goal == some (h.die, h.router, h.out)
    else match cs with
      | [] => false
      | c :: cs =>
        c.die == h.die && 35 + c.node == h.out && c.circ == h.circ &&
        match peerOf c.die c.node, c.fwd with
        | some (d, n), none => decide (d < 4) && routeGo slots goal (from' d (35 + n) c.far) hs cs
        | some (4, _), some (m, sid) =>
          (match cs with
           | [] => false
           | e :: cs =>
             e.die == 4 && e.node == m && e.sid == sid && e.fwd.isNone &&
             if m < 32 then hs.isEmpty && cs.isEmpty && goal.isNone
             else routeGo slots goal (from' (m - 32) 37 e.far) hs cs)
        | _, _ => false

/-- The place of a route's start at a client. -/
def routeFrom (d n : Nat) : RouteAt :=
  let (r, o) := slotPlace n
  { die := d, router := some r, inp := o, circ := none, prev := none, row := false, col := false }

/-- The goal of a route at a client. -/
def routeGoal (d n : Nat) : Nat × Nat × Nat :=
  let (r, o) := slotPlace n
  (d, r, o)

/-- An edge between a REGION node and an MTILE node of its own region is internal: it takes no link (R206). -/
def internalEdge (g : GraphInfo) (p : Placement) (e : List Nat) : Bool :=
  let kind (i : Nat) : NodeKind := match g.images[i]? with
    | some x => x.kind
    | none => .ctx
  let a := e.getD 0 0
  let b := e.getD 2 0
  p.units[a]? == p.units[b]? &&
    ((kind a == .region && kind b == .mtile) || (kind a == .mtile && kind b == .region))

/-- An edge has a depth of 1 to 64 (R151) and 1 to 32 slots, reserved on every link of a way from its producer to its
consumer, bridge outputs among them (R52, R157, R159, R428); an internal edge takes none. -/
def edgeReserved (g : GraphInfo) (p : Placement) (e : List Nat) (r : EdgeRoute) : Bool :=
  decide (1 ≤ e.getD 4 0 ∧ e.getD 4 0 ≤ 64) &&
  if internalEdge g p e then r.hops.isEmpty && r.crossings.isEmpty
  else match p.units[e.getD 0 0]?, p.units[e.getD 2 0]? with
    | some (d, n), some (d', n') =>
      decide (1 ≤ e.getD 5 0 ∧ e.getD 5 0 ≤ 32) && routeGo (e.getD 5 0) (some (routeGoal d' n')) (routeFrom d n) r.hops r.crossings
    | _, _ => false

/-- A stream to or from another package has its way to a scale-up port, or from one (R165), on a port that no edge of the
graph names. -/
def farReserved (g : GraphInfo) (p : Placement) (f : FarStream) : Bool :=
  decide (1 ≤ f.depth ∧ f.depth ≤ 64 ∧ 1 ≤ f.slots ∧ f.slots ≤ 32) &&
  match p.units[f.unit]? with
  | none => false
  | some (d, n) =>
    if f.out then
      !(g.edges.any fun e => e.getD 0 0 == f.unit && e.getD 1 0 == f.port) &&
        routeGo f.slots none (routeFrom d n) f.route.hops f.route.crossings
    else
      !(g.edges.any fun e => e.getD 2 0 == f.unit && e.getD 3 0 == f.port) &&
      match f.route.crossings with
      | c :: e :: cs =>
        c.die == 4 && decide (c.node < 32) && c.fwd == some (e.node, e.sid) && e.die == 4 && decide (32 ≤ e.node ∧ e.node < 36) &&
          e.fwd.isNone &&
          routeGo f.slots (some (routeGoal d n))
            { die := e.node - 32, router := none, inp := 37, circ := some e.far, prev := none, row := false, col := false }
            f.route.hops cs
      | _ => false

/-- A REGION node and the MTILE nodes of its region need at most two router inputs and two router outputs in all (R206). -/
def regionPortsFit (g : GraphInfo) (p : Placement) : Bool :=
  (List.range g.images.length).all fun i =>
    match g.images[i]?, p.units[i]? with
    | some x, some u =>
      x.kind != .region ||
      (let mine (k : Nat) : Bool := p.units[k]? == some u
       let ext := g.edges.filter fun e => !internalEdge g p e
       let far (o : Bool) : Nat := (p.far.filter fun f => f.out == o && mine f.unit).length
       decide ((ext.filter fun e => mine (e.getD 2 0)).length + far false ≤ 2 ∧
               (ext.filter fun e => mine (e.getD 0 0)).length + far true ≤ 2))
    | _, _ => false

/-- A reservation of a placement. -/
def reservations (p : Placement) : List (List Nat) :=
  (allRoutes p).flatMap fun r => r.hops.flatMap fun h => h.slots.map fun n => [h.die, h.router, h.out, n]

/-- A circuit of a die is used by a launch that has not ended. -/
def State.circBusy (s : State) (d circ : Nat) : Bool :=
  s.work.objs.any fun o => o.level == .launch && !o.posted && match o.placing with
    | some p => (allRoutes p).any fun r => r.hops.any fun h => h.die == d && h.circ == circ
    | none => false

/-- The entry of a reservation (R160). -/
def hopEntry (world : Nat) (h : Hop) : BitVec 32 :=
  BitVec.ofNat 32 (2 ^ 31 + world % 8 * 2 ^ 28 + h.inp % 64 * 2 ^ 16 + h.circ % 4096)

/-- No link is over-reserved (R52): the placement's own reservations are apart, and no entry of a circuit in use is
in their place. -/
def State.linksFree (s : State) (world : Nat) (p : Placement) : Bool :=
  decide (reservations p).Nodup &&
  (allRoutes p).all fun r => r.hops.all fun h => h.slots.all fun n =>
    let e := (s.die h.die).net.entry h.router h.out ((s.die h.die).net.bank h.router h.out) n
    !slotV e || e == hopEntry world h || !s.circBusy h.die (slotCirc e)

/-- The crossings of a placement at a bridge. -/
def crossingsAt (p : Placement) (d node : Nat) : List Crossing :=
  (allRoutes p).flatMap fun r => r.crossings.filter fun c => c.die == d && c.node == node

/-- The crossings of a bridge by launches other than one with a placement, while they have not ended. -/
def State.otherCrossings (s : State) (p : Placement) (d node : Nat) : List Crossing :=
  s.work.objs.flatMap fun o =>
    if o.level == .launch && !o.posted && o.placing != some p then
      match o.placing with
      | some q => crossingsAt q d node
      | none => []
    else []

/-- The crossings of a placement name bridges that exist, each with a stream entry of its own among the 256 of its bridge,
and allowances that sum to no more than 1,024 with those of the launches that have not ended (R164). -/
def State.crossingsOk (s : State) (p : Placement) : Bool :=
  (allRoutes p).all fun r => r.crossings.all fun c =>
    let all := crossingsAt p c.die c.node ++ s.otherCrossings p c.die c.node
    nodeOk c.die c.node && decide (c.sid < 256 ∧ c.circ < 4096 ∧ 1 ≤ c.allow) &&
    distinct (all.map fun x => x.sid) && decide ((all.map fun x => x.allow).sum ≤ 1024)

/-- A placement is valid for a graph and a world (R52). -/
def State.placeOk (s : State) (soon : Bool) (g : GraphInfo) (world : Nat) (p : Placement) : Bool :=
  p.units.length == g.images.length && p.routes.length == g.edges.length &&
  (List.range g.images.length).all (fun i => s.nodeFits soon g p world i) && slotsApart g p && tilesApart p && regionPortsFit g p &&
  p.units.all (fun u => decide (512 ≤ u.2) || coreFits (coreOwn g p u.1 (u.2 / 4) ++ s.coreMates p u.1 (u.2 / 4))) &&
  ((g.edges.zip p.routes).all fun x => edgeReserved g p x.1 x.2) && (p.far.all fun f => farReserved g p f) &&
  s.linksFree world p && s.crossingsOk p

/-! ## The cache (R53) -/

/-- The parts that the grid descriptor lists as retired, and the spare maps. -/
def State.gridOf (s : State) : List (Nat × Nat) × List (Nat × Nat × Nat) :=
  ((List.range 4).flatMap fun d => (s.die d).retired.map fun n => (d, n),
   (List.range 4).flatMap fun d => (s.die d).spare.map fun p => (d, p.1, p.2))

/-- The cached placement of a graph on a home die. -/
def State.cachedPlace (s : State) (d : Nat) (graph : List Byte) : Option CachedPlace :=
  s.work.cache.find? fun c => c.die == d && c.graph == graph && (c.retired, c.spare) == s.gridOf

/-- A placement becomes the one used last; of 65, the least recently used goes. -/
def State.cachePlace (s : State) (d : Nat) (graph : List Byte) (p : Placement) : State :=
  let (retired, spare) := s.gridOf
  let e : CachedPlace := { die := d, graph := graph, retired := retired, spare := spare, place := p }
  let rest := s.work.cache.filter fun c =>
    !(c.die == d && c.graph == graph && c.retired == retired && c.spare == spare)
  let mine := rest.filter fun c => c.die == d
  let rest := if mine.length < 64 then rest else match mine with
    | old :: _ => rest.erase old
    | [] => rest
  s.onWork fun x => { x with cache := rest ++ [e] }

/-- The placement that a launch takes (R53): the cached one as it stands when it is valid, or the mapper's own, which must
be valid. The ROM scheduler places nothing afresh (R245). -/
def State.mapLaunch (s : State) (soon : Bool) (d world : Nat) (g : GraphInfo) (p : Option Placement) : State × Option Placement :=
  match (s.cachedPlace d g.bytes).filter fun c => s.placeOk soon g world c.place with
  | some c => (s.cachePlace d g.bytes c.place, some c.place)
  | none =>
    match p with
    | none => (s, none)
    | some p =>
      if (s.die d).sched.rom || !s.placeOk soon g world p then (s, none) else (s.cachePlace d g.bytes p, some p)

/-- A launch that has not had its start token loses its placement: its bound units are unbound (R53). -/
def State.unplace (s : State) (o : WorkObj) : State :=
  let s := s.stopUnits o
  s.onObj o.world .launch o.id fun x =>
    { x with placing := none, units := x.units.map fun u => { u with stage := .placed } }

/-- A placement uses a slot. -/
def placementUses (p : Placement) (d n : Nat) : Bool := p.units.contains (d, n)

/-- The cached placements that use a part are dropped, with those of launches that have not started (R53); the units of a
launch that has been cut come back to the slots of their records (R261). -/
def State.dropPlaces (s : State) (uses : Placement → Bool) : State :=
  let s := s.onWork fun x => { x with cache := x.cache.filter fun c => !uses c.place }
  let hit := s.work.objs.filter fun o => o.level == .launch && o.status == .running && o.started.isNone &&
    (o.units.all fun u => u.stage != .cut) && o.placing.any uses
  hit.foldl (fun (s : State) o => s.unplace o) s

/-- Write the reservations of a link to the standby bank of its output, and ask for the change (R160). -/
def State.reserveHop (s : State) (world : Nat) (h : Hop) : State :=
  let x := (s.die h.die).net
  let act := x.bank h.router h.out
  if h.slots.all fun n => x.entry h.router h.out act n == hopEntry world h then s
  else
    let sel := (Map.get x.sel 0 h.router).getLsbD h.out
    let std : Nat := 1 - act
    let base (b n : Nat) : Nat := slotKey h.router h.out b n
    let asked := (if sel then 1 else 0) == std
    let tab := if asked then x.tab
      else (List.range 64).foldl (fun (t : Map (BitVec 32)) n => putEntry t (base std n) (x.entry h.router h.out act n)) x.tab
    let tab := h.slots.foldl (fun (t : Map (BitVec 32)) n => putEntry t (base std n) (hopEntry world h)) tab
    let bits := Map.get x.sel 0 h.router
    let one : BitVec 40 := BitVec.ofNat 40 (2 ^ h.out)
    let bits := if std = 1 then bits ||| one else bits &&& ~~~one
    s.onLink h.die fun y => { y with tab := tab, sel := if bits = 0 then Map.drop y.sel h.router else Map.put y.sel h.router bits }
where
  /-- Write an entry of the tables; an absent one is 0. -/
  putEntry (t : Map (BitVec 32)) (k : Nat) (v : BitVec 32) : Map (BitVec 32) :=
    if v = 0 then Map.drop t k else Map.put t k v

/-- The mapper writes the reservations of a placement. -/
def State.reserveAll (s : State) (world : Nat) (p : Placement) : State :=
  (allRoutes p).foldl (fun (s : State) r => r.hops.foldl (fun (s : State) h => s.reserveHop world h) s) s

end Sys2Proof.Machine
end

