-- ==== Sys2Proof/Machine/Submit.lean ====
section
/-! DEFINITION. Submissions (12_scheduling R232 to R236): the indices of the host queues, and what the firmware of a die
does with the entries of a queue and the records of SUBMIT. -/

namespace Sys2Proof.Machine

/-! ## Indices -/

/-- Every write of the host through BAR2 has been performed and is seen everywhere (R201, R235). -/
def State.hostSettled (s : State) : Bool :=
  s.mem.writes.all fun w => w.src != .other || (w.allDone && allDies.all fun e => w.appliedAt e)

/-- SQWIDX_WRITE: accepted at STAGE 7 only (R29), whether or not the queue is enabled (R232); one that would pass SQRIDX by
a whole ring is ignored. It acquires the host's writes through BAR2 (R235). -/
def State.sqwidx (s : State) (n : Nat) (v : BitVec 32) : State :=
  let q := s.queue n
  if s.dev.stage ≠ 7 || q.sqr + q.sqSize ≤ v.toNat || !s.hostSettled then s
  else s.onQueue n fun x => { x with sqw := v.toNat % x.sqSize }

/-- SQWIDX_WRITE (R235). -/
def execSqwidxWrite (n : Nat) (v : BitVec 32) (s : State) : Host.Outcome State Fault Refusal :=
  if n < 64 then .next (s.sqwidx n v) else .fault .noSuchPart

/-- The read index of a completion ring moves on to `v`: as many entries become free (R234). -/
def QueueSt.readTo (q : QueueSt) (v : Nat) : QueueSt :=
  { q with cqr := v % q.cqSize, unread := q.unread - (v % q.cqSize + q.cqSize - q.cqr % q.cqSize) % q.cqSize }

/-- CQRIDX_WRITE: entries that a full ring held back are written (R234). -/
def State.cqridx (s : State) (n : Nat) (v : BitVec 32) : State :=
  let s := s.onQueue n fun x => x.readTo v.toNat
  (s.flushCq n (s.queue n).held.length).settle

/-- CQRIDX_WRITE (R234). -/
def execCqridxWrite (n : Nat) (v : BitVec 32) (s : State) : Host.Outcome State Fault Refusal :=
  if n < 64 then .next (s.cqridx n v) else .fault .noSuchPart

/-! ## The next entry -/

/-- An entry with what its source says of it: its world, the queue of its completions, the die that takes it, the
highest priority, and for a record of SUBMIT from U mode the job of its unit. -/
structure Taken where
  bytes : List Byte
  world : Nat
  queue : Nat
  die   : Nat
  home  : Nat
  prio  : Nat
  ujob  : Option Nat
  tag   : Word
  deriving DecidableEq, Repr

/-- The entries of a queue that wait. -/
def QueueSt.waiting (q : QueueSt) : Nat := (q.sqw + q.sqSize - q.sqr) % q.sqSize

/-- The bytes of waiting entry `i` of a queue. -/
def State.sqBytes (s : State) (q : QueueSt) (i : Nat) : List Byte :=
  s.getHost (q.sqbase.toNat + 64 * ((q.sqr + i) % q.sqSize)) 64

/-- The highest priority that waits in a queue; none when it is empty. -/
def State.topPrio (s : State) (q : QueueSt) : Option Nat :=
  if !q.en then none else ((List.range q.waiting).map fun i => leAt (s.sqBytes q i) 1 1).max?

/-- The queue whose turn it is on a home die (R235): the highest waiting priority, ties in turn by number. -/
def State.queueTurn (s : State) (d : Nat) : Option Nat :=
  let tops := (List.range 64).map fun n => if (s.queue n).home = d then s.topPrio (s.queue n) else none
  match (tops.filterMap id).max? with
  | none => none
  | some best =>
    ((List.range 64).map fun i => ((s.die d).sched.lastQueue + 1 + i) % 64).find? fun n => tops.getD n none == some best

/-- The launch of a SUBMIT record's unit, and its job. -/
def State.submitJob (s : State) (r : SubmitRec) : Option WorkObj :=
  match s.obj r.world .launch r.launch with
  | none => none
  | some l => s.obj r.world .job (s.jobOf l)

/-- The next entry of a source, with the state in which it has been taken (R235, R236). -/
def State.takeEntry (s : State) (src : WorkSrc) : Option (Taken × State) :=
  match src with
  | .remap _ _ => none
  | .queue n =>
    let q := s.queue n
    if s.dev.stage ≠ 7 || s.queueTurn q.home ≠ some n then none
    else
      let bs := s.sqBytes q 0
      let t : Taken :=
        { bytes := bs, world := q.world, queue := n, die := q.home, home := q.home, prio := q.prio, ujob := none,
          tag := (sqEntry bs).tag }
      let s := s.onQueue n fun x => { x with sqr := (x.sqr + 1) % x.sqSize }
      some (t, s.onSched q.home fun x => { x with lastQueue := n })
  | .submit d =>
    match (s.die d).sched.submits with
    | [] => none
    | r :: rest =>
      let bs := leBytes r.entry.toNat 64
      let (n, job) := match s.submitJob r with
        | some j => (j.queue, j.id)
        | none => (0, 0)
      let t : Taken :=
        { bytes := bs, world := r.world, queue := n, die := d, home := d, prio := (s.queue n).prio,
          ujob := if r.user then some job else none, tag := r.cid }
      some (t, s.onSched d fun x => { x with submits := rest })

/-- The entry of a taken submission. -/
def Taken.entry (t : Taken) : SqEntry := sqEntry t.bytes

/-- The home die of the objects of an entry (R233). -/
def Taken.homeDie (t : Taken) : Nat := if t.entry.home = 255 then t.home else t.entry.home

/-- An entry is refused, and nothing is created (R233). -/
def State.refuse (s : State) (t : Taken) (status : Nat) : State :=
  s.post t.queue { tag := t.tag, id := 0, level := 5, status := status, fcode := 0, detail := 0 }

/-- The completion entry of a creation (R233). -/
def State.created (s : State) (t : Taken) (id : Nat) : State :=
  s.post t.queue { tag := t.tag, id := id, level := 5, status := 0, fcode := 0, detail := 0 }

/-- An id that the firmware may assign (R36). -/
def State.idFree (s : State) (world id : Nat) : Bool :=
  decide (0 < id ∧ id < 2 ^ 32) && !(s.work.objs.any fun o => o.world == world && o.id == id && !o.posted)

/-- An id that is free: of one more candidate than there are objects, from a fresh number on. -/
def State.freeId (s : State) (world : Nat) : Nat :=
  let ids := (List.range (s.work.objs.length + 2)).map fun i => (s.fresh + i) % 2 ^ 32
  (ids.find? fun n => s.idFree world n).getD 1

/-- A new object. -/
def newObj (t : Taken) (l : Level) (id parent : Nat) : WorkObj :=
  { level := l, id := id, world := t.world, home := t.homeDie, counter := 0, status := .running, parent := parent,
    queue := t.queue, tag := t.tag, prio := t.entry.prio, closed := false, opened := false, va := t.entry.va, pred := 0,
    wdog := if t.entry.wdog = 0 then 2 ^ 31 else t.entry.wdog, started := none, units := [], edges := [], placing := none,
    deadSinks := [], cutting := false, report := Report.none, posted := false }

/-- An object is added; the record of a completed object with its id goes, and a phase that named that object as its
predecessor has its barrier open (R37). -/
def State.addObj (s : State) (o : WorkObj) : State :=
  let clear (p : WorkObj) : WorkObj := if p.level == .phase && p.world == o.world && p.pred == o.id then { p with pred := 0 } else p
  s.onWork fun x => { x with objs := ((x.objs.filter fun p => !(p.world == o.world && p.id == o.id)).map clear) ++ [o] }

/-- An object that still runs. -/
def State.liveObj (s : State) (world : Nat) (l : Level) (id : Nat) : Option WorkObj :=
  match s.obj world l id with
  | some o => if o.status = .running && !s.isOver o then some o else none
  | none => none

/-- An entry of U mode keeps to its own job (R236). -/
def Taken.mine (t : Taken) (job : Nat) : Bool :=
  match t.ujob with
  | some j => j == job
  | none => true

/-- Take the next entry of a source when its OP is one of an event's, and run it: one that breaks the table is refused
(R233). -/
def State.runEntry (s : State) (src : WorkSrc) (mine : Nat → Bool) (f : Taken → State → State) : State :=
  match s.takeEntry src with
  | none => s
  | some (t, t') =>
    if !mine t.entry.op then s
    else if !sqOk t.bytes || t.prio < t.entry.prio then (t'.refuse t 3).settle
    else (f t t').settle

/-! ## The entries (R233) -/

/-- SQ_JOB_OPEN: a job of the entry's world (R233, R36). An entry whose OP names nothing is refused here. -/
def State.jobOpen (s : State) (src : WorkSrc) (id : Nat) : State :=
  s.runEntry src (fun op => op == 1 || op == 0 || decide (6 < op)) fun t u =>
    if t.ujob.isSome then u.refuse t 3
    else if !u.idFree t.world id then s
    else (u.addObj (newObj t .job id 0)).created t id

/-- SQ_JOB_OPEN (R233). -/
def execSqJobOpen (src : WorkSrc) (id : Nat) (s : State) : Host.Outcome State Fault Refusal := .next (s.jobOpen src id)

/-- SQ_JOB_CLOSE: the submission of a job is closed (R233, R35). -/
def State.jobClose (s : State) (src : WorkSrc) : State :=
  s.runEntry src (fun op => op == 2) fun t u =>
    match u.liveObj t.world .job t.entry.job with
    | none => u.refuse t 3
    | some j => if t.ujob.isSome || j.closed then u.refuse t 3
      else u.onObj t.world .job j.id fun x => { x with closed := true }

/-- SQ_JOB_CLOSE (R233). -/
def execSqJobClose (src : WorkSrc) (s : State) : Host.Outcome State Fault Refusal := .next (s.jobClose src)

/-- SQ_PHASE: a phase of a job behind its predecessor (R233, R37). -/
def State.newPhase (s : State) (src : WorkSrc) (id : Nat) : State :=
  s.runEntry src (fun op => op == 3) fun t u =>
    match u.liveObj t.world .job t.entry.job with
    | none => u.refuse t 3
    | some j =>
      let predOk := t.entry.phase == 0 || match u.obj t.world .phase t.entry.phase with
        | some p => p.parent == j.id
        | none => false
      if j.closed || !t.mine j.id || !predOk then u.refuse t 3
      else if !u.idFree t.world id then s
      else
        let u := u.onObj t.world .job j.id fun x => { x with counter := x.counter + 1, opened := true }
        let pred := match u.obj t.world .phase t.entry.phase with
          | some p => if p.posted || u.isOver p then 0 else t.entry.phase
          | none => 0
        (u.addObj { newObj t .phase id j.id with pred := pred }).created t id

/-- SQ_PHASE (R233). -/
def execSqPhase (src : WorkSrc) (id : Nat) (s : State) : Host.Outcome State Fault Refusal := .next (s.newPhase src id)

/-- SQ_GRAPH: a graph from the binary at VA (R233, R102); the ROM scheduler refuses it with PLACE-FAIL (R245). -/
def State.newGraph (s : State) (src : WorkSrc) (id : Nat) : State :=
  s.runEntry src (fun op => op == 4) fun t u =>
    match u.liveObj t.world .phase t.entry.phase with
    | none => u.refuse t 3
    | some p =>
      if p.parent ≠ t.entry.job || !t.mine p.parent then u.refuse t 3
      else if (u.die t.die).sched.rom then u.refuse t 4
      else if (u.binaryAt t.homeDie t.world t.entry.va).isNone then u.refuse t 3
      else if !u.idFree t.world id then s
      else (u.addObj (newObj t .graph id p.id)).created t id

/-- SQ_GRAPH (R233). -/
def execSqGraph (src : WorkSrc) (id : Nat) (s : State) : Host.Outcome State Fault Refusal := .next (s.newGraph src id)

/-- Place a launch (MAPPER_PLACE, R51, R53): its units wait for their records; without a valid placement it ends with
PLACE-FAIL, and nothing is bound (R52). `soon` places the next launch of a sequence (R274). -/
def State.placeLaunch (s : State) (soon : Bool) (world id : Nat) (va : Word) (p : Option Placement) : State :=
  match s.obj world .launch id with
  | none => s
  | some o =>
    let r : State × Option (GraphInfo × Placement) := match s.graphAt o.home world va with
      | none => (s, none)
      | some g => match s.mapLaunch soon o.home world g p with
        | (s, some q) => (s, some (g, q))
        | (s, none) => (s, none)
    match r with
    | (s, none) =>
      s.onObj world .launch id fun x =>
        { x with status := .faulted, report := { status := 4, fcode := 0, detail := 0 },
                 counter := x.counter - x.live, units := [] }
    | (s, some (g, q)) =>
      let us := g.launchUnits q
      let s := s.onObj world .launch id fun x =>
        { x with counter := x.counter - x.live + us.length, units := us, edges := g.launchEdges q, placing := some q }
      s.reserveAll world q

/-- One launch of a LAUNCH entry. -/
def State.oneLaunch (s : State) (t : Taken) (g : WorkObj) (p : Option Placement) (id : Nat) : State :=
  let s := (s.addObj (newObj t .launch id g.id)).created t id
  s.placeLaunch false t.world id g.va p

/-- SQ_LAUNCH: COUNT launches of a graph, each placed (R233, R51); or a launch whose placement was dropped is placed
again (R53). -/
def State.newLaunches (s : State) (src : WorkSrc) (ids : List Nat) (p : Option Placement) : State :=
  match src with
  | .remap world launch =>
    match s.liveObj world .launch launch with
    | none => s
    | some o =>
      if o.placing.isSome || o.started.isSome then s
      else match s.obj world .graph o.parent with
        | none => s
        | some g => (s.placeLaunch false world launch g.va p).settle
  | .queue _ | .submit _ =>
    s.runEntry src (fun op => op == 5) fun t u =>
      match u.liveObj t.world .graph t.entry.graph with
      | none => u.refuse t 3
      | some g =>
        let job := u.jobOf g
        if g.parent ≠ t.entry.phase || job ≠ t.entry.job || !t.mine job then u.refuse t 3
        else if ids.length ≠ t.entry.count || !distinct ids || !ids.all (fun i => u.idFree t.world i) then s
        else
          let u := if g.opened then u
            else u.onObj t.world .phase g.parent fun x => { x with counter := x.counter + 1, opened := true }
          let u := u.onObj t.world .graph g.id fun x => { x with counter := x.counter + ids.length, opened := true }
          ids.foldl (fun (u : State) id => u.oneLaunch t g p id) u

/-- SQ_LAUNCH (R233). -/
def execSqLaunch (src : WorkSrc) (ids : List Nat) (p : Option Placement) (s : State) :
    Host.Outcome State Fault Refusal := .next (s.newLaunches src ids p)

/-- SQ_CANCEL: the object at a level is cancelled; one that is complete stays as it is (R233, R38, R39). -/
def State.sqCancel (s : State) (src : WorkSrc) : State :=
  s.runEntry src (fun op => op == 6) fun t u =>
    match levelOf t.entry.level with
    | none => u.refuse t 3
    | some l =>
      match u.obj t.world l t.entry.graph with
      | none => u.refuse t 3
      | some o => if !t.mine (u.jobOf o) then u.refuse t 3 else u.cancelObj o .cancelled Report.none

/-- SQ_CANCEL (R233). -/
def execSqCancel (src : WorkSrc) (s : State) : Host.Outcome State Fault Refusal := .next (s.sqCancel src)

end Sys2Proof.Machine
end

