-- ==== Sys2Proof/Machine/Bind.lean ====
section
/-! DEFINITION. Binding a unit to its slot (02_work R42 to R44, 04_encoding R105, 07_streams R152, R166, 12_scheduling
R238, R239): the five steps of dispatch for each kind of node. -/

namespace Sys2Proof.Machine

/-! ## What a record names -/

/-- The launch of a record, while its home die binds units for it (R38). -/
def State.recLaunchObj (s : State) (r : BindRec) : Option WorkObj := s.liveObj (recWorld r) .launch (recLaunch r)

/-- The image of a record as the dispatcher reads it. -/
def State.recImageOf (s : State) (d : Nat) (r : BindRec) : Option Image := do
  let h ← s.hwRead d (recWorld r) (recImage r) 64
  let bs ← s.hwRead d (recWorld r) (recImage r) (imageSize h)
  readImage bs (recNode r)

/-- ENTRY lies in the text section of the launch's binary (R105); an image of another kind than CTX may hold 0 there, which
names no entry (DEDUCED, log entry 116). -/
def State.entryOk (s : State) (o : WorkObj) (i : Image) : Bool :=
  (i.kind != .ctx && i.entry == 0) ||
  match s.obj o.world .graph o.parent with
  | none => false
  | some g => match s.binaryAt o.home o.world g.va with
    | none => false
    | some secs => match sectionOf secs 1 with
      | some x => decide (i.entry < x.size)
      | none => false

/-- The port map of a record, when it agrees with the image (R239). -/
def State.recPorts (s : State) (d : Nat) (r : BindRec) (i : Image) : Option (List PortEnt) := do
  let bs ← if (recPmap r).toNat % 256 = 0 then s.hwRead d (recWorld r) (recPmap r) 256 else none
  let m ← readPmap bs
  if pmapAgrees m i then some m else none

/-! ## Ports (R44, R152) -/

/-- The edge that ends at an input of a unit. -/
def WorkObj.edgeTo (o : WorkObj) (unit port : Nat) : Option LaunchEdge :=
  o.edges.find? fun e => e.cons == unit && e.cport == port

/-- The edge that begins at an output of a unit. -/
def WorkObj.edgeFrom (o : WorkObj) (unit port : Nat) : Option LaunchEdge :=
  o.edges.find? fun e => e.prod == unit && e.pport == port

/-- The initial tokens of a port of an image (R44). -/
def Image.tokensAt (i : Image) (port : Nat) : List Token :=
  (i.tokens.filter fun t => t.port == port).map fun t => { kind := t.kind, val := t.val, clock := none }

/-- An input port as it is bound: its depth, its initial tokens (R44), its circuit. -/
def boundIn (o : WorkObj) (i : Image) (unit p circ : Nat) (vec : Bool) : InPort :=
  let (depth, fb) := match o.edgeTo unit p with
    | some e => (e.depth, e.feedback)
    | none => (64, false)
  let ts := i.tokensAt p
  { bound := true, vec := vec, depth := depth, buf := ts, marker := false, closed := false, eos := false, circ := circ,
    feedback := fb, ring := 0, launch := launchKey o.world o.id }

/-- The initial tokens of every port fit the depth of its edge (R44). -/
def tokensFit (o : WorkObj) (i : Image) (unit : Nat) : Bool :=
  (List.range 16).all fun p => decide ((i.tokens.filter fun t => t.port == p).length ≤ match o.edgeTo unit p with
    | some e => e.depth
    | none => 64)

/-- An output port as it is bound: the depth of its edge, less the consumer's initial tokens, in credits (R152). -/
def boundOut (o : WorkObj) (unit p circ : Nat) (vec : Bool) : OutPort :=
  let credits := match o.edgeFrom unit p with
    | some e => e.depth - e.init
    | none => 64
  { bound := true, vec := vec, buf := [], credits := credits, eos := false, circ := circ,
    launch := launchKey o.world o.id }

/-- The logical ports of a map with their entries: inputs, then outputs. -/
def mapIns (m : List PortEnt) : List (Nat × PortEnt) :=
  ((List.range 16).zip (m.take 16)).filter fun p => p.2.v
/-- The logical outputs of a map with their entries. -/
def mapOuts (m : List PortEnt) : List (Nat × PortEnt) :=
  ((List.range 16).zip (m.drop 16)).filter fun p => p.2.v

/-- No port of a core that a map names is bound to another unit (R150). -/
def CoreSt.portsFree (x : CoreSt) (m : List PortEnt) : Bool :=
  ((mapIns m).all fun p => !(Map.get x.inp InPort.reset p.2.phys).bound) &&
  (mapOuts m).all fun p => !(Map.get x.out OutPort.reset p.2.phys).bound

/-- The client's port that an output of a map names at a slot. -/
def slotOut (d n : Nat) (p : Nat × PortEnt) : PortRef :=
  if n < 512 then .core d (n / 4) p.2.phys else if n < 544 then .region d (n - 512) p.2.phys else .sieve d (n - 544) p.1

/-- An output port that a record names still holds tokens of a unit that has ended: they leave before the port is bound
again (R151, R155; log entry 117). -/
def State.awaitsDrain (s : State) (d n : Nat) (r : BindRec) : Bool :=
  match s.recImageOf d r with
  | none => false
  | some i => match s.recPorts d r i with
    | none => false
    | some m => (mapOuts m).any fun p =>
      let o := s.outOf (slotOut d n p)
      !o.bound && !o.buf.isEmpty

/-- A handle-bound port of a map is one that R166 accepts. -/
def CoreSt.ringOk (x : CoreSt) (p : PortEnt) : Bool :=
  !p.h || match Map.find x.handles p.hnd with
    | none => false
    | some h => !h.level1 && h.rowBytes % 64 == 0 && decide (p.row0 < h.rows)

/-! ## A context (R42, R43) -/

/-- The declared handles of an image, allocated zero-filled (R43). -/
def CoreSt.declare (x : CoreSt) (ctx : Nat) : List (Nat × Bool × BitVec 32) → Option CoreSt
  | [] => some x
  | (n, lev, desc) :: rest =>
    if (Map.find x.handles n).isSome then none
    else match x.allocAt n lev false desc ctx with
      | none => none
      | some y => y.declare ctx rest

/-- No other unit of the core gives another word for a format entry of the image (R105). -/
def State.fmtsAgree (s : State) (c : CtxId) (i : Image) : Bool :=
  [0, 1, 2, 3].all fun n => n == c.ctx || match (s.ctx (c.coreId.ctx n)).unit with
    | none => true
    | some u => i.fmts.all fun f => u.fmts.all fun g => f.1 != g.1 || f.2 == g.2

/-- An initial value (R104). -/
def initReg (x : CtxSt) (p : Nat × Word) : CtxSt :=
  if p.1 < 32 then
    { x with regs := x.regs.setG (BitVec.ofNat 5 p.1) p.2, written := { x.written with g := x.written.g ||| BitVec.ofNat 32 (2 ^ p.1) } }
  else if p.1 < 0x48 then
    { x with regs := x.regs.setK (BitVec.ofNat 3 (p.1 - 0x40)) p.2,
             written := { x.written with k := x.written.k ||| BitVec.ofNat 8 (2 ^ (p.1 - 0x40)) } }
  else { x with ctl := { x.ctl with satf := p.2.getLsbD 2, rm := p.2.extractLsb' 0 2 } }

/-- The register state of a unit at its start (R43). A start address TEXTVA + ENTRY that is no multiple of 8 is not refused,
since R105 names no refusal for it: the unit begins there, and its first fetch says what happens (DESIGN CHOICE, log
entry 118). -/
def startCtx (i : Image) (r : BindRec) (trapv0 : Word) (u : UnitRef) : CtxSt :=
  let x := CtxSt.reset
  let x := { x with
    regs := { x.regs with pc := i.textva + BitVec.ofNat 64 i.entry },
    ctl := { x.ctl with precise := i.precise, rcap := recRcap r, tsaveh := BitVec.ofNat 8 i.saveh, trapv := trapvOf trapv0 },
    unit := some u }
  i.inits.foldl initReg x

/-- The unit of a record. A handle-bound input is a bound port, at which END awaits EOS (R48, R166). -/
def unitOf (o : WorkObj) (i : Image) (r : BindRec) (m : List PortEnt) : UnitRef :=
  let ins := mapIns m
  { launch := o.id, home := o.home, unit := recUnit r, world := o.world,
    ports := ins.map fun p => (p.1, p.2.phys, p.2.vec),
    outs := (mapOuts m).map fun p => (p.1, p.2.phys, p.2.vec),
    rings := (ins.filter fun p => p.2.h).map fun p => (p.1, p.2.hnd, p.2.row0),
    page := i.page, pending := 0, fmts := i.fmts }

/-- The ports of a unit are bound on its core, with the initial tokens in place (R42 steps 2 and 5). -/
def State.bindPorts (s : State) (k : CoreId) (o : WorkObj) (i : Image) (unit : Nat) (m : List PortEnt) : State :=
  let s := (mapIns m).foldl (fun (s : State) p => s.onIn k p.2.phys fun _ => boundIn o i unit p.1 p.2.circ p.2.vec) s
  (mapOuts m).foldl (fun (s : State) p => s.onOut k p.2.phys fun _ => boundOut o unit p.1 p.2.circ p.2.vec) s

/-- A slot holds a loaded unit. -/
def State.loadSlot (s : State) (d n : Nat) (r : BindRec) : State :=
  s.onSlot d n fun x => { x with state := 1, bound := some r, loaded := true, code := 0 }

/-- The part of a slot belongs to the world of a record and takes units. -/
def State.recPartOk (s : State) (d n : Nat) (r : BindRec) : Bool := s.slotIn d n (recWorld r)

/-- Bind a CTX unit (R42); none when it is refused (R43, R105, R133, R239). -/
def State.bindCtx (s : State) (d n : Nat) (o : WorkObj) (r : BindRec) : Option State := do
  let c : CtxId := { die := d, core := n / 4, ctx := n % 4 }
  let i ← s.recImageOf d r
  let m ← s.recPorts d r i
  if !s.entryOk o i || !tokensFit o i (recUnit r) || !s.fmtsAgree c i || !(s.core c.coreId).portsFree m then
    none
  else
    let x ← (s.core c.coreId).declare c.ctx i.handles
    if !((mapIns m).all fun p => x.ringOk p.2) then none
    else
      let x := { x with fmt := i.fmts.foldl (fun (t : Map Word) f => Map.put t f.1 f.2) x.fmt,
                        recs := Map.dropIf x.recs fun k => k / 8 == c.ctx }
      let s := (s.setCore c.coreId x).bindPorts c.coreId o i (recUnit r) m
      let s := s.setCtx c (startCtx i r (s.slot d n).trapv0 (unitOf o i r m))
      return s.loadSlot d n r

/-- Bind a CAPSINK unit (R229): its image gives g1 and g2 and nothing else. -/
def State.bindSink (s : State) (d n : Nat) (o : WorkObj) (r : BindRec) : Option State := do
  let i ← s.recImageOf d r
  let m ← s.recPorts d r i
  let g (k : Nat) : Option Word := (i.inits.find? fun p => p.1 == k).map fun p => p.2
  let base ← g 1
  let slots ← g 2
  if !s.entryOk o i || i.inits.length ≠ 2 || !i.handles.isEmpty || !i.tokens.isEmpty || !i.fmts.isEmpty ||
      !(mapIns m).isEmpty || !(mapOuts m).isEmpty || base.toNat % 64 ≠ 0 || slots.toNat = 0 || 65535 < slots.toNat then none
  else
    let x : SinkSt :=
      { launch := o.id, world := o.world, base := base, slots := slots.toNat, count := 0, pending := 0, hdrs := [],
        failed := false }
    return (s.loadSlot d n r).onSlot d n fun y => { y with sink := some x }

/-! ## A region with its MTILE nodes (R206, R217) -/

/-- The REGION unit of a launch's own end of an edge: the port's place in the region. -/
def regionEnd (o : WorkObj) (d n unit other : Nat) : OpPort :=
  if (o.units.any fun u => u.index == other && u.kind == .mtile && u.die == d && u.slot == n) && other ≠ unit then .tile other
  else .none

/-- A router port of the region that no other node of it takes (R206). -/
def freePhys (used : List Nat) : Nat := if used.contains 0 then 1 else 0

/-- The router ports among ports of a region. -/
def routerPorts (l : List OpPort) : List Nat :=
  l.filterMap fun p => match p with
    | .port q => some q
    | .tile _ | .none => none

/-- The circuit of an edge at its consumer's or producer's region: that of its last or first link. -/
def edgeCirc (o : WorkObj) (e : LaunchEdge) (last : Bool) : Nat :=
  match o.placing, o.edges.findIdx? (fun x => x == e) with
  | some p, some k => match (allRoutes p)[k]? with
    | some r => match (if last then r.hops.getLast? else r.hops.head?) with
      | some h => h.circ
      | none => 0
    | none => 0
  | _, _ => 0

/-- An MTILE node of a region, with the images of the node and of the REGION node: where its tokens come from and go to
(R206), with the initial tokens of the internal edges (R44): those of its own input from the operator, and in a FIFO those
of the operator's input that it feeds. -/
def mtileOf (o : WorkObj) (i ri : Image) (region : Nat) (u : LaunchUnit) (pin pout : Nat) : MTile :=
  let src : OpPort := match o.edges.find? fun e => e.cons == u.index with
    | none => .none
    | some e => if e.prod = region then .tile region else .port pin
  let dst : OpPort := match o.edges.find? fun e => e.prod == u.index with
    | none => .none
    | some e => if e.cons = region then .tile region else .port pout
  let sent := match src, o.edges.find? fun e => e.cons == u.index with
    | .tile _, some e => i.tokensAt e.cport
    | _, _ => []
  let buf := match dst, o.edges.find? fun e => e.prod == u.index with
    | .tile _, some e => ri.tokensAt e.cport
    | _, _ => []
  { unit := u.index, role := u.param, tiles := u.tiles, src := src, dst := dst, count := 0, buf := buf, sent := sent,
    eosIn := false, eosOut := false, closed := false }

/-- The MTILE nodes of a region, each on router ports that the nodes before it leave free. -/
def mtilesOf (o : WorkObj) (ri : Image) (region : Nat) : List Nat → List Nat → List (LaunchUnit × Image) → List MTile
  | _, _, [] => []
  | ins, outs, (u, i) :: rest =>
    let m := mtileOf o i ri region u (freePhys ins) (freePhys outs)
    m :: mtilesOf o ri region (ins ++ routerPorts [m.src]) (outs ++ routerPorts [m.dst]) rest

/-- Where the two inputs of an operator come from: an MTILE node, or the router port of the map. -/
def opIns (o : WorkObj) (d n unit : Nat) (m : List PortEnt) : List OpPort :=
  (List.range 2).map fun p =>
    match o.edgeTo unit p with
    | some e => match regionEnd o d n unit e.prod with
      | .tile k => .tile k
      | .port _ | .none => match (mapIns m).find? fun q => q.1 == p with
        | some q => .port q.2.phys
        | none => .none
    | none => match (mapIns m).find? fun q => q.1 == p with
      | some q => .port q.2.phys
      | none => .none

/-- Where the two outputs of an operator lead. -/
def opOuts (o : WorkObj) (d n unit : Nat) (m : List PortEnt) : List OpPort :=
  (List.range 2).map fun p =>
    match o.edgeFrom unit p with
    | some e => match regionEnd o d n unit e.cons with
      | .tile k => .tile k
      | .port _ | .none => match (mapOuts m).find? fun q => q.1 == p with
        | some q => .port q.2.phys
        | none => .none
    | none => match (mapOuts m).find? fun q => q.1 == p with
      | some q => .port q.2.phys
      | none => .none

/-- Bind the ports of a region's clients: those of the REGION node's map that no MTILE node of its region is on, and
those of the MTILE nodes. -/
def State.bindRegionPorts (s : State) (d n : Nat) (o : WorkObj) (i : Image) (unit : Nat) (m : List PortEnt)
    (tiles : List (MTile × Image)) : State :=
  let r := n - 512
  let s := (mapIns m).foldl (fun (s : State) p =>
    match regionEnd o d n unit ((o.edgeTo unit p.1).map (fun e => e.prod) |>.getD unit) with
    | .tile _ => s
    | .port _ | .none => s.onInOf (.region d r p.2.phys) fun _ => boundIn o i unit p.1 p.2.circ p.2.vec) s
  let s := (mapOuts m).foldl (fun (s : State) p =>
    match regionEnd o d n unit ((o.edgeFrom unit p.1).map (fun e => e.cons) |>.getD unit) with
    | .tile _ => s
    | .port _ | .none => s.onOutOf (.region d r p.2.phys) fun _ => boundOut o unit p.1 p.2.circ p.2.vec) s
  tiles.foldl (fun (s : State) x =>
    let t := x.1
    let s := match t.src, o.edges.find? fun e => e.cons == t.unit with
      | .port q, some e => s.onInOf (.region d r q) fun _ => boundIn o x.2 t.unit e.cport (edgeCirc o e true) true
      | _, _ => s
    match t.dst, o.edges.find? fun e => e.prod == t.unit with
    | .port q, some e => s.onOutOf (.region d r q) fun _ => boundOut o t.unit e.pport (edgeCirc o e false) true
    | _, _ => s) s

/-- The image of an MTILE node suits its unit (R105, R44): its bytes are in order, its tokens fit their edges, and it has
nothing that only a context has. -/
def State.tileImageOk (s : State) (o : WorkObj) (i : Image) (unit : Nat) : Bool :=
  i.ok && s.entryOk o i && tokensFit o i unit && i.handles.isEmpty && i.inits.isEmpty && i.fmts.isEmpty

/-- Bind a REGION unit with the MTILE nodes of its region (R206, R238): its quiesced state ends (R217), and its shell
begins anew. -/
def State.bindRegion (s : State) (d n : Nat) (o : WorkObj) (r : BindRec) : Option State := do
  let i ← s.recImageOf d r
  let m ← s.recPorts d r i
  let unit := recUnit r
  let a ← (s.region d (n - 512)).active
  let mine := o.units.filter fun u => u.kind == .mtile && u.die == d && u.slot == n
  let images ← mine.mapM fun u => s.unitImage o u.index
  if a.cls ≠ i.param || (i.idem && !a.idem) || !s.entryOk o i || !tokensFit o i unit || !i.handles.isEmpty ||
      !i.inits.isEmpty || !i.fmts.isEmpty || !((mine.zip images).all fun x => s.tileImageOk o x.2 x.1.index) || !((mapIns m ++ mapOuts m).all fun p => decide (p.1 < 2 ∧ p.2.phys < 2) && p.2.vec) then
    none
  else
    let ins := opIns o d n unit m
    let outs := opOuts o d n unit m
    let tiles := mtilesOf o i unit (routerPorts ins) (routerPorts outs) (mine.zip images)
    let s := s.bindRegionPorts d n o i unit m (tiles.zip images)
    let s := s.onRegion d (n - 512) fun x =>
      { x with quiet := false, hist := x.hist ++ [.start], eosIn := [], eosOut := [], ins := ins, outs := outs,
               mtiles := tiles, unit := some (launchKey o.world o.id, unit), run := false, cut := false, idle := false, clock := Stamp.zero }
    return s.loadSlot d n r

/-- Bind a SIEVE unit (R262): its ports are the Sieve's own, and its overlay is empty (R270). -/
def State.bindSieve (s : State) (d n : Nat) (o : WorkObj) (r : BindRec) : Option State := do
  let i ← s.recImageOf d r
  let m ← s.recPorts d r i
  if !s.entryOk o i || !tokensFit o i (recUnit r) || !i.handles.isEmpty || !i.inits.isEmpty || !i.fmts.isEmpty ||
      !((mapIns m).all fun p => decide (p.1 < 3) && p.2.vec) || !((mapOuts m).all fun p => p.1 == 0 && p.2.vec) then none
  else
    let k := n - 544
    let s := (mapIns m).foldl (fun (s : State) p =>
      s.onInOf (.sieve d k p.1) fun _ => boundIn o i (recUnit r) p.1 p.2.circ true) s
    let s := (mapOuts m).foldl (fun (s : State) p =>
      s.onOutOf (.sieve d k p.1) fun _ => boundOut o (recUnit r) p.1 p.2.circ true) s
    let s := s.onSieve d k fun _ => { SieveSt.reset with unit := some (launchKey o.world o.id, recUnit r) }
    return s.loadSlot d n r

/-- Bind a unit of any kind. -/
def State.bindUnit (s : State) (d n : Nat) (o : WorkObj) (r : BindRec) : Option State :=
  if !s.recPartOk d n r then none
  else match recNode r with
  | .ctx => s.bindCtx d n o r
  | .capsink => s.bindSink d n o r
  | .region => s.bindRegion d n o r
  | .sieve => s.bindSieve d n o r
  | .mtile => none

/-! ## The stages of a launch's units -/

/-- Change the units of a launch on a slot: an MTILE node goes with its region's record. -/
def State.stageOn (s : State) (world launch d n : Nat) (st : UnitStage) : State :=
  s.onObj world .launch launch fun o =>
    { o with units := o.units.map fun u => if u.die = d && u.slot = n then { u with stage := st } else u }

/-- A launch is refused at bind: nothing of it is started (R43). -/
def State.refuseLaunch (s : State) (o : WorkObj) : State :=
  s.cancelObj o .faulted { status := 3, fcode := 0, detail := 0 }

end Sys2Proof.Machine
end

