-- ==== Sys2Proof/Machine/Cut.lean ====
section
/-! DEFINITION. Node faults and pre-emption (13_faults R255 to R258): slot commands, and the marker cut. -/

namespace Sys2Proof.Machine

/-! ## Slot commands (R256, R257) -/

/-- The context of a context slot. -/
def slotCtx (d n : Nat) : CtxId := { die := d, core := n / 4, ctx := n % 4 }

/-- A command of a slot ends with a result (R256). -/
def State.cmdDone (s : State) (d n res : Nat) : State := s.onSlot d n fun x => { x with cmd := 0, res := res }

/-- The launch of the unit that is bound to a slot. -/
def State.slotLaunch (s : State) (d n : Nat) : Option WorkObj :=
  match (s.slot d n).bound with
  | none => none
  | some r => s.obj (recWorld r) .launch (recLaunch r)

/-- Units of a launch that are bound to slots, with their records. -/
def State.boundUnits (s : State) (o : WorkObj) : List (Nat × Nat × BindRec) :=
  o.units.filterMap fun u =>
    if u.kind = .mtile then none
    else match u.stage with
      | .loaded | .running => (s.slot u.die u.slot).bound.map fun r => (u.die, u.slot, r)
      | .placed | .cut | .reporting | .ended => none

/-- A region starts afresh from its image (R217, R261): its tiles are zeroed and its shadow plane is empty. -/
def State.reloadRegion (s : State) (d n : Nat) : State :=
  if 512 ≤ n && n < 544 then
    s.onRegion d (n - 512) fun r => { r.anew with shadow := none, tiles := [] }
  else s

/-- Bind the units of a launch again to their slots (R257). -/
def State.rebind (s : State) (o : WorkObj) (us : List (Nat × Nat × BindRec)) : State :=
  us.foldl (fun (s : State) u =>
    match (s.reloadRegion u.1 u.2.1).bindUnit u.1 u.2.1 o u.2.2 with
    | some t => t.stageOn o.world o.id u.1 u.2.1 .loaded
    | none => s.refuseLaunch o) s

/-- A unit may be restarted with its launch: it is idempotent, a REGION unit by the IDEM of its active operator (R217). -/
def State.mayRestart (s : State) (u : LaunchUnit) : Bool :=
  match u.kind with
  | .mtile => true
  | .region => match (s.region u.die (u.slot - 512)).active with
    | some a => a.idem
    | none => false
  | .ctx | .sieve | .capsink => u.idem

/-- A region is killed: the cached placements that use it are dropped (R53). -/
def State.dropKilled (s : State) (d n : Nat) : State :=
  if 512 ≤ n && n < 544 then s.dropPlaces fun p => placementUses p d n else s

/-- The edges of a launch hold the initial tokens of their consumers' images again (R42 step 5, R44). -/
def State.renewInit (s : State) (o : WorkObj) : State :=
  s.onObj o.world .launch o.id fun x =>
    { x with edges := x.edges.map fun e => { e with init := ((s.unitImage o e.cons).map fun i => i.initial e.cport).getD 0 } }

/-- SLOT_RESTART (R257): allowed in STATE 3 and 4, when every unit of the launch is idempotent and no cut is in progress;
the units stop under R38 steps 2 to 5 and reload, and a new start token follows. -/
def State.slotRestart (s : State) (d n : Nat) : State :=
  let st := (s.slot d n).state
  match s.slotLaunch d n with
  | none => s.cmdDone d n 2
  | some o =>
    if (st = 3 || st = 4) && !o.cutting && o.units.all (fun u => s.mayRestart u) then
      let us := s.boundUnits o
      let s := us.foldl (fun (s : State) u => s.dropKilled u.1 u.2.1) s
      let s := (s.stopUnits o).dropCapsules o.world o.id
      let s := s.renewInit o
      let s := s.onObj o.world .launch o.id fun x => { x with started := none }
      (s.rebind ((s.obj o.world .launch o.id).getD o) us).cmdDone d n 1
    else s.cmdDone d n 2

/-- SLOT_CANCEL (R257): allowed in STATE 3 and 4; the launch is cancelled as FAULTED with the unit's code and CID. -/
def State.slotCancel (s : State) (d n : Nat) : State :=
  let x := s.slot d n
  match s.slotLaunch d n with
  | none => s.cmdDone d n 2
  | some o =>
    if x.state = 3 || x.state = 4 then
      let cid := (s.cid (slotCtx d n)).toNat % 2 ^ 32
      (s.cancelObj o .faulted { status := 2, fcode := x.code, detail := cid }).cmdDone d n 1
    else s.cmdDone d n 2

/-- SLOT_RESTORE (R257): allowed in STATE 0; the next record bound to the slot restores from SAVEVA. -/
def State.slotRestore (s : State) (d n : Nat) : State :=
  if (s.slot d n).state = 0 then (s.cmdDone d n 1).onSlot d n fun x => { x with state := 7 } else s.cmdDone d n 2

/-! ## The marker cut (R258) -/

/-- A marker token. -/
def markerToken : Token := { kind := .marker, val := 0, clock := none }

/-- The unit that produces the edge into an input has ended, so that no marker follows its EOS. -/
def WorkObj.producerEnded (o : WorkObj) (unit port : Nat) : Bool :=
  match o.edgeTo unit port with
  | none => true
  | some e => match o.units.find? fun u => u.index == e.prod with
    | none => true
    | some u => u.stage == .ended || u.stage == .reporting

/-- The input ports of a unit, by logical number. -/
def State.unitIns (s : State) (u : LaunchUnit) : List (Nat × PortRef) :=
  match u.kind with
  | .ctx =>
    match (s.ctx (slotCtx u.die u.slot)).unit with
    | none => []
    | some x => (x.ports.map fun p => (p.1, PortRef.core u.die (u.slot / 4) p.2.1))
  | .region => [0, 1].filterMap fun p =>
      if (s.inOf (.region u.die (u.slot - 512) p)).bound then some (p, PortRef.region u.die (u.slot - 512) p) else none
  | .sieve => [0, 1, 2].filterMap fun p =>
      if (s.inOf (.sieve u.die (u.slot - 544) p)).bound then some (p, PortRef.sieve u.die (u.slot - 544) p) else none
  | .mtile | .capsink => []

/-- The output ports of a unit. -/
def State.unitOuts (s : State) (u : LaunchUnit) : List PortRef :=
  match u.kind with
  | .ctx =>
    match (s.ctx (slotCtx u.die u.slot)).unit with
    | none => []
    | some x => x.outs.map fun p => PortRef.core u.die (u.slot / 4) p.2.1
  | .region => [0, 1].filterMap fun p =>
      if (s.outOf (.region u.die (u.slot - 512) p)).bound then some (PortRef.region u.die (u.slot - 512) p) else none
  | .sieve => if (s.outOf (.sieve u.die (u.slot - 544) 0)).bound then [PortRef.sieve u.die (u.slot - 544) 0] else []
  | .mtile | .capsink => []

/-- A marker has come by every MTILE node of a region that takes tokens from outside, and its operator has taken what
its FIFO nodes hold (R206, R258). -/
def State.tilesClosed (s : State) (o : WorkObj) (u : LaunchUnit) : Bool :=
  u.kind != .region || (s.region u.die (u.slot - 512)).mtiles.all fun m =>
    (match m.src with
     | .port _ => m.closed || m.eosIn || ((o.edges.filter fun e => e.cons == m.unit).all fun e => o.producerEnded m.unit e.cport)
     | .tile _ | .none => true) &&
    (match m.dst with
     | .tile _ => m.buf.all fun t => t.kind == .marker
     | .port _ | .none => true)

/-- A router port of a region that an MTILE node of it takes (R206). -/
def State.tilePort (s : State) (u : LaunchUnit) (p : Nat) : Bool :=
  u.kind == .region && (s.region u.die (u.slot - 512)).mtiles.any fun m => m.src == .port p

/-- Every input of a unit whose marker is awaited is closed (R258 step 4); a unit with none is a source (step 1). -/
def State.allClosed (s : State) (o : WorkObj) (u : LaunchUnit) : Bool :=
  s.tilesClosed o u && (s.unitIns u).all fun p =>
    let x := s.inOf p.2
    x.closed || x.feedback || s.tilePort u p.1 || o.producerEnded u.index p.1

/-- The unit of a slot has stopped for a cut. -/
def State.unitStopped (s : State) (u : LaunchUnit) : Bool :=
  match u.kind with
  | .ctx => (s.ctx (slotCtx u.die u.slot)).wait.stop == .stopped
  | .region => (s.region u.die (u.slot - 512)).cut && (s.region u.die (u.slot - 512)).idle
  | .sieve => !(s.sieve u.die (u.slot - 544)).run
  | .mtile => match (s.region u.die (u.slot - 512)).mtiles.find? fun m => m.unit == u.index with
    | some m => m.sent.isEmpty && (m.buf.isEmpty || m.role ≠ 2)
    | none => true
  | .capsink => true

/-- A unit places a marker on each of its outputs, behind every token already there (R258 step 1). -/
def State.placeMarkers (s : State) (u : LaunchUnit) : State :=
  (s.unitOuts u).foldl (fun (s : State) p => s.onOutOf p fun x => { x with buf := x.buf ++ [markerToken] }) s

/-- The shell of a region lowers ready on every input (R218). -/
def State.quiesceRegion (s : State) (d r : Nat) : State := s.onRegion d r fun x => { x with quiet := true }

/-- A context may stop for a cut: no late result of it is pending (R293), no capsule is being read out and no replayed
access is on its way, and each of its engine operations is at a sector or row boundary, or halted at a page fault. -/
def State.mayHalt (s : State) (c : CtxId) : Bool :=
  let x := s.core c.coreId
  let w := (s.ctx c).wait
  w.lates.isEmpty && (w.load.all fun l => !l.replay) &&
    ((s.ctx c).cap.all fun k => k.sending.isNone) &&
    (s.mem.faults.all fun p => !(p.2.who == .ctx c && p.2.replay)) &&
    ((x.me.ops ++ x.ce.ops).filter fun op => op.ctx == c.ctx).all fun op =>
      op.failed.isNone && !op.stopRow && (op.halted.isSome || !op.mid)

/-- The operations of a context leave the engines as far as they have come, with their queue pointers (R146, R258). -/
def State.haltOps (s : State) (c : CtxId) : State :=
  let x := s.core c.coreId
  let ops := ((x.me.ops.map fun o => (Engine.me, o)) ++ (x.ce.ops.map fun o => (Engine.ce, o))).filter fun p => p.2.ctx == c.ctx
  let ids := ops.filterMap fun p => p.2.halted
  let mine (op : EngOp) : Bool := op.ctx == c.ctx
  let s := s.onCore c.coreId fun x =>
    { x with me := x.me.discard mine, ce := x.ce.discard mine,
             halted := x.halted ++ ops.map fun p => (p.1, { p.2 with halted := none }) }
  s.onMem fun m => { m with faults := m.faults.filter fun p => !ids.contains p.1 }

/-- A context stops for a cut: its parked instruction will issue again, its page fault is withdrawn, and a capsule that it
was moving in waits again (R258 step 4). -/
def State.haltCtx (s : State) (c : CtxId) : State :=
  let s := s.haltOps c
  let s := s.onMem fun m => { m with faults := m.faults.filter fun p => p.2.who != .ctx c }
  let s := s.onCtx c fun x =>
    { x with held := x.held.map fun h => { h with passed := none },
             wait := { x.wait with stop := .stopped, park := none, hold := none, fetch := none, load := none } }
  s.untake c

/-- A context is asked to stop for a cut: it issues nothing more, its copy comes to a sector boundary, and it stops and
places its markers when nothing is left that must end first (R258, R293). -/
def State.cutCtx (s : State) (c : CtxId) (u : LaunchUnit) : State :=
  if (s.slot u.die u.slot).state ≠ 5 || (s.ctx c).wait.stop == .cancel then s
  else
    let s := (s.onWait c fun w => { w with stop := .cut }).invalidate c
    let s := if (s.core c.coreId).holder = some c.ctx then s.giveUp c else s
    let s := if (s.eng c.coreId .ce).active.any fun op => op.ctx == c.ctx then s.finishSector c.coreId 12 else s
    if s.mayHalt c then (s.haltCtx c).placeMarkers u else s

/-- A unit of a launch that is being cut stops when its inputs are closed (R258 steps 1, 4 and 5): a region quiesces and
waits for IDLE. -/
def State.cutUnit (s : State) (o : WorkObj) (u : LaunchUnit) : State :=
  if u.stage ≠ .running || s.unitStopped u || !s.allClosed o u then s
  else match u.kind with
    | .ctx => s.cutCtx (slotCtx u.die u.slot) u
    | .region => (s.quiesceRegion u.die (u.slot - 512)).onRegion u.die (u.slot - 512) fun x => { x with cut := true }
    | .sieve =>
      let x := s.sieve u.die (u.slot - 544)
      if x.pend.isEmpty && x.clearing.isNone then
        (s.onSieve u.die (u.slot - 544) fun x => { x with run := false }).placeMarkers u
      else s
    | .mtile | .capsink => s

/-- The launch has a REGION unit whose operator is not idempotent (R258), or a Sieve that has applied penalties (R269). -/
def State.cutRefused (s : State) (o : WorkObj) : Bool :=
  o.units.any fun u => u.stage != .ended && match u.kind with
    | .region => (s.region u.die (u.slot - 512)).active.any fun a => !a.idem
    | .sieve => (s.sieve u.die (u.slot - 544)).pen
    | .ctx | .mtile | .capsink => false

/-- SLOT_CUT (R257, R258): allowed in STATE 2 and 3; the sources of the launch stop at once. -/
def State.slotCut (s : State) (d n : Nat) : State :=
  let st := (s.slot d n).state
  match s.slotLaunch d n with
  | none => s.cmdDone d n 2
  | some o =>
    if (st ≠ 2 && st ≠ 3) || s.cutRefused o || o.cutting then s.cmdDone d n 2
    else
      let o := { o with cutting := true }
      let s := s.onObj o.world .launch o.id fun x => { x with cutting := true }
      let s := o.units.foldl (fun (s : State) u =>
        s.onSlot u.die u.slot fun x => if x.state = 2 && u.stage = .running then { x with state := 5 } else x) s
      let s := o.units.foldl (fun (s : State) u => s.cutUnit o u) s
      s.cmdDone d n 1

/-- The unit bound to a slot. -/
def State.unitAt (s : State) (d n : Nat) : Option (WorkObj × LaunchUnit) :=
  match s.slotLaunch d n with
  | none => none
  | some o => (o.units.find? fun u => u.die == d && u.slot == n && u.kind != .mtile).map fun u => (o, u)

/-- RESUME (R257): FREC is rewritten from FRECIMG, and the context returns in the mode that its address belongs to,
with its replay. -/
def State.resumeCtx (s : State) (d n : Nat) : State :=
  let c := slotCtx d n
  let x := s.ctx c
  let f := frecImage (s.slot d n).frecimg
  let mode := if x.wait.kept then x.ctl.ps else x.ctl.s
  let cutting := match s.slotLaunch d n with
    | some o => o.cutting
    | none => false
  let s := s.onSlot d n fun y => { y with state := if cutting then 5 else 2, code := 0 }
  let s := s.onCtl c fun k => { k with frec := f }
  let k := x.wait.replay
  let s := s.onWait c fun w => { w with replay := none, kept := false }
  let s := (s.trapReturn c).onCtl c fun y => { y with s := mode }
  match k with
  | some a => if f[0].getLsbD 30 then s.replayAccess c a f[1] f[2] else s
  | none => s

/-- The replay of a frozen context must wait, as that of TRET.R would (R190, R195). -/
def State.resumeWaits (s : State) (d n : Nat) : Bool :=
  let c := slotCtx d n
  let w := (s.ctx c).wait
  match w.replay with
  | some a => (s.slot d n).frecimg[0].getLsbD 30 && a.writes && !s.mayIssue c a.isCausal (s.liveOf w.replayDeps)
  | none => false

/-- SLOT_RESUME (R257): allowed in STATE 3. The command is not taken yet while the replay must wait; in a launch that is
being cut, the unit may stop as soon as it has come back (R258). -/
def State.slotResume (s : State) (d n : Nat) : State :=
  if (s.slot d n).state = 3 && n < 512 then
    if s.resumeWaits d n then s
    else
      let t := s.resumeCtx d n
      (match t.unitAt d n with
       | some (o, u) => if o.cutting then t.cutUnit o u else t
       | none => t).cmdDone d n 1
  else s.cmdDone d n 2

/-- A command for a slot the package has. -/
def slotEvent (d n : Nat) (t : State) : Host.Outcome State Fault Refusal :=
  if d < 4 && n < 548 then .next t else .fault .noSuchPart

/-- SLOT_RESUME (R257). -/
def execSlotResume (die slot : Nat) (s : State) : Host.Outcome State Fault Refusal :=
  slotEvent die slot (s.slotResume die slot)
/-- SLOT_RESTART (R257). -/
def execSlotRestart (die slot : Nat) (s : State) : Host.Outcome State Fault Refusal :=
  slotEvent die slot (s.slotRestart die slot)
/-- SLOT_CANCEL (R257). -/
def execSlotCancel (die slot : Nat) (s : State) : Host.Outcome State Fault Refusal :=
  slotEvent die slot (s.slotCancel die slot)
/-- SLOT_CUT (R257). -/
def execSlotCut (die slot : Nat) (s : State) : Host.Outcome State Fault Refusal := slotEvent die slot (s.slotCut die slot)
/-- SLOT_RESTORE (R257). -/
def execSlotRestore (die slot : Nat) (s : State) : Host.Outcome State Fault Refusal :=
  slotEvent die slot (s.slotRestore die slot)

/-- MARKER_ARRIVE: a marker at the head of an input closes it, and a unit whose inputs are all closed stops (R258). An
EOS that stands before the marker stays. -/
def State.markerArrive (s : State) (d n port : Nat) : State :=
  match s.unitAt d n with
  | none => s
  | some (o, u) =>
    match (s.unitIns u).find? fun p => p.1 == port with
    | none => s
    | some (_, p) =>
      let x := s.inOf p
      let clear := match x.buf with
        | [] => true
        | [t] => t.kind == .eos
        | _ :: _ :: _ => false
      if o.cutting && x.marker && !x.closed && clear then
        (s.onInOf p fun y => { y with marker := false, closed := true }).cutUnit o u
      else if o.cutting then s.cutUnit o u
      else s

/-- MARKER_ARRIVE (R258). -/
def execMarkerArrive (die slot port : Nat) (s : State) : Host.Outcome State Fault Refusal :=
  slotEvent die slot (s.markerArrive die slot port)

end Sys2Proof.Machine
end

