-- ==== Sys2Proof/Machine/Save.lean ====
section
/-! DEFINITION. The save area of a unit that is cut, and its restore (13_faults R258 to R261). Where the spec fixes no
layout within a section the model chooses one (log entry 90). -/

namespace Sys2Proof.Machine

/-! ## Building sections -/

/-- Bytes with zeros up to a multiple of 64 (R260). -/
def pad64 (bs : List Byte) : List Byte := bs ++ List.replicate ((64 - bs.length % 64) % 64) 0

/-- A count in a block of its own. -/
def countBlock (n : Nat) : List Byte := pad64 (leBytes n 8)

/-- Bits as bytes, the first in bit 0. -/
def bitBytes (bs : List Bool) : List Byte :=
  leBytes ((bs.zip (List.range bs.length)).foldl (fun a p => if p.1 then a + 2 ^ p.2 else a) 0) ((bs.length + 7) / 8)

/-- The registers of a bitmap. -/
def marked {w : Nat} (b : BitVec w) : List Nat := (List.range w).filter fun n => b.getLsbD n

/-- The values of R259's first row. -/
def saveRegs (x : CtxSt) : List Byte :=
  pad64 (((marked x.written.g).flatMap fun n => leBytes (x.regs.getG (BitVec.ofNat 5 n)).toNat 8) ++
    ((marked x.written.k).flatMap fun n => leBytes (x.regs.getK (BitVec.ofNat 3 n)).toNat 8)) ++
  (marked x.written.v).flatMap fun n => leBytes (x.regs.getV (BitVec.ofNat 5 n)).toNat 64

/-- The dirty tiles that a context owns (R259). -/
def dirtyTiles (k : CoreSt) (ctx : Nat) : List Nat :=
  (List.range 8).filter fun n => (k.tile n).owner == some ctx && (k.tile n).dirty

/-- A shape in a tile record word. -/
def shapeBits (f : TileShape) : Nat := f.rows % 32 * 8 + f.cols % 32 * 256 + (if f.f32 then 2 ^ 13 else 0)

/-- A place in a tile record word. -/
def placeBits (h row byte : Nat) (live : Bool) : Nat :=
  h % 256 * 2 ^ 14 + row % 65536 * 2 ^ 22 + byte % 4096 * 2 ^ 38 + (if live then 2 ^ 50 else 0)

/-- A tile record word (R260 words 65 to 72): a clean tile that the context owns is saved as its backing or zero
record. -/
def tileWord (k : CoreSt) (ctx n : Nat) : Nat :=
  match k.tileRec ctx n with
  | .none => 0
  | .owned =>
    let t := k.tile n
    if t.dirty then 1 + shapeBits t.shape
    else match t.origin with
      | .zero => 4 + shapeBits t.shape
      | .backing h row byte live => 3 + shapeBits t.shape + placeBits h row byte live
  | .saved sh h live => 2 + shapeBits sh + placeBits h 0 0 live
  | .backing sh h row byte live => 3 + shapeBits sh + placeBits h row byte live
  | .zero sh => 4 + shapeBits sh
  | .lost => 5

/-- A token in the save area: its kind and its value. -/
def savedToken (t : Token) : List Byte := leBytes (kindNum t.kind).toNat 8 ++ leBytes t.val.toNat 64

/-- The saved tokens of the inputs of a context, by logical port (R259). -/
def State.savedIns (s : State) (c : CtxId) (u : UnitRef) : List (Nat × List Token) :=
  (u.ports.map fun p => (p.1, (s.inPort c.coreId p.2.1).buf)).filter fun p => !p.2.isEmpty

/-- The section of the stream inputs. -/
def tokensSection (ins : List (Nat × List Token)) : List Byte :=
  ins.flatMap fun p => pad64 (leBytes p.2.length 8 ++ p.2.flatMap savedToken)

/-- A handle's descriptor word: shape, level, reloadable, number. -/
def handleWord (n : Nat) (h : HandleSt) : Nat :=
  h.desc.toNat + (if h.level1 then 2 ^ 32 else 0) + (if h.rl then 2 ^ 33 else 0) + n * 2 ^ 56

/-- The handles of a context, by number. -/
def ctxHandles (k : CoreSt) (ctx : Nat) : List (Nat × HandleSt) := k.handles.filter fun p => p.2.owner == ctx

/-- A handle whose contents are saved (R259). -/
def keepsBytes (h : HandleSt) : Bool := !h.level1 && !h.rl

/-- The full bits of a handle. -/
def fullBits (k : CoreSt) (h : HandleSt) : List Bool :=
  (List.range (h.rows * h.rb)).map fun i => (Map.find k.full (h.base * 64 + i)).isSome

/-- The sections of the handles: those with contents, then descriptors only. -/
def handlesSection (k : CoreSt) (ctx : Nat) : List Byte :=
  let hs := ctxHandles k ctx
  let full := hs.filter fun p => keepsBytes p.2
  let rest := hs.filter fun p => !keepsBytes p.2
  countBlock full.length ++
    (full.flatMap fun p =>
      countBlock (handleWord p.1 p.2) ++ pad64 (k.scratchBytes (p.2.base * 1024) (p.2.rows * p.2.rowBytes)) ++
        pad64 (bitBytes (fullBits k p.2))) ++
    countBlock rest.length ++ pad64 (rest.flatMap fun p => leBytes (handleWord p.1 p.2) 8)

/-- The blocks of the altered map. -/
def blockCells (i : Nat) : List Nat :=
  (List.range 64).map fun j => (i / 16 * 8 + j / 8) * 128 + (i % 16 * 8 + j % 8)

/-- The section of the accumulators (R259, R174). -/
def accSection (a : AccSt) : List Byte :=
  pad64 (leBytes ((if a.tagF32 then 1 else 0) + a.rm.toNat * 2 + (if a.sat then 8 else 0)) 8 ++
    (List.range 16).flatMap fun n =>
      let r := Map.get a.route (0, 0) n
      leBytes r.1.toNat 8 ++ leBytes r.2.toNat 8) ++
  pad64 (leBytes a.altered.toNat 16) ++
  (marked a.altered).flatMap fun i => (blockCells i).flatMap fun c => leBytes (Map.get a.cells 0 c).toNat 4

/-- The section of the held capsule. -/
def capSection (k : CoreSt) (ctx : Nat) (c : Option HeldCap) : List Byte :=
  match c with
  | none => countBlock 0
  | some x =>
    let h := capHandle ctx x.hdr
    countBlock 1 ++ leBytes x.hdr.toNat 64 ++ pad64 (k.scratchBytes (capBase ctx) (capSize x.hdr)) ++
      pad64 (bitBytes (fullBits k h))

/-- The section of the launch's capsules in the core's receive buffers: they go with the first slot of the launch on the
core. -/
def bufferSection (ks : List Capsule) : List Byte :=
  countBlock ks.length ++ ks.flatMap fun k => leBytes k.hdr.toNat 64 ++ pad64 k.data

/-! ## The header (R260) -/

/-- The sixteen bits of a launch word. -/
def wordBits (i : Instr) : Nat :=
  match encodeEng i with
  | some (_, w) => w.toNat
  | none => 0

/-- The eight words of a halted operation: its launch word, its address, its entry or fifth argument, its queue pointer
with its place within the row, and its arguments; a drain has two, and its route entry follows them. -/
def opWords (e : Engine) (op : EngOp) : List Nat :=
  let route : List Word := match op.route with
    | some r => [r.1, r.2]
    | none => []
  let args := op.args.take 2 ++ (if op.route.isSome then List.replicate (2 - op.args.length) 0 ++ route else op.args.drop 2)
  [wordBits op.instr + 2 ^ 16 + (if e == .ce then 2 ^ 17 else 0) + (if op.route.isSome then 2 ^ 18 else 0), op.pc.toNat,
   if op.args.length = 5 then (op.args.getD 4 0).toNat else op.entry.toNat, op.pos % 2 ^ 32 + op.buf.outPos * 2 ^ 32] ++
  (List.range 4).map fun i => (args.getD i 0).toNat

/-- Pad or cut a list of words. -/
def takePad (n : Nat) (l : List Nat) : List Nat := (l ++ List.replicate n 0).take n

/-- The halted operations of a context with their engines. -/
def ctxOps (k : CoreSt) (ctx : Nat) : List (Engine × EngOp) := k.halted.filter fun p => p.2.ctx == ctx

/-- The words of a loop register. -/
def loopWords (z : LoopReg) : List Nat :=
  [z.start.toNat, z.fin.toNat, z.initial.toNat * 2 ^ 32 + z.remaining.toNat, if z.active then 1 else 0]

/-- The header of a context's save area (R260). -/
def State.saveHeader (s : State) (c : CtxId) (u : UnitRef) : List Byte :=
  let x := s.ctx c
  let k := s.core c.coreId
  let bit (l : List Nat) : Nat := l.foldl (fun a n => a + 2 ^ n) 0
  let owned := (List.range 8).filter fun n => (k.tile n).owner == some c.ctx
  let hs := bit ((ctxHandles k c.ctx).map fun p => p.1)
  let iw := bit ((s.savedIns c u).map fun p => p.1)
  let words :=
    [x.regs.pc.toNat] ++ (([.mode, .fpmode, .ftbind, .tsaveh, .trapv].map fun r => (s.creg c r).toNat)) ++
    (x.ctl.frec.toList.map BitVec.toNat) ++ (x.ctl.evcnt.toList.map BitVec.toNat) ++ (x.ctl.evth.toList.map BitVec.toNat) ++
    [(s.creg c .evwin).toNat, (s.creg c .evact).toNat] ++ loopWords x.regs.z[0] ++ loopWords x.regs.z[1] ++
    takePad 8 (x.regs.me.map BitVec.toNat) ++ takePad 8 (x.regs.ce.map BitVec.toNat) ++
    [x.regs.me.length + 16 * x.regs.ce.length + (if x.held.isSome then 256 else 0)] ++
    (match x.held with
     | some h => takePad 6 (wordBits h.instr :: h.args.map BitVec.toNat)
     | none => takePad 6 []) ++
    [x.written.g.toNat + x.written.k.toNat * 2 ^ 32 + bit owned * 2 ^ 40, x.written.v.toNat + iw * 2 ^ 32] ++
    ((List.range 4).map fun i => hs / 2 ^ (64 * i) % 2 ^ 64) ++ ((List.range 8).map fun n => tileWord k c.ctx n) ++
    takePad 32 ((ctxOps k c.ctx).flatMap fun p => opWords p.1 p.2)
  (takePad 128 words).flatMap fun w => leBytes w 8

/-! ## Saving -/

/-- A context is the lowest-numbered of its launch on its core (R260). -/
def State.lowestOn (s : State) (c : CtxId) (u : UnitRef) : Bool :=
  (List.range c.ctx).all fun n => match (s.ctx (c.coreId.ctx n)).unit with
    | some v => !(v.launch == u.launch && v.world == u.world)
    | none => true

/-- The capsules of a launch in a core's receive buffers. -/
def State.bufferedCaps (s : State) (k : CoreId) (world launch : Nat) : List Capsule :=
  (s.core k).rxbuf.filter fun c => c.counts world launch

/-- A unit of a launch that is being cut has a slot on a core. -/
def LaunchUnit.onCore (u : LaunchUnit) (k : CoreId) : Bool :=
  u.stage == .running && (u.kind == .ctx || u.kind == .capsink) && u.die == k.die && u.slot / 4 == k.core

/-- The core of a unit's slot. -/
def LaunchUnit.core (u : LaunchUnit) : CoreId := { die := u.die, core := u.slot / 4 }

/-- The capsules that are saved with a unit: those in the buffers of its core, when its slot is the launch's first there. -/
def State.unitCaps (s : State) (o : WorkObj) (u : LaunchUnit) : List Capsule :=
  if u.onCore u.core && o.units.all fun v => !v.onCore u.core || decide (u.slot ≤ v.slot) then s.bufferedCaps u.core o.world o.id
  else []

/-- The launch's capsules in receive buffers of cores where it has no slot. -/
def State.strayCaps (s : State) (o : WorkObj) : List (CoreId × Capsule) :=
  s.cores.flatMap fun p =>
    if o.units.any fun u => u.onCore p.1 then [] else (s.bufferedCaps p.1 o.world o.id).map fun c => (p.1, c)

/-- The save area of a context (R259, R260), with the capsules that go with it. -/
def State.saveCtx (s : State) (c : CtxId) (u : UnitRef) (caps : List Capsule) : List Byte :=
  let x := s.ctx c
  let k := s.core c.coreId
  let acc := s.lowestOn c u && k.accUsers.contains (launchKey u.world u.launch)
  s.saveHeader c u ++ saveRegs x ++
    ((dirtyTiles k c.ctx).flatMap fun n => (k.tile n).elems.toList.flatMap fun e => leBytes e.toNat 4) ++
    tokensSection (s.savedIns c u) ++
    (if acc then countBlock 1 ++ accSection k.acc else countBlock 0) ++
    handlesSection k c.ctx ++ capSection k c.ctx x.cap ++
    bufferSection caps

/-- A cell of a Sieve in memory: value, then index. -/
def cellBytes (c : W32 × W32) : List Byte := leBytes c.1.toNat 4 ++ leBytes c.2.toNat 4

/-- The filter threshold of a Sieve (R268): the value of cell K − 1 when K cells are held, and −∞ otherwise. -/
def SieveSt.theta (x : SieveSt) (k : Nat) : W32 :=
  if k ≤ x.cells.length && k ≠ 0 then (x.cells.getD (k - 1) (0, 0)).1 else 0xFF800000

/-- K of the open position (R264). -/
def Position.k (p : Position) : Nat := (p.ctl.extractLsb' 96 16).toNat

/-- The save area of a Sieve (R259): a header, then its items; a cell that holds nothing is zeros. -/
def SieveSt.bytes (x : SieveSt) : List Byte :=
  let (k, ctl, bad, seg, masks, fin) : Nat × BitVec 512 × Bool × Nat × List (BitVec 512) × Bool := match x.pos with
    | some p => (p.k, p.ctl, p.bad, p.seg, p.masks, p.fin)
    | none => (0, 0, false, 0, [], false)
  let th := (x.theta k).toNat
  let flags := (if x.pos.isSome then 1 else 0) + (if bad then 2 else 0) + (if fin then 4 else 0)
  (takePad 128 [x.cells.length, th, x.queue.length, seg, masks.length]).flatMap (fun w => leBytes w 8) ++
    ((List.range 256).flatMap fun i => cellBytes (x.cells.getD i (0, 0))) ++ countBlock th ++ pad64 (x.queue.flatMap cellBytes) ++
    countBlock x.overlay.length ++
    pad64 (x.overlay.flatMap fun n => leBytes n.node 4 ++ leBytes n.parent 4 ++ leBytes n.dtok 4) ++
    countBlock flags ++ leBytes ctl.toNat 64 ++ pad64 (leBytes seg 8 ++ leBytes masks.length 8) ++
    masks.flatMap fun m => leBytes m.toNat 64

/-- The router ports at which a region takes tokens, under numbers of their own: those of its operator by their logical
number, and after them those of its MTILE nodes. -/
def RegionSt.portKeys (r : RegionSt) : List (Nat × Nat) :=
  ((List.range r.ins.length).zip r.ins).filterMap (fun p => match p.2 with
    | .port q => some (p.1, q)
    | .tile _ | .none => none) ++
  ((List.range r.mtiles.length).zip r.mtiles).filterMap fun p => match p.2.src with
    | .port q => some (2 + p.1, q)
    | .tile _ | .none => none

/-- The inputs of a unit, by numbers that do not depend on where it is bound. -/
def State.savePorts (s : State) (u : LaunchUnit) : List (Nat × PortRef) :=
  match u.kind with
  | .region => (s.region u.die (u.slot - 512)).portKeys.map fun p => (p.1, PortRef.region u.die (u.slot - 512) p.2)
  | .ctx | .sieve | .mtile | .capsink => s.unitIns u

/-- The edge that ends at an input of a unit, by its number. -/
def State.savedEdge (s : State) (o : WorkObj) (u : LaunchUnit) (n : Nat) : Option LaunchEdge :=
  if u.kind = .region ∧ 2 ≤ n then
    match (s.region u.die (u.slot - 512)).mtiles[n - 2]? with
    | some m => o.edges.find? fun e => e.cons == m.unit
    | none => none
  else o.edgeTo u.index n

/-- Tokens of a Sieve's or region's inputs, by port. -/
def State.clientIns (s : State) (ps : List (Nat × PortRef)) : List (Nat × List Token) :=
  (ps.map fun p => (p.1, (s.inOf p.2).buf)).filter fun p => !p.2.isEmpty

/-- What a unit saves: of a CAPSINK the count that its image does not give, and the capsules that go with it; the tokens at
a region or Sieve follow its items. -/
def State.saveBytes (s : State) (o : WorkObj) (u : LaunchUnit) : List Byte :=
  let ins := s.clientIns (s.savePorts u)
  let tail := countBlock ((ins.map fun p => 2 ^ p.1).sum) ++ tokensSection ins
  match u.kind with
  | .ctx => match (s.ctx (slotCtx u.die u.slot)).unit with
    | some x => s.saveCtx (slotCtx u.die u.slot) x (s.unitCaps o u)
    | none => []
  | .region => tail
  | .sieve => (s.sieve u.die (u.slot - 544)).bytes ++ tail
  | .mtile => []
  | .capsink => match (s.slot u.die u.slot).sink with
    | some x => countBlock x.count ++ bufferSection (s.unitCaps o u)
    | none => []

/-- A captured operand as it is kept: the time that a WAIT has waited, in place of the cycle at which it began. -/
def Captured.age (cyc : Nat) : Captured → Captured
  | .value v => .value v
  | .wait t0 n => .wait (cyc - t0) n

/-- What dispatch keeps of a context. -/
def State.keptCtx (s : State) (c : CtxId) : KeptCtx :=
  let x := s.ctx c
  { captured := x.wait.captured.map fun p => (p.1, p.2.age (s.die c.die).cyc), mest := x.mest, cest := x.cest,
    chain := x.chain, held := x.held, traps := x.wait.traps, replay := x.wait.replay, replayDeps := x.wait.replayDeps,
    order := x.order, ops := (ctxOps (s.core c.coreId) c.ctx).map fun p => p.2 }

/-- What dispatch keeps of a unit that is cut. -/
def State.keptOf (s : State) (u : LaunchUnit) : CutKept :=
  let ref := (s.ctx (slotCtx u.die u.slot)).unit
  match u.kind, ref with
  | .ctx, some x =>
    let k : CoreId := { die := u.die, core := u.slot / 4 }
    { CutKept.empty with
      eosIn := (x.ports.filter fun p => (s.inPort k p.2.1).eos).map fun p => p.1,
      eosOut := (x.outs.filter fun p => (s.outPort k p.2.1).eos).map fun p => p.1,
      rings := x.rings.map fun p => (p.1, match Map.find x.ports p.1 with
        | some (q, _) => (s.inPort k q).ring
        | none => 0),
      cap := (s.ctx (slotCtx u.die u.slot)).cap.map fun c => (c.launch, c.home),
      ctx := some (s.keptCtx (slotCtx u.die u.slot)) }
  | .region, _ =>
    let r := s.region u.die (u.slot - 512)
    { CutKept.empty with eosIn := r.eosIn, eosOut := r.eosOut, plane := r.active,
                         tiles := r.mtiles.map fun m => (m.unit, m.eosIn, m.eosOut) }
  | _, _ => CutKept.empty

/-- Nothing of a launch is left on the network: no token outside a port buffer, and no capsule on its way (R258
step 6). -/
def State.launchQuiet (s : State) (world launch : Nat) : Bool :=
  let key := launchKey world launch
  (List.range 5).all (fun d =>
    let x := (s.die d).net
    (x.transit.all fun f => f.launch != key) &&
    (x.links.all fun p => p.2.queue.all (fun e => e.beat.isSome || e.launch != key) &&
      (p.2.wire ++ p.2.retry).all fun f => f.entries.all fun e => e.beat.isSome || e.launch != key) &&
    (x.rx.all fun p => p.2.launch != key || (p.2.buf.isEmpty && p.2.marker.isNone)) &&
    ((s.die d).cout.all fun p => p.2.launch != key || p.2.buf.isEmpty)) &&
  (s.cores.all fun p => p.2.out.all fun q => q.2.launch != key || q.2.buf.isEmpty) &&
  (s.net.flights.all fun f => !f.cap.counts world launch) &&
  s.ctxs.all fun p => match p.2.cap with
    | some c => !(c.launch == launch && c.sending.isSome)
    | none => true
/-- The units of a launch that still have a slot have stopped, with every store acknowledged (R258 step 6). -/
def State.cutReady (s : State) (o : WorkObj) : Bool :=
  o.cutting && o.units.all fun u => u.stage != .running || (s.unitStopped u && match u.kind with
    | .ctx => s.endAcked (slotCtx u.die u.slot)
    | .capsink => match (s.slot u.die u.slot).sink with
      | some x => x.pending == 0
      | none => true
    | .region | .sieve | .mtile => true)

/-- Write a unit's save area at the SAVEVA of its slot, as causal writes (R260); none when a write faults. -/
def State.writeSave (s : State) (o : WorkObj) (u : LaunchUnit) : Except FCode State :=
  let bs := s.saveBytes o u
  let va := (s.slot u.die u.slot).saveva
  if bs.isEmpty then .ok s
  else match s.xlatePages o.world xWrite va bs.length with
    | .error e => .error e.code
    | .ok xs =>
      let w := hwWrite u.die (.gone (launchKey o.world o.id)) true va (runParts xs va bs) none []
      .ok ((s.touchPages xs 0x30).sendWrite w)

/-- The tokens that an edge's consumer has saved: its producer will have so many fewer credits (R261). -/
def State.savedOn (s : State) (o : WorkObj) (u : LaunchUnit) (e : LaunchEdge) : Option Nat :=
  (s.savePorts u).findSome? fun p => if s.savedEdge o u p.1 = some e then some (s.inOf p.2).buf.length else none

/-- A saved unit leaves its slot, which becomes STATE 6 (R258). -/
def State.vacate (s : State) (o : WorkObj) (u : LaunchUnit) : State :=
  let kept := s.keptOf u
  let edges := o.edges.map fun e => (e, s.savedOn o u e)
  let s := match u.kind with
    | .ctx =>
      let c := slotCtx u.die u.slot
      let s := s.onCore c.coreId fun x =>
        { x with rxbuf := x.rxbuf.filter fun k => !(k.counts o.world o.id) }
      let s := s.onCtx c fun x => { x with cap := none }
      s.stopCtx c
    | .region =>
      ((s.dropKilled u.die u.slot).stopSlot u.die u.slot (launchKey o.world o.id)).onRegion u.die (u.slot - 512) fun r =>
        { r.anew with active := none, shadow := none, tiles := [] }
    | .sieve | .capsink => s.stopSlot u.die u.slot (launchKey o.world o.id)
    | .mtile => s
  let s := if u.kind = .mtile then s else s.onSlot u.die u.slot fun x => { x with state := 6 }
  s.onObj o.world .launch o.id fun x =>
    { x with units := x.units.map fun v => if v.index = u.index then { v with stage := .cut, kept := some kept } else v,
             edges := x.edges.map fun e => match edges.find? fun p => p.1 == e with
               | some (_, some n) => { e with init := n }
               | _ => e }

/-- The capsules of a launch that lie in buffers of cores where it has no slot leave them, and are kept with one of its
units. -/
def State.keepStrays (s : State) (o : WorkObj) (u : LaunchUnit) : State :=
  let caps := s.strayCaps o
  let s := caps.foldl (fun (s : State) p => s.onCore p.1 fun x => { x with rxbuf := x.rxbuf.filter fun c => c.id != p.2.id }) s
  s.onObj o.world .launch o.id fun x =>
    { x with units := x.units.map fun v =>
        if v.index = u.index then { v with kept := v.kept.map fun k => { k with caps := caps } } else v }

/-- The units of a launch that is being cut are asked again to stop. -/
def State.cutAgain (s : State) (o : WorkObj) : State :=
  if o.cutting then o.units.foldl (fun (s : State) u => s.cutUnit o u) s else s

/-- CUT_SAVE: the units of a launch stop as far as they can, and when all have, every unit saves, and its slots are freed
(R258 step 6); a save write that faults cancels the launch as FAULTED with that code (R260). -/
def State.cutSave (s : State) (world launch : Nat) : State :=
  match s.obj world .launch launch with
  | none => s
  | some o =>
    let s := s.cutAgain o
    if !s.cutReady o || !s.launchQuiet world launch then s
    else
      let live := o.units.filter fun u => u.stage == .running
      let r : Except FCode State := live.foldlM (fun (t : State) u => t.writeSave o u) s
      match r with
      | .error c => s.cancelObj o .faulted { status := 2, fcode := c.num, detail := 0 }
      | .ok s =>
        let strays : List LaunchUnit := live.take 1
        let s := live.foldl (fun (t : State) u => t.vacate o u) s
        let s := strays.foldl (fun (s : State) u => s.keepStrays o u) s
        let s := s.dropStreams (launchKey world launch)
        s.onObj world .launch launch fun x => { x with cutting := false, started := none }

/-- CUT_SAVE (R258). -/
def execCutSave (world launch : Nat) (s : State) : Host.Outcome State Fault Refusal := .next (s.cutSave world launch)

/-! ## Reading a save area -/

/-- A reader of a save area: its place, and how bytes are read. -/
abbrev Reader (α : Type) := StateT Nat Option α

/-- Read bytes of a save area and move on. -/
def State.rd (s : State) (d world : Nat) (va : Word) (n : Nat) : Reader (List Byte) := do
  let off ← get
  let bs ← (s.hwRead d world (va + BitVec.ofNat 64 off) n : Option (List Byte))
  set (off + n)
  return bs

/-- Move on to a multiple of 64. -/
def align64 : Reader Unit := modify fun n => (n + 63) / 64 * 64

/-- Read a count in a block of its own. -/
def State.rdCount (s : State) (d world : Nat) (va : Word) : Reader Nat := do
  return leAt (← s.rd d world va 64) 0 8

/-- Read a number of items one after another. -/
def repeatRd {α : Type} (f : Reader α) : Nat → Reader (List α)
  | 0 => return []
  | n + 1 => do
    let x ← f
    let xs ← repeatRd f n
    return x :: xs

/-- The tokens of the inputs that a bitmap names. -/
def State.rdTokens (s : State) (d world : Nat) (va : Word) (iw : Nat) : Reader (List (Nat × List Token)) :=
  ((List.range 16).filter fun p => iw.testBit p).mapM fun p => do
    let n := leAt (← s.rd d world va 8) 0 8
    let bs ← s.rd d world va (72 * n)
    align64
    let ts := (List.range n).map fun i =>
      let e := bs.drop (72 * i)
      let kind : TokKind := match leAt e 0 8 with
        | 1 => .eos
        | 3 => .steer
        | _ => .data
      ({ kind := kind, val := BitVec.ofNat 512 (leAt e 8 64), clock := none } : Token)
    return (p, ts)

/-- A saved handle: its descriptor word, and its bytes and full bits when they were saved. -/
abbrev SavedHandle := Nat × Option (List Byte × Nat)

/-- The saved handles. -/
def State.rdHandles (s : State) (d world : Nat) (va : Word) : Reader (List SavedHandle) := do
  let n ← s.rdCount d world va
  let full ← repeatRd (do
    let w ← s.rdCount d world va
    let desc := BitVec.ofNat 32 w
    let size := shapeBytes false desc
    let bs ← s.rd d world va size
    align64
    let bits ← s.rd d world va ((size / 16 + 7) / 8)
    align64
    return (w, some (bs, leNat bits))) n
  let m ← s.rdCount d world va
  let ws ← s.rd d world va (8 * m)
  align64
  return full ++ (List.range m).map fun i => (leAt ws (8 * i) 8, none)

/-- The saved accumulators. -/
def State.rdAcc (s : State) (d world : Nat) (va : Word) : Reader (Option AccSt) := do
  if (← s.rdCount d world va) = 0 then return none
  else
    let h ← s.rd d world va 264
    align64
    let alt := BitVec.ofNat 128 (leAt (← s.rd d world va 64) 0 16)
    let blocks ← repeatRd (s.rd d world va 256) (marked alt).length
    let flags := leAt h 0 8
    let route := ((List.range 16).map fun n => (n, BitVec.ofNat 64 (leAt h (8 + 16 * n) 8), BitVec.ofNat 64
      (leAt h (16 + 16 * n) 8))).filter fun r => r.2.1 != 0 || r.2.2 != 0
    let cells := ((marked alt).zip blocks).flatMap fun b =>
      ((blockCells b.1).zip (List.range 64)).map fun c => (c.1, BitVec.ofNat 32 (leAt b.2 (4 * c.2) 4))
    return some
      { cells := cells.foldl (fun (m : Map W32) c => if c.2 = 0 then m else Map.put m c.1 c.2) [], poison := [],
        tagF32 := flags.testBit 0, rm := BitVec.ofNat 2 (flags / 2), sat := flags.testBit 3, altered := alt,
        route := route.foldl (fun (m : Map (Word × Word)) r => Map.put m r.1 r.2) [] }

/-- A capsule's header, data and, for a held one, full bits. -/
def State.rdCap (s : State) (d world : Nat) (va : Word) (held : Bool) : Reader (CapHdr × List Byte × Nat) := do
  let hdr := BitVec.ofNat 512 (leNat (← s.rd d world va 64))
  let data ← s.rd d world va (capSize hdr)
  align64
  if held then
    let bits ← s.rd d world va ((capSize hdr / 16 + 7) / 8)
    align64
    return (hdr, data, leNat bits)
  else return (hdr, data, 0)

/-! ## Restoring a context (R261) -/

/-- Everything that a context's save area gives. -/
structure SavedCtx where
  words : List Nat
  regs  : List Byte
  vregs : List Byte
  tiles : List (Nat × List Byte)
  ins   : List (Nat × List Token)
  acc   : Option AccSt
  handles : List SavedHandle
  cap   : Option (CapHdr × List Byte × Nat)
  bufs  : List (CapHdr × List Byte × Nat)
  deriving DecidableEq, Repr

/-- Read a context's save area. -/
def State.rdCtx (s : State) (d world : Nat) (va : Word) : Reader SavedCtx := do
  let h ← s.rd d world va 1024
  let ws := (List.range 128).map fun i => leAt h (8 * i) 8
  let gk := ws.getD 59 0
  let vi := ws.getD 60 0
  let ng := (marked (BitVec.ofNat 32 gk)).length
  let nk := (marked (BitVec.ofNat 8 (gk / 2 ^ 32))).length
  let regs ← s.rd d world va (8 * (ng + nk))
  align64
  let vregs ← s.rd d world va (64 * (marked (BitVec.ofNat 32 vi)).length)
  let dirty := (List.range 8).filter fun n => ws.getD (65 + n) 0 % 8 == 1
  let tiles ← dirty.mapM fun n => do return (n, ← s.rd d world va 1024)
  let ins ← s.rdTokens d world va (vi / 2 ^ 32)
  let acc ← s.rdAcc d world va
  let handles ← s.rdHandles d world va
  let n ← s.rdCount d world va
  let caps ← repeatRd (s.rdCap d world va true) (min n 1)
  let m ← s.rdCount d world va
  let bufs ← repeatRd (s.rdCap d world va false) (min m 2)
  return { words := ws, regs := regs, vregs := vregs, tiles := tiles, ins := ins, acc := acc, handles := handles,
           cap := caps.head?, bufs := bufs }

/-- A word of the header. -/
def SavedCtx.word (v : SavedCtx) (n : Nat) : Word := BitVec.ofNat 64 (v.words.getD n 0)

/-- A saved loop register. -/
def SavedCtx.loopReg (v : SavedCtx) (n : Nat) : LoopReg :=
  { start := v.word n, fin := v.word (n + 1), initial := (v.word (n + 2)).extractLsb' 32 32,
    remaining := (v.word (n + 2)).extractLsb' 0 32, active := (v.word (n + 3)).getLsbD 0 }

/-- The registers of a restored context (R261): latches are invalid. -/
def SavedCtx.ctx (v : SavedCtx) (u : UnitRef) (rcap : Bool) : CtxSt :=
  let gw := BitVec.ofNat 32 (v.words.getD 59 0)
  let kw := BitVec.ofNat 8 (v.words.getD 59 0 / 2 ^ 32)
  let vw := BitVec.ofNat 32 (v.words.getD 60 0)
  let ng := (marked gw).length
  let r := Regs.reset
  let r := ((marked gw).zip (List.range 32)).foldl (fun (r : Regs) p =>
    r.setG (BitVec.ofNat 5 p.1) (BitVec.ofNat 64 (leAt v.regs (8 * p.2) 8))) r
  let r := ((marked kw).zip (List.range 8)).foldl (fun (r : Regs) p =>
    r.setK (BitVec.ofNat 3 p.1) (BitVec.ofNat 64 (leAt v.regs (8 * (ng + p.2)) 8))) r
  let r := ((marked vw).zip (List.range 32)).foldl (fun (r : Regs) p =>
    r.setV (BitVec.ofNat 5 p.1) (BitVec.ofNat 512 (leAt v.vregs (64 * p.2) 64))) r
  let depth := v.words.getD 52 0
  let stack (at0 n : Nat) : List Word := (List.range n).map fun i => v.word (at0 + i)
  let r := { r with z := #v[v.loopReg 28, v.loopReg 32], pc := v.word 0, me := stack 36 (min 8 (depth % 16)),
                    ce := stack 44 (min 8 (depth / 16 % 16)) }
  let mode := v.word 1
  let k := Ctl.reset
  let k := { k with
    s := mode.getLsbD 0, ps := mode.getLsbD 1, rcap := rcap, precise := mode.getLsbD 9,
    satf := (v.word 2).getLsbD 2, rm := (v.word 2).extractLsb' 0 2, ftbind := (v.word 3).extractLsb' 0 16,
    tsaveh := (v.word 4).extractLsb' 0 8, trapv := trapvOf (v.word 5), frec := frecImage (Vector.ofFn fun i => v.word (6 + i.val)),
    evcnt := Vector.ofFn fun i => (v.word (10 + i.val)).extractLsb' 0 32,
    evth := Vector.ofFn fun i => (v.word (18 + i.val)).extractLsb' 0 32,
    evpos := (v.word 26).extractLsb' 32 32, evlen := (v.word 26).extractLsb' 0 32,
    fired := (v.word 27).extractLsb' 8 8, host := (v.word 27).extractLsb' 0 8 }
  { CtxSt.reset with regs := r, ctl := k, written := { g := gw, k := kw, v := vw }, unit := some u }

/-- Allocate a saved handle at its number and rewrite its contents (R261). -/
def CoreSt.restoreHandle (x : CoreSt) (ctx : Nat) (h : SavedHandle) : Option CoreSt := do
  let n := h.1 / 2 ^ 56
  let y ← if (Map.find x.handles n).isSome then none
    else x.allocAt n (h.1.testBit 32) (h.1.testBit 33) (BitVec.ofNat 32 h.1) ctx
  match h.2, Map.find y.handles n with
  | some (bs, bits), some z =>
    let gs := ((List.range (bs.length / 16)).filter fun i => bits.testBit i).map fun i => z.base * 64 + i
    return { y with scratch := putBytes y.scratch (z.base * 1024) bs, full := setFull y.full gs true }
  | _, _ => return y

/-- The shape of a tile record word. -/
def wordShape (w : Nat) : TileShape := { rows := w / 8 % 32, cols := w / 256 % 32, f32 := w.testBit 13 }

/-- The tile record of a word; a tile whose contents were saved comes back as a record in the save handle, for its owner's
next touch (R261, R63). Where that handle cannot hold it, the tile itself takes it, when no context owns it. -/
def CoreSt.restoreTile (x : CoreSt) (ctx tsaveh n w : Nat) (bs : Option (List Byte)) : CoreSt :=
  let sh := wordShape w
  let h := w / 2 ^ 14 % 256
  let live := w.testBit 50
  match w % 8, bs with
  | 1, some b =>
    let el : Vector W32 256 := Vector.ofFn fun i => BitVec.ofNat 32 (leAt b (4 * i.val) 4)
    let t : TileSt :=
      { elems := el, rows := sh.rows, cols := sh.cols, f32 := sh.f32, configured := true, dirty := true, owner := some ctx,
        origin := .zero }
    match x.saveOk tsaveh with
    | some hd =>
      let y := (List.range 16).foldl (fun (y : CoreSt) i =>
        { y with scratch := putBytes y.scratch (hd.addr (16 * n + i) 0) (t.saveRow i) }) x
      y.setRec ctx n (.saved sh tsaveh true)
    | none =>
      if (x.tile n).owner.isNone then { x with tiles := Map.put x.tiles n t }.setRec ctx n .owned else x.setRec ctx n .lost
  | 2, _ => x.setRec ctx n (.saved sh h live)
  | 3, _ => x.setRec ctx n (.backing sh h (w / 2 ^ 22 % 65536) (w / 2 ^ 38 % 4096) live)
  | 4, _ => x.setRec ctx n (.zero sh)
  | 5, _ => x.setRec ctx n .lost
  | _, _ => x.setRec ctx n .none

/-- A halted operation that comes back (R261): what the header gives, and what it had read or counted beside. -/
def State.opFrom (s : State) (c : CtxId) (v : SavedCtx) (kept : List EngOp) (i : Nat) : Option (Engine × EngOp) :=
  let b := 73 + 8 * i
  let w := v.words.getD b 0
  let e : Engine := if w.testBit 17 then .ce else .me
  if !w.testBit 16 then none
  else match decodeEng e (BitVec.ofNat 16 w) with
    | .error _ => none
    | .ok ins =>
      let n := launchNeeds ins
      let args := ((List.range 4).map fun j => v.word (b + 4 + j)) ++ [v.word (b + 2)]
      let op := s.engOp c ins (v.word (b + 1)) (args.take n) (v.word (b + 2)) [] Stamp.zero
      let at' := v.words.getD (b + 3) 0
      let old := kept[i]?.getD op
      some (e, { op with
        id := s.fresh + i, pos := at' % 2 ^ 32, route := if w.testBit 18 then some (v.word (b + 6), v.word (b + 7)) else none,
        buf := { old.buf with outPos := at' / 2 ^ 32 }, sampled := old.sampled, events := old.events, late := old.late,
        replay := old.replay, mid := old.mid, acq := old.acq })

/-- The halted operations of a context. -/
def State.opsFrom (s : State) (c : CtxId) (v : SavedCtx) (kept : List EngOp) : List (Engine × EngOp) :=
  (List.range 4).filterMap fun i => s.opFrom c v kept i

/-- The number that a halted operation has when it comes back. -/
def newOp (kept : List EngOp) (fresh n : Nat) : Nat := fresh + (kept.findIdx? fun op => op.id == n).getD 4

/-- The chain-held word of the header, bound again to its copy (R185, R260). -/
def SavedCtx.heldWord (v : SavedCtx) (kept : KeptCtx) (fresh : Nat) : Option HeldWord :=
  match kept.held with
  | some h =>
    if (v.words.getD 52 0).testBit 8 then
      match decodeEng .me (BitVec.ofNat 16 (v.words.getD 53 0)) with
      | .ok ins =>
        let args := (List.range 5).map fun i => v.word (54 + i)
        some { h with instr := ins, args := args.take (launchNeeds ins), copy := newOp kept.ops fresh h.copy, passed := none }
      | .error _ => none
    else none
  | none => none

/-- What dispatch has kept of a context comes back to it. -/
def CtxSt.takeKept (x : CtxSt) (v : SavedCtx) (kept : KeptCtx) (cyc fresh : Nat) : CtxSt :=
  let chain := match kept.chain with
    | some (.running n) => some (ChainState.running (newOp kept.ops fresh n))
    | r => r
  { x with
    mest := kept.mest, cest := kept.cest, chain := chain, held := v.heldWord kept fresh, order := kept.order,
    wait := { x.wait with
      captured := kept.captured.map fun p => (p.1, p.2.age cyc), traps := kept.traps, replay := kept.replay,
      replayDeps := kept.replayDeps } }

/-- A restored context comes back with a record of KIND 3 to its supervisor when it has reloadable or Pantry handles
(R261). -/
def restoreTrap (pc : Word) : TrapReq :=
  { kind := 3, code := 0, pc := pc, addr := 0, resume := some pc, precise := false, engine := false, replay := none,
    dest := .none, isFault := false, deps := [] }

/-- Capsules that lay in a receive buffer come back to one (R259). -/
def State.restoreBuf (s : State) (c : CtxId) (o : WorkObj) (k : CapHdr × List Byte × Nat) : State :=
  let place : BitVec 17 := BitVec.ofNat 17 (s.pkg * 512 + c.die * 128 + c.core)
  let cap : Capsule :=
    { hdr := k.1, data := k.2.1, launch := o.id, home := o.home, id := s.fresh, clock := Stamp.zero,
      role := outsideRole k.1 place, taken := none, sink := none }
  s.bump.takeBuffer c.coreId cap c

/-- Capsules of cores where the launch has no slot come back to their buffers' routers (R227). -/
def State.restoreStray (s : State) (o : WorkObj) (p : CoreId × Capsule) : State :=
  let place : BitVec 17 := BitVec.ofNat 17 (s.pkg * 512 + p.1.die * 128 + p.1.core)
  let cap := { p.2 with home := o.home, taken := none, sink := none }
  let sender : CtxId := { die := p.1.die, core := p.1.core, ctx := 0 }
  s.launchCap cap place sender p.1.die (coreRouter p.1.core) (26 + p.1.core % 4)

/-- SLOT_RESTORE_BIND for a context (R261). -/
def State.restoreCtx (s : State) (d n : Nat) (o : WorkObj) (r : BindRec) : Option State := do
  let c := slotCtx d n
  let i ← s.recImageOf d r
  let m ← s.recPorts d r i
  let va := (s.slot d n).saveva
  let (v, _) ← (s.rdCtx d o.world va).run 0
  let lu ← o.units.find? fun u => u.index == recUnit r
  let kept := lu.kept.getD CutKept.empty
  if i.kind ≠ .ctx || !(s.core c.coreId).portsFree m then none
  else
    let u := { unitOf o i r m with fmts := [] }
    let x ← v.handles.foldlM (fun (x : CoreSt) h => x.restoreHandle c.ctx h) (s.core c.coreId)
    if !((mapIns m).all fun p => x.ringOk p.2) then none
    else
      let ts := (v.word 4).toNat % 256
      let x := (List.range 8).foldl (fun (x : CoreSt) t =>
        x.restoreTile c.ctx ts t (v.words.getD (65 + t) 0) ((v.tiles.find? fun p => p.1 == t).map fun p => p.2)) x
      let x := match v.acc with
        | some a =>
          let key := launchKey o.world o.id
          { x with acc := a, accUsers := if x.accUsers.contains key then x.accUsers else x.accUsers ++ [key] }
        | none => x
      let x := match v.cap with
        | some (h, data, bits) =>
          let y := x.fillCap c.ctx h data false
          { y with full := setFull y.full (((List.range (data.length / 16)).filter fun i => bits.testBit i).map fun i =>
            capBase c.ctx / 16 + i) true }
        | none => x
      let s := (s.setCore c.coreId x).bindPorts c.coreId o { i with tokens := [] } (recUnit r) m
      let s := (mapIns m).foldl (fun (s : State) p =>
        let toks := ((v.ins.find? fun q => q.1 == p.1).map fun q => q.2).getD []
        (s.onIn c.coreId p.2.phys fun y =>
          { y with buf := toks, eos := kept.eosIn.contains p.1,
                   ring := ((kept.rings.find? fun q => q.1 == p.1).map fun q => q.2).getD 0 })) s
      let s := (mapOuts m).foldl (fun (s : State) p =>
        s.onOut c.coreId p.2.phys fun y => { y with eos := kept.eosOut.contains p.1 }) s
      let cx := v.ctx u (recRcap r)
      let cx := match kept.ctx with
        | some k => cx.takeKept v k (s.die d).cyc s.fresh
        | none => cx
      let reload := v.handles.any fun h => h.2.isNone
      let cx := { cx with
        cap := match v.cap, kept.cap with
          | some (h, _, _), some (l, hm) => some { hdr := h, launch := l, home := hm, sending := none }
          | _, _ => none,
        wait := { cx.wait with traps := if reload then restoreTrap (v.word 0) :: cx.wait.traps else cx.wait.traps } }
      let ops := (kept.ctx.map fun k => k.ops).getD []
      let s := (s.setCtx c cx).onCore c.coreId fun x => { x with halted := x.halted ++ s.opsFrom c v ops }
      let s := { s with fresh := s.fresh + 5 }
      let s := v.bufs.foldl (fun (s : State) k => s.restoreBuf c o k) s
      return s.loadSlot d n r

/-- Read a Sieve's save area (R259, R261). -/
def State.rdSieve (s : State) (d world : Nat) (va : Word) : Reader (SieveSt × List (Nat × List Token)) := do
  let h ← s.rd d world va 1024
  let nc := leAt h 0 8
  let nq := leAt h 16 8
  let pair (bs : List Byte) (i : Nat) : W32 × W32 := (BitVec.ofNat 32 (leAt bs (8 * i) 4), BitVec.ofNat 32 (leAt bs (8 * i + 4) 4))
  let cs ← s.rd d world va 2048
  let _ ← s.rdCount d world va
  let qs ← s.rd d world va (8 * nq)
  align64
  let no ← s.rdCount d world va
  let os ← s.rd d world va (12 * no)
  align64
  let flags ← s.rdCount d world va
  let ctl := BitVec.ofNat 512 (leNat (← s.rd d world va 64))
  let cnt ← s.rd d world va 64
  let masks ← repeatRd (s.rd d world va 64) (leAt cnt 8 8)
  let iw ← s.rdCount d world va
  let ins ← s.rdTokens d world va iw
  let pos : Position :=
    { ctl := ctl, bad := flags.testBit 1, seg := leAt cnt 0 8, masks := masks.map fun b => BitVec.ofNat 512 (leNat b),
      fin := flags.testBit 2 }
  let x := { SieveSt.reset with
    cells := (List.range nc).map (pair cs), queue := (List.range nq).map (pair qs),
    overlay := (List.range no).map fun i =>
      { node := leAt os (12 * i) 4, parent := leAt os (12 * i + 4) 4, dtok := leAt os (12 * i + 8) 4 },
    pos := if flags.testBit 0 then some pos else none }
  return (x, ins)

/-- Put saved tokens back into a client's inputs, in place of any initial ones (R261). -/
def State.refill (s : State) (ports : List (Nat × PortRef)) (ins : List (Nat × List Token)) : State :=
  ports.foldl (fun (s : State) p =>
    s.onInOf p.2 fun y => { y with buf := ((ins.find? fun q => q.1 == p.1).map fun q => q.2).getD [] }) s

/-- A region takes back the configuration that its unit ran under, loaded afresh (R261). -/
def State.reloadPlane (s : State) (d n : Nat) (kept : CutKept) : State :=
  (s.reloadRegion d n).onRegion d (n - 512) fun x => { x with active := match kept.plane with
    | some p => some p
    | none => x.active }

/-- What the shell of a region, and its MTILE nodes, carried before the cut (R155): no initial token is left in them. -/
def RegionSt.takeKept (x : RegionSt) (kept : CutKept) : RegionSt :=
  { x with eosIn := kept.eosIn, eosOut := kept.eosOut, mtiles := x.mtiles.map fun m =>
      let e := (kept.tiles.find? fun t => t.1 == m.unit).map fun t => t.2
      { m with buf := [], sent := [], eosIn := e.any fun p => p.1, eosOut := e.any fun p => p.2 } }

/-- SLOT_RESTORE_BIND: a record bound to a slot in STATE 7 restores its unit from SAVEVA (R261). -/
def State.restoreUnit (s : State) (d n : Nat) (o : WorkObj) (r : BindRec) : Option State := do
  let va := (s.slot d n).saveva
  let u ← o.units.find? fun u => u.index == recUnit r
  let kept := u.kept.getD CutKept.empty
  let at' := { u with die := d, slot := n }
  let t ← if !s.recPartOk d n r then none
    else match recNode r with
      | .ctx => s.restoreCtx d n o r
      | .capsink => do
        let t ← s.bindSink d n o r
        let ((k, bufs), _) ← (do
          let k ← s.rdCount d o.world va
          let m ← s.rdCount d o.world va
          let bufs ← repeatRd (s.rdCap d o.world va false) (min m 2)
          return (k, bufs) : Reader _).run 0
        let t := t.onSink d n fun x => { x with count := k }
        return bufs.foldl (fun (s : State) k => s.restoreBuf (slotCtx d n) o k) t
      | .region => do
        let t ← (s.reloadPlane d n kept).bindRegion d n o r
        let (ins, _) ← (do let iw ← s.rdCount d o.world va; s.rdTokens d o.world va iw : Reader _).run 0
        let t := t.onRegion d (n - 512) fun x => x.takeKept kept
        return t.refill (t.savePorts at') ins
      | .sieve => do
        let t ← s.bindSieve d n o r
        let ((x, ins), _) ← (s.rdSieve d o.world va).run 0
        let t := t.onSieve d (n - 544) fun y => { x with unit := y.unit }
        return t.refill (t.savePorts at') ins
      | .mtile => none
  return kept.caps.foldl (fun (t : State) p => t.restoreStray o p) t

end Sys2Proof.Machine
end

