-- ==== Sys2Proof/Machine/Schedule.lean ====
section
/-! DEFINITION. The end of units (02_work R47, R49, 11_capsules R229), and what a die's dispatcher does (12_scheduling
R240, 02_work R42): binding the next record, and the start token. -/

namespace Sys2Proof.Machine

/-! ## The end of a unit (R47, R36) -/

/-- Every port that leads somewhere has its EOS. -/
def portsEnded (ps : List OpPort) (eos : List Nat) : Bool :=
  ((List.range ps.length).zip ps).all fun p => p.2 == .none || eos.contains p.1

/-- Tokens that a region's operator has still to send, and inputs that it has still to process (R208). -/
def RegionSt.opIdle (r : RegionSt) : Bool :=
  match r.active with
  | none => true
  | some a => decide ((Config.opOutputs a.digest r.hist (r.arrivals a)).length ≤ r.emitted)

/-- An MTILE node has ended (R47): one with no output ends at EOS on its input. -/
def MTile.over (m : MTile) : Bool := (m.src == .none || m.eosIn) && (m.dst == .none || m.eosOut)

/-- A CAPSINK has ended (R47, R49): every CTX unit of its launch has, no capsule is in flight and no acknowledgement is
awaited; or a write to its ring has faulted (R229). -/
def State.sinkOver (s : State) (o : WorkObj) (u : LaunchUnit) : Bool :=
  match (s.slot u.die u.slot).sink with
  | none => false
  | some x =>
    x.pending == 0 && (x.failed ||
      (o.capsules == 0 && o.units.all fun v => v.kind != .ctx || v.stage == .ended))

/-- A unit has met its end condition (R47). -/
def State.unitOver (s : State) (o : WorkObj) (u : LaunchUnit) : Bool :=
  match u.stage with
  | .reporting => true
  | .placed | .loaded | .cut | .ended => false
  | .running => match u.kind with
    | .ctx => false
    | .region =>
      let r := s.region u.die (u.slot - 512)
      portsEnded r.ins r.eosIn && portsEnded r.outs r.eosOut && r.opIdle
    | .sieve => (s.sieve u.die (u.slot - 544)).ended
    | .mtile => match (s.region u.die (u.slot - 512)).mtiles.find? fun m => m.unit == u.index with
      | some m => m.over
      | none => true
    | .capsink => s.sinkOver o u

/-- A client's inputs are unbound; its outputs keep what they have still to send. -/
def State.unbindPorts (s : State) (d lo n : Nat) : State :=
  (List.range n).foldl (fun (s : State) i => s.onDie d fun x =>
    { x with cin := Map.drop x.cin (lo + i), cout := Map.upd x.cout OutPort.reset (lo + i) fun y => { y with bound := false } }) s

/-- The slot of a unit that has ended is free (R48): that of a region when its MTILE nodes have ended as well. -/
def State.releaseUnit (s : State) (o : WorkObj) (u : LaunchUnit) : State :=
  match u.kind with
  | .ctx => s
  | .capsink => s.dropSink u.die u.slot
  | .sieve =>
    ((s.onSieve u.die (u.slot - 544) fun x => { x with unit := none, run := false, pos := none }).unbindPorts u.die
      (64 + 4 * (u.slot - 544)) 4).freeSlot u.die u.slot
  | .region | .mtile =>
    if o.units.all fun v => v.index == u.index || v.die != u.die || v.slot != u.slot || v.stage == .ended then
      ((s.onRegion u.die (u.slot - 512) fun r =>
        { r with unit := none, run := false, mtiles := [], ins := [], outs := [], cut := false }).unbindPorts u.die
        (2 * (u.slot - 512)) 2).freeSlot u.die u.slot
    else s

/-- UNIT_END_REPORT: a unit's end reaches its home die, and the counter of its launch falls (R36, R37). A CAPSINK that
ended with a fault retires its place (R229). -/
def State.endReport (s : State) (world launch unit : Nat) : State :=
  match s.obj world .launch launch with
  | none => s
  | some o =>
    match o.units.find? fun u => u.index == unit with
    | none => s
    | some u =>
      if !s.unitOver o u then s
      else
        let dead : List (BitVec 17) := match u.kind, (s.slot u.die u.slot).sink with
          | .capsink, some x => if x.failed then [BitVec.ofNat 17 (s.pkg * 512 + u.die * 128 + u.slot / 4)] else []
          | _, _ => []
        let s := if u.stage = .running then s.releaseUnit o u else s
        let s := s.onObj world .launch launch fun x =>
          { x with counter := x.counter - 1, deadSinks := x.deadSinks ++ dead,
                   units := x.units.map fun v => if v.index = unit then { v with stage := .ended } else v }
        s.settle

/-- UNIT_END_REPORT (R36). -/
def execUnitEndReport (world launch unit : Nat) (s : State) : Host.Outcome State Fault Refusal :=
  .next (s.endReport world launch unit)

/-! ## Dispatch (R240, R42) -/

/-- The core of a slot is having its spare map entry changed (R30). -/
def State.slotRemaps (s : State) (d n : Nat) : Bool := decide (n < 512) && (s.core { die := d, core := n / 4 }).remap

/-- A QUIESCE or a SWAP of the region of a slot is in progress: a unit is bound when it has ended, and begins with its
inputs accepting (R217; log entry 68). -/
def State.slotQuiesces (s : State) (d n : Nat) : Bool :=
  decide (512 ≤ n ∧ n < 544) && match (s.region d (n - 512)).job with
    | some j => j.op == 2 || j.op == 3
    | none => false

/-- The security core zeroes collective buffers of a group whose member has changed: no unit is bound until it has (R291; the
whole package waits, DESIGN CHOICE, log entry 126). -/
def State.groupZeroing (s : State) : Bool := s.mem.writes.any fun w => w.src == .sec && !w.allDone

/-- A slot is free for the next record of its FIFO: no unit is bound to it, its part is not changing world, and its core or
region is not under a change (R237, R277, R30, R217). -/
def State.slotTakes (s : State) (d n : Nat) : Bool :=
  let x := s.slot d n
  (x.state == 0 || x.state == 6 || x.state == 7) && x.bound.isNone && !(s.part d (slotPart n)).busy && !s.slotRemaps d n &&
    !s.slotQuiesces d n && !s.groupZeroing

/-- The class that a REGION record's image names is not yet in the active plane, and the record is of the launch that
waits in a sequence (R274). -/
def State.awaitsSwap (s : State) (d n : Nat) (r : BindRec) : Bool :=
  decide (512 ≤ n ∧ n < 544) && match s.recLaunchObj r with
    | none => false
    | some o =>
      let q := (s.die o.home).mgmt.seq
      let key := some (launchKey o.world o.id)
      let job := (s.region d (n - 512)).job.isSome
      ((q.wait == key && (q.run.isSome || job)) || (q.run == key && job)) && o.units.any fun u =>
        u.index == recUnit r && match (s.region d (n - 512)).active with
          | some a => a.cls != u.param
          | none => true

/-- The slots whose head record can be taken, with its priority. -/
def State.waitingSlots (s : State) (d : Nat) : List (Nat × Nat) :=
  (List.range 548).filterMap fun n => match (s.slot d n).fifo with
    | [] => none
    | r :: _ => if s.slotTakes d n && !s.awaitsSwap d n r && !s.awaitsDrain d n r then some (n, recPrio r) else none

/-- The slot that a die's dispatcher serves next (R240). -/
def State.nextSlot (s : State) (d : Nat) : Option Nat :=
  let l := s.waitingSlots d
  match (l.map fun p => p.2).max? with
  | none => none
  | some best =>
    ((List.range 548).map fun i => ((s.die d).sched.served + 1 + i) % 548).find? fun n =>
      l.any fun p => p.1 == n && p.2 == best

/-- A record's unit is one of its launch, placed on the slot; one that is restored may come to another slot (R261). -/
def State.recUnitOk (s : State) (d n : Nat) (o : WorkObj) (r : BindRec) : Bool :=
  o.units.any fun u => u.index == recUnit r && u.kind == recNode r &&
    if (s.slot d n).state = 7 then u.stage == .cut else u.die == d && u.slot == n && u.stage == .placed

/-- A restored unit is now on the slot of its record, with the MTILE nodes of a region. -/
def State.moveUnit (s : State) (d n : Nat) (o : WorkObj) (r : BindRec) : State :=
  match o.units.find? fun u => u.index == recUnit r with
  | none => s
  | some v => s.onObj o.world .launch o.id fun x =>
    { x with units := x.units.map fun u =>
        if u.index = v.index || (u.kind = .mtile && u.die = v.die && u.slot = v.slot) then { u with die := d, slot := n } else u }

/-- A slot's head record has been taken. -/
def State.popRecord (s : State) (d n : Nat) : State :=
  s.onSlot d n fun x => { x with fifo := x.fifo.drop 1, since := (s.die d).cyc }

/-- DISPATCH_UNIT: at most one unit in 32 cycles (R240); the record of a launch that is over is dropped, and one that
cannot be bound refuses its launch (R43). The ROM scheduler keeps the heartbeat while dispatch advances (R245). -/
def State.dispatchUnit (s : State) (d : Nat) : State :=
  let q := (s.die d).sched
  let early := match q.servedAt with
    | some t => decide ((s.die d).cyc < t + 32)
    | none => false
  if early then s
  else match s.nextSlot d with
    | none => s
    | some n => match (s.slot d n).fifo with
      | [] => s
      | r :: _ =>
        let s' := s.popRecord d n
        match s.recLaunchObj r with
        | none => s'
        | some o =>
          let bound := if !s.recUnitOk d n o r then none
            else if (s.slot d n).state = 7 then (s'.restoreUnit d n o r).map fun (t : State) => t.moveUnit d n o r
            else s'.bindUnit d n o r
          match bound with
          | none => (s'.refuseLaunch o).settle
          | some t =>
            (t.stageOn o.world o.id d n .loaded).onSched d fun x =>
              { x with served := n, servedAt := some (s.die d).cyc,
                       kicked := if x.rom then (s.die d).cyc else x.kicked, half := if x.rom then false else x.half }

/-- DISPATCH_UNIT (R240). -/
def execDispatchUnit (die : Nat) (s : State) : Host.Outcome State Fault Refusal :=
  if die < 4 then .next (s.dispatchUnit die) else .fault .noSuchPart

/-! ## The start token (R42) -/

/-- An edge of a launch carries 64-byte values: the width of the consumer's port, or of the producer's when the consumer
lies in another package. -/
def State.edgeVec (s : State) (o : WorkObj) (e : LaunchEdge) : Bool :=
  match o.units.find? fun u => u.index == e.cons with
  | none => match o.units.find? fun u => u.index == e.prod with
    | some u => match s.unitImage o u.index with
      | some i => i.outv.testBit e.pport
      | none => true
    | none => true
  | some u => match (s.unitIns u).find? fun p => p.1 == e.cport with
    | some p => (s.inOf p.2).vec
    | none => true

/-- The stream entries of a crossing at both ends of its bridge (R162, R164); at a scale-up port the one end that lies in
this package: a stream that goes on from there comes in by it, and another goes out (R165). -/
def State.openCrossing (s : State) (o : WorkObj) (vec : Bool) (x : Crossing) : State :=
  let key := launchKey o.world o.id
  let t : TxStream := { circ := x.circ, world := o.world, launch := key, vec := vec, left := x.allow, allow := x.allow }
  let r : RxStream :=
    { circ := x.far, world := o.world, launch := key, vec := vec, buf := [], marker := none, fwd := x.fwd }
  let inward := x.die == 4 && decide (x.node < 32) && x.fwd.isSome
  let s := s.onLink x.die fun y =>
    if inward then { y with rx := Map.put y.rx (x.node * 65536 + x.sid) r }
    else { y with tx := Map.put y.tx (x.node * 65536 + x.sid) t }
  match peerOf x.die x.node with
  | none => s
  | some (d, n) => s.onLink d fun y => { y with rx := Map.put y.rx (n * 65536 + x.sid) r }

/-- The bridge streams of a launch are opened. -/
def State.openStreams (s : State) (o : WorkObj) : State :=
  match o.placing with
  | none => s
  | some p => (o.edges.zip (allRoutes p)).foldl (fun (s : State) x =>
      x.2.crossings.foldl (fun (s : State) c => s.openCrossing o (s.edgeVec o x.1) c) s) s

/-- A loaded unit begins to run. -/
def State.runUnit (s : State) (u : LaunchUnit) : State :=
  if u.stage ≠ .loaded then s
  else match u.kind with
    | .ctx | .capsink => s.onSlot u.die u.slot fun x => { x with state := 2 }
    | .region =>
      (s.onSlot u.die u.slot fun x => { x with state := 2 }).onRegion u.die (u.slot - 512) fun r => { r with run := true }
    | .sieve =>
      (s.onSlot u.die u.slot fun x => { x with state := 2 }).onSieve u.die (u.slot - 544) fun x => { x with run := true }
    | .mtile => s

/-- The barrier in front of a launch's phase is open: the counter of the phase before it has reached zero, whether or not
its completion entry has been posted (R37). -/
def State.phaseOpen (s : State) (o : WorkObj) : Bool :=
  match s.obj o.world .graph o.parent with
  | none => false
  | some g => match s.obj o.world .phase g.parent with
    | none => false
    | some p => match s.obj o.world .phase p.pred with
      | none => true
      | some q => q.posted || s.isOver q

/-- A launch that waits in a sequence has not been let go (R274, R275). -/
def State.heldBySeq (s : State) (o : WorkObj) : Bool :=
  (s.die o.home).mgmt.seq.wait == some (launchKey o.world o.id)

/-- Every unit of a launch is loaded, and nothing holds it back. -/
def State.mayStart (s : State) (o : WorkObj) : Bool :=
  o.status == .running && o.placing.isSome && (o.units.all fun u => u.stage == .loaded || u.stage == .ended) &&
    (o.units.any fun u => u.stage == .loaded) && s.phaseOpen o && !s.heldBySeq o

/-- START_TOKEN: once every unit is loaded, the home die starts them (R42). -/
def State.startLaunch (s : State) (world launch : Nat) : State :=
  match s.obj world .launch launch with
  | none => s
  | some o =>
    if !s.mayStart o then s
    else
      let s := o.units.foldl (fun (s : State) u => s.runUnit u) (s.openStreams o)
      s.onObj world .launch launch fun x =>
        { x with started := some (s.die o.home).cyc,
                 units := x.units.map fun u => if u.stage = .loaded then { u with stage := .running } else u }

/-- START_TOKEN (R42). -/
def execStartToken (world launch : Nat) (s : State) : Host.Outcome State Fault Refusal :=
  .next (s.startLaunch world launch)

end Sys2Proof.Machine
end

