-- ==== Sys2Proof/Machine/Firmware.lean ====
section
/-! DEFINITION. The custom CSRs of a management core (12_scheduling R243), the swap of its firmware (R244, R245) and the
watchdog ladder (R246). -/

namespace Sys2Proof.Machine

/-- Change a management core. -/
def State.onMgmt (s : State) (d : Nat) (f : MgmtSt → MgmtSt) : State := s.onDie d fun x => { x with mgmt := f x.mgmt }

/-- A management core. -/
def State.mgmt (s : State) (d : Nat) : MgmtSt := (s.die d).mgmt

/-! ## The custom CSRs (R243) -/

/-- XZ_BINDQ_WRITE: a record is queued in the FIFO of a slot (R243). -/
def State.bindqWrite (s : State) (d : Nat) (v : Word) (r : BindRec) : State :=
  let slot := (v.extractLsb' 44 10).toNat
  if v.extractLsb' 54 10 ≠ 0 then s.onSched d fun x => { x with badRec := true }
  else
  let s := s.onMgmt d fun x => { x with bindq := v }
  if 547 < slot then s.onSched d fun x => { x with badSlot := true }
  else
    let s := s.onSched d fun x => { x with lastSlot := slot }
    let q := s.slot d slot
    if !recOk r || !recFits r slot then s.onSched d fun x => { x with badRec := true }
    else if 4 ≤ q.fifo.length then s.onSched d fun x => { x with full := true }
    else s.onSlot d slot fun x =>
      { x with fifo := x.fifo ++ [r], since := if x.fifo.isEmpty then (s.die d).cyc else x.since }

/-- XZ_BINDQ_WRITE (R243). -/
def execXzBindqWrite (die : Nat) (v : Word) (bytes : BitVec 256) (s : State) : Host.Outcome State Fault Refusal :=
  dieEvent die (s.bindqWrite die v bytes)

/-- XZ_CNT_SELECT: a write with a reserved field that is not zero is ignored (R243). -/
def State.cntSelect (s : State) (d : Nat) (v : Word) : State :=
  if v.extractLsb' 32 26 ≠ 0 then s
  else s.onSched d fun x => { x with cntLevel := (v.extractLsb' 59 3).toNat, cntId := (v.extractLsb' 0 32).toNat }

/-- XZ_CNT_SELECT (R243). -/
def execXzCntSelect (die : Nat) (v : Word) (s : State) : Host.Outcome State Fault Refusal :=
  dieEvent die (s.cntSelect die v)

/-- A read of xz_cnt: the object selected, when its home is the die; ids are unique within a world only, and the object
of the lowest world is read. -/
def State.cntRead (s : State) (d : Nat) : Word :=
  let q := (s.die d).sched
  let hit := (List.range 8).findSome? fun w => match levelOf q.cntLevel with
    | none => none
    | some l => match s.obj w l q.cntId with
      | some o => if o.home = d then some o else none
      | none => none
  match hit with
  | none => BitVec.ofNat 64 (q.cntLevel % 8 * 2 ^ 59)
  | some o => BitVec.ofNat 64 (o.status.code * 2 ^ 62 + q.cntLevel % 8 * 2 ^ 59 + 2 ^ 58 + o.counter % 2 ^ 32)

/-- The heartbeat begins again. -/
def State.kick (s : State) (d : Nat) : State :=
  s.onSched d fun x => { x with kicked := (s.die d).cyc, half := false }

/-- XZ_WDOG_KICK (R243, R246). -/
def execXzWdogKick (die : Nat) (s : State) : Host.Outcome State Fault Refusal := dieEvent die (s.kick die)

/-- XZ_RMQ_WRITE: a request of any world joins the queue of the die (R243, R215); a read gives its tag, or 0 when the
queue was full. -/
def State.rmqWrite (s : State) (d : Nat) (v : Word) (r : BitVec 512) : State :=
  if v.extractLsb' 44 17 ≠ 0 then s
  else
    let m := (s.die d).rm
    if m.full then s.onMgmt d fun x => { x with rmqTag := 0 }
    else
      let q : RmReq :=
        { tag := m.next, world := (v.extractLsb' 61 3).toNat, record := some r, cells := [], atHome := false, after := [],
          acq := Stamp.zero }
      s.onDie d fun x => { x with rm := m.push q, mgmt := { x.mgmt with rmqTag := m.next } }

/-- XZ_RMQ_WRITE (R243). -/
def execXzRmqWrite (die : Nat) (v : Word) (bytes : BitVec 512) (s : State) : Host.Outcome State Fault Refusal :=
  dieEvent die (s.rmqWrite die v bytes)

/-! ## Swapping the firmware (R244, R245) -/

/-- The first 1 MiB of the staging window, as a bank. -/
def State.stagedImage (s : State) : Map Byte :=
  (s.dev.bar0.filter fun p => decide (0x400000 ≤ p.1 ∧ p.1 < 0x500000)).map fun p => (p.1 - 0x400000, p.2)

/-- The bytes of an image: to the last byte that is not zero. -/
def imageBytes (m : Map Byte) : List Byte :=
  match (m.map fun p => p.1).max? with
  | none => []
  | some n => (List.range (n + 1)).map fun i => Map.get m 0 i

/-- FW_STAGE: ST := 1 copies the staged image, and its verification begins; it is ignored while ST is 1 (R244). -/
def State.stageFw (s : State) (d : Nat) : State :=
  if (s.die d).sched.stage = 1 then s
  else (s.onMgmt d fun x => { x with staging := s.stagedImage }).onSched d fun x => { x with stage := 1 }

/-- FW_STAGE (R244). -/
def execFwStage (die : Nat) (s : State) : Host.Outcome State Fault Refusal := dieEvent die (s.stageFw die)

/-- FW_VERIFY_DONE: the signature is good, or it is not (R244). -/
def State.verifyFw (s : State) (d : Nat) : State :=
  if (s.die d).sched.stage ≠ 1 then s
  else
    let good := Config.firmwareSigned (imageBytes (s.mgmt d).staging)
    s.onSched d fun x => { x with stage := if good then 2 else 3 }

/-- FW_VERIFY_DONE (R244). -/
def execFwVerifyDone (die : Nat) (s : State) : Host.Outcome State Fault Refusal := dieEvent die (s.verifyFw die)

/-- SHA-256 as a number whose first byte is the least significant, as a record holds it (R2). -/
def shaOf (bs : List Byte) : BitVec 256 := BitVec.ofNat 256 (bytesNat (sha256 (bs.map BitVec.toNat)))

/-- The measurement digest of the package: SHA-256 of MEAS0 to MEAS7, in order (R287). -/
def SecSt.digest (x : SecSt) : BitVec 256 := shaOf ((x.meas.toList.take 8).flatMap fun v => leBytes v.toNat 32)

/-- A measurement register is extended (R287). -/
def State.extendMeas (s : State) (n : Nat) (bs : List Byte) : State :=
  let old := s.sec.meas.toList.getD n 0
  let x := shaOf (leBytes old.toNat 32 ++ bs)
  { s with sec := { s.sec with meas := Vector.ofFn fun i => if i.val = n then x else s.sec.meas[i] } }

/-- The hart restarts at its image's entry in machine mode (R244). -/
def hartAt (pc : Word) : HartSt := { HartSt.reset with pc := pc }

/-- Management firmware gives a value that one of MEAS10 to MEAS15 is extended with (R287). -/
def State.measure (s : State) (n : Nat) (bs : List Byte) : State := if 10 ≤ n ∧ n < 16 then s.extendMeas n bs else s

/-- FW_COMMIT: GO with a good staged image; the staging bank becomes the code bank, the data bank is cleared, the hart
restarts, and the mapper cache of the die is empty (R244). -/
def State.commitFw (s : State) (d : Nat) : State :=
  if (s.die d).sched.stage ≠ 2 then s
  else
    let img := (s.mgmt d).staging
    let bs := imageBytes img
    let s := s.onMgmt d fun x =>
      { x with code := img, staging := [], data := [], hart := hartAt (Config.imageEntry bs), fwPassed := false }
    let s := s.onSched d fun x => { x with stage := 0, commitAt := some (s.die d).cyc, rom := false, kicked := (s.die d).cyc, half := false }
    let s := s.onWork fun x => { x with cache := x.cache.filter fun c => c.die ≠ d }
    s.extendMeas 8 bs

/-- FW_COMMIT (R244). -/
def execFwCommit (die : Nat) (s : State) : Host.Outcome State Fault Refusal := dieEvent die (s.commitFw die)

/-- The image of a die has set OK on every die, which all run it: it goes to the boot flash, and the swap has ended
(R244). -/
def State.flashFw (s : State) (d : Nat) : State :=
  if (List.range 4).all fun e => (s.mgmt e).fwPassed && (s.mgmt e).code == (s.mgmt d).code then
    let t := { s with dev := { s.dev with flash := imageBytes (s.mgmt d).code } }
    (List.range 4).foldl (fun (t : State) e => t.onMgmt e fun x => { x with fwPassed := false }) t
  else s

/-- FW_OK: OK is written 1 (R243); the new image sets it when its self-check passes, and when all four dies have, the image
goes to the boot flash (R244). -/
def State.okFw (s : State) (d : Nat) : State :=
  let s := s.onMgmt d fun x => { x with fwOk := true }
  if (s.die d).sched.commitAt.isNone then s
  else
    ((s.onSched d fun x => { x with commitAt := none }).onMgmt d fun x => { x with fwPassed := true }).flashFw d

/-- FW_OK (R244). -/
def execFwOk (die : Nat) (s : State) : Host.Outcome State Fault Refusal := dieEvent die (s.okFw die)

/-- ROM_SCHEDULER_TAKEOVER: the ROM scheduler of a die runs, and every enabled queue has an entry with STATUS 7 (R245,
R234). -/
def State.romTakeover (s : State) (d : Nat) : State :=
  let s := s.onSched d fun x => { x with rom := true, commitAt := none, kicked := (s.die d).cyc, half := false }
  (List.range 64).foldl (fun (s : State) n =>
    if (s.queue n).en then s.post n { tag := 0, id := 0, level := 0, status := 7, fcode := 0, detail := 0 } else s) s

/-- FW_OK_TIMEOUT: OK has not been set within 2^24 cycles of the commit (R244, R245). -/
def State.okTimeout (s : State) (d : Nat) : State :=
  match (s.die d).sched.commitAt with
  | none => s
  | some t => if (s.die d).cyc < t + 2 ^ 24 then s else s.romTakeover d

/-- FW_OK_TIMEOUT (R245). -/
def execFwOkTimeout (die : Nat) (s : State) : Host.Outcome State Fault Refusal := dieEvent die (s.okTimeout die)

/-! ## The watchdog ladder (R246) -/

/-- HEARTBEAT_HALF: half the period has passed without KICK: local interrupt 21 (R242). -/
def State.beatHalf (s : State) (d : Nat) : State :=
  let q := (s.die d).sched
  if q.half || (s.die d).cyc < q.kicked + q.period / 2 then s
  else (s.onSched d fun x => { x with half := true }).notify d .heartbeat

/-- HEARTBEAT_HALF (R242). -/
def execHeartbeatHalf (die : Nat) (s : State) : Host.Outcome State Fault Refusal := dieEvent die (s.beatHalf die)

/-- HEARTBEAT_EXPIRE: the period has passed without KICK, and the ROM scheduler takes over (R246 step 2). -/
def State.beatExpire (s : State) (d : Nat) : State :=
  let q := (s.die d).sched
  if q.rom || (s.die d).cyc < q.kicked + q.period then s else s.romTakeover d

/-- HEARTBEAT_EXPIRE (R246). -/
def execHeartbeatExpire (die : Nat) (s : State) : Host.Outcome State Fault Refusal := dieEvent die (s.beatExpire die)

/-- A cause is written to RSTCAUSE, with NEW (R28). -/
def State.rstCause (s : State) (cause d : Nat) : State :=
  { s with dev := { s.dev with rstcause := BitVec.ofNat 32 (0x100 + cause * 16 + d) } }

/-- The launches with a unit that is bound on a die. -/
def State.launchesOn (s : State) (d : Nat) : List WorkObj :=
  s.work.objs.filter fun o => o.level == .launch && o.units.any fun u =>
    u.die == d && (u.stage == .loaded || u.stage == .running)

/-- The routers of a die after its cycle counter has restarted: what is on its way arrives as many cycles later. -/
def DieNet.rebase (x : DieNet) (cyc : Nat) : DieNet :=
  { x with
    used := [],
    transit := x.transit.map fun t => { t with ready := t.ready - cyc },
    beats := x.beats.map fun b => { b with ready := b.ready - cyc },
    feed := x.feed.map fun b => { b with ready := b.ready - cyc } }

/-- What a reset of a die's compute portion keeps of it (R246, R190, R277, R11): its links and circuit tables, its clock
vector, its world map and spare map, and its spill areas. -/
def DieSt.resetCompute (x : DieSt) : DieSt :=
  { DieSt.reset with
    vc := x.vc, net := x.net.rebase x.cyc, wmap := x.wmap, spare := x.spare, retired := x.retired, spill := x.spill }

/-- The capsules in the receive buffers of a die are discarded. -/
def State.dropBuffers (s : State) (d : Nat) : State :=
  s.cores.foldl (fun (s : State) (p : CoreId × CoreSt) =>
    if p.1.die ≠ d then s
    else p.2.rxbuf.foldl (fun (s : State) k => s.leaveLaunch (hdrByte k.hdr 7) k.launch) s) s

/-- The watchdogs of the launches homed on a die go on over the restart of its cycle counter. -/
def State.rebaseWatchdogs (s : State) (d : Nat) : State :=
  let cyc := (s.die d).cyc
  s.onWork fun x => { x with objs := x.objs.map fun o => match o.started with
    | some t => if o.home = d then { o with wdog := o.wdog - (cyc - t), started := some 0 } else o
    | none => o }

/-- The compute portion of a die is reset (R246 step 3): its cores, contexts, regions and Sieves are as after reset, and
its management core reloads its image from flash. -/
def State.resetDie (s : State) (d : Nat) : State :=
  let s := (s.launchesOn d).foldl (fun (s : State) o =>
    s.cancelObj o .cancelled { status := 5, fcode := 0x68, detail := 0 }) s
  let s := (s.dropBuffers d).rebaseWatchdogs d
  let s := { s with cores := s.cores.filter fun (p : CoreId × CoreSt) => p.1.die ≠ d,
                    ctxs := s.ctxs.filter fun (p : CtxId × CtxSt) => p.1.die ≠ d }
  let s := (s.onDie d DieSt.resetCompute).onWork fun x => { x with cache := x.cache.filter fun c => c.die ≠ d }
  let img : Map Byte := ((s.dev.flash.zip (List.range s.dev.flash.length)).map fun p => (p.2, p.1)).filter fun p => p.2 ≠ 0
  s.onMgmt d fun x => { x with code := img, hart := hartAt (Config.imageEntry s.dev.flash), check := true }

/-- A slot of a die that is free has had a record waiting for a whole period. -/
def State.dispatchStalled (s : State) (d : Nat) : Bool :=
  (s.waitingSlots d).any fun p => decide ((s.slot d p.1).since + (s.die d).sched.period ≤ (s.die d).cyc)

/-- ROM_HEARTBEAT_MISS: the ROM scheduler misses a heartbeat, or its dispatcher stalls (R246 step 3). -/
def State.romMiss (s : State) (d : Nat) : State :=
  let q := (s.die d).sched
  if q.rom && (decide (q.kicked + q.period ≤ (s.die d).cyc) || s.dispatchStalled d) then (s.resetDie d).rstCause 3 d
  else s

/-- ROM_HEARTBEAT_MISS (R246). -/
def execRomHeartbeatMiss (die : Nat) (s : State) : Host.Outcome State Fault Refusal := dieEvent die (s.romMiss die)

/-- A field of BOOTST (R27). -/
def bootField (stage cause hbmOk dieFail : Nat) : BitVec 32 :=
  BitVec.ofNat 32 (stage % 16 + hbmOk % 256 * 2 ^ 8 + cause % 16 * 2 ^ 16 + dieFail % 16 * 2 ^ 20)

/-- The security core writes STAGE of BOOTST, the other fields staying (R27). -/
def State.setStage (s : State) (n : Nat) : State :=
  { s with dev := { s.dev with bootst := (s.dev.bootst &&& 0xFFFFFFF0) ||| BitVec.ofNat 32 (n % 16) } }

/-- DIE_SELF_CHECK_PASS: a die passes its self-check; the last of a bring-up makes the device ready (R26, R246). -/
def State.selfCheck (s : State) (d : Nat) : State :=
  let s := s.onMgmt d fun x => { x with check := false }
  if s.dev.stage = 6 && (List.range 4).all fun e => !(s.mgmt e).check then s.setStage 7 else s

/-- DIE_SELF_CHECK_PASS (R26, R246). -/
def execDieSelfCheckPass (die : Nat) (s : State) : Host.Outcome State Fault Refusal := dieEvent die (s.selfCheck die)

/-- The package resets (R11, R27, R28, R277, R283, R287): what lies in memory, in the boot flash and in the host's
memory stays, and RSTCAUSE takes a cause. -/
def State.resetPackage (s : State) (cause d : Nat) : State :=
  let m := { MemSt.reset with bytes := s.mem.bytes, keys := s.mem.keys }
  let keys : KeySt := { KeySt.reset with ring := s.keys.ring }
  let t := { State.reset with
    cur := s.cur, agenda := s.agenda, fresh := s.fresh, pkg := s.pkg, mem := m, keys := keys, roots := s.roots, far := s.far,
    dev := { DevSt.reset with flash := s.dev.flash, rstcause := s.dev.rstcause, seen := s.dev.seen } }
  t.rstCause cause d

/-- MSI-X vector 0 of the physical function is sent to the host, whatever the table holds (R246). -/
def State.msiZero (s : State) : State := s.onWork fun x => { x with msi := x.msi ++ [(0, 0)] }

/-- DIE_SELFTEST_TIMEOUT: a die that was reset has not passed its self-check within 2^26 cycles: the package resets
(R246 step 4). -/
def State.selftestTimeout (s : State) (d : Nat) : State :=
  if (s.mgmt d).check && s.dev.stage ≠ 6 && decide (2 ^ 26 ≤ (s.die d).cyc) then (s.resetPackage 4 d).msiZero else s

/-- DIE_SELFTEST_TIMEOUT (R246). -/
def execDieSelftestTimeout (die : Nat) (s : State) : Host.Outcome State Fault Refusal :=
  dieEvent die (s.selftestTimeout die)

/-- SECURITY_CONTACT_LOST: the package resets, and RSTCAUSE names the I/O die logic (R246 step 4). -/
def execSecurityContactLost (s : State) : Host.Outcome State Fault Refusal := .next (s.resetPackage 4 4).msiZero

/-- PACKAGE_RESET: a Conventional Reset of the physical function's link (R28). -/
def execPackageReset (s : State) : Host.Outcome State Fault Refusal := .next (s.resetPackage 1 0)

/-- The machine timer interrupt is pending (R242). -/
def State.timerPending (s : State) (d : Nat) : Bool := decide ((s.die d).sched.mtimecmp.toNat ≤ (s.die d).cyc)

/-- MTIMER_INTERRUPT: the timer interrupt has become pending; a hart that waits for interrupts goes on (R242). -/
def State.mtimer (s : State) (d : Nat) : State :=
  if s.timerPending d then (s.onMgmt d fun x => { x with hart := { x.hart with wfi := false } }).notify d .timer else s

/-- MTIMER_INTERRUPT (R242). -/
def execMtimerInterrupt (die : Nat) (s : State) : Host.Outcome State Fault Refusal := dieEvent die (s.mtimer die)

/-- The firmware of a die relays the numeric event that stands at a place of its notices (R125, R234). -/
def State.relayAt (s : State) (d i : Nat) (c : CtxId) (cls : Nat) (dest : Option (Nat × Word)) : State :=
  let s' := s.onDie d fun x => { x with notices := x.notices.eraseIdx i }
  match dest with
  | none => s'
  | some (queue, tag) =>
    let det := cls % 8 + (s.cid c).toNat / 4 % 2 ^ 25 * 2 ^ 7
    s'.post queue { tag := tag, id := 0, level := 0, status := 6, fcode := 0, detail := det }

/-- A notice is a numeric event. -/
def Notice.isNum : Notice → Bool
  | .numEvent .. => true
  | .nodeFault .. | .pageFault _ | .report .. | .linkFailure _ | .capsule _ | .watchdog _ | .heartbeat | .timer | .busy
  | .laneLoss _ => false

/-- The firmware of a die relays its oldest numeric event to the host (R125, R234). -/
def State.relay (s : State) (d : Nat) : State :=
  match (s.die d).notices.findIdx? Notice.isNum with
  | none => s
  | some i => match (s.die d).notices[i]? with
    | some (.numEvent c cls dest) => s.relayAt d i c cls dest
    | _ => s

end Sys2Proof.Machine
end

