-- ==== Sys2Proof/Machine/HartFp.lean ====
section
/-! DEFINITION. The floating-point arithmetic of the management core (12_scheduling R242: the F and D extensions): results
with their exception flags, the same for both formats. -/

namespace Sys2Proof.Machine

/-- A result with its flags: NV 16, DZ 8, OF 4, UF 2, NX 1. -/
structure FpRes where
  bits  : Nat
  flags : Nat
  deriving DecidableEq, Repr

/-- The pattern is a signalling NaN. -/
def FFmt.isSnan (f : FFmt) (b : Nat) : Bool := (f.value b).isNan && !b.testBit (f.mb - 1)

/-- The canonical NaN with NV. -/
def FFmt.nv (f : FFmt) : FpRes := { bits := f.nanBits, flags := 16 }

/-- Round mant × 2^exp once, with the flags; tininess is detected after rounding. -/
def FFmt.fpRound (f : FFmt) (rm : RoundMode) (neg : Bool) (mant : Nat) (exp : Int) (sticky : Bool) : FpRes :=
  let r := f.round rm false neg mant exp sticky
  let wide : FFmt := { eb := f.eb + 4, mb := f.mb }
  let w := wide.value (wide.round rm false neg mant exp sticky).bits
  let tiny := r.inexact && (if neg then w.negate else w).lt (.num false 1 (1 - f.bias))
  { bits := r.bits, flags := (if r.ovf then 4 else 0) + (if tiny then 2 else 0) + (if r.inexact then 1 else 0) }

/-- Round an exact value. -/
def FFmt.fpExact (f : FFmt) (rm : RoundMode) (x : Fl) : FpRes :=
  match x with
  | .nan => { bits := f.nanBits, flags := 0 }
  | .inf n => { bits := (if n then f.signBit else 0) + f.infBits, flags := 0 }
  | .num n m e => f.fpRound rm n m e false

/-- NV when an operand is a signalling NaN or the operation is invalid. -/
def FFmt.fpDone (f : FFmt) (rm : RoundMode) (ops : List Nat) (r : Fl × Bool) : FpRes :=
  let x := f.fpExact rm r.1
  if r.2 || ops.any f.isSnan then { x with flags := x.flags ||| 16 } else x

/-- FADD. -/
def FFmt.fpAdd (f : FFmt) (rm : RoundMode) (a b : Nat) : FpRes := f.fpDone rm [a, b] ((f.value a).add rm (f.value b))
/-- FSUB. -/
def FFmt.fpSub (f : FFmt) (rm : RoundMode) (a b : Nat) : FpRes :=
  f.fpDone rm [a, b] ((f.value a).add rm (f.value b).negate)
/-- FMUL. -/
def FFmt.fpMul (f : FFmt) (rm : RoundMode) (a b : Nat) : FpRes := f.fpDone rm [a, b] ((f.value a).mul (f.value b))

/-- FMADD and its like: ±(a × b) ± c. -/
def FFmt.fpFma (f : FFmt) (rm : RoundMode) (negP negC : Bool) (a b c : Nat) : FpRes :=
  let x := if negP then (f.value a).negate else f.value a
  let z := if negC then (f.value c).negate else f.value c
  let (p, i) := x.mul (f.value b)
  let (r, j) := p.add rm z
  f.fpDone rm [a, b, c] (r, i || j)

/-- FDIV. -/
def FFmt.fpDiv (f : FFmt) (rm : RoundMode) (a b : Nat) : FpRes :=
  let sg (n : Bool) : Nat := if n then f.signBit else 0
  match f.value a, f.value b with
  | .nan, _ | _, .nan => f.fpDone rm [a, b] (.nan, false)
  | .inf _, .inf _ => f.nv
  | .inf n, .num k _ _ => { bits := sg (n != k) + f.infBits, flags := 0 }
  | .num n _ _, .inf k => { bits := sg (n != k), flags := 0 }
  | .num n m e, .num k p d =>
    if p = 0 then if m = 0 then f.nv else { bits := sg (n != k) + f.infBits, flags := 8 }
    else f.fpRound rm (n != k) (m * 2 ^ 128 / p) (e - d - 128) (m * 2 ^ 128 % p != 0)

/-- FSQRT. -/
def FFmt.fpSqrt (f : FFmt) (rm : RoundMode) (a : Nat) : FpRes :=
  match f.value a with
  | .nan => f.fpDone rm [a] (.nan, false)
  | .inf n => if n then f.nv else { bits := f.infBits, flags := 0 }
  | .num n m e =>
    if m = 0 then { bits := a, flags := 0 }
    else if n then f.nv
    else
      let (m, e) := if e % 2 = 0 then (m, e) else (2 * m, e - 1)
      let r := isqrt (m * 2 ^ 256)
      f.fpRound rm false r (e / 2 - 128) (r * r != m * 2 ^ 256)

/-- FMIN and FMAX: −0 is less than +0, and a NaN gives way to a number. -/
def FFmt.fpMinMax (f : FFmt) (isMax : Bool) (a b : Nat) : FpRes :=
  let flags := if f.isSnan a || f.isSnan b then 16 else 0
  let x := f.value a
  let y := f.value b
  let less := x.lt y || (x.eq y && f.neg a && !f.neg b)
  let r := if x.isNan && y.isNan then f.nanBits
    else if x.isNan then b
    else if y.isNan then a
    else if less != isMax then a else b
  { bits := r, flags := flags }

/-- FEQ is 2, FLT is 1, FLE is 0. -/
def FFmt.fpCmp (f : FFmt) (op a b : Nat) : FpRes :=
  let x := f.value a
  let y := f.value b
  let nan := x.isNan || y.isNan
  let inv := if op = 2 then f.isSnan a || f.isSnan b else nan
  let r := match op with
    | 2 => x.eq y
    | 1 => !nan && x.lt y
    | _ => !nan && (x.lt y || x.eq y)
  { bits := if r then 1 else 0, flags := if inv then 16 else 0 }

/-- FCLASS. -/
def FFmt.fpClass (f : FFmt) (a : Nat) : Nat :=
  let sub := a / 2 ^ f.mb % 2 ^ f.eb = 0
  match f.value a with
  | .nan => if f.isSnan a then 256 else 512
  | .inf n => if n then 1 else 128
  | .num n m _ =>
    if m = 0 then (if n then 8 else 16)
    else if sub then (if n then 4 else 32)
    else if n then 2 else 64

/-- FCVT to an integer of a width, as a number of 64 bits, sign-extended. -/
def FFmt.fpToInt (f : FFmt) (rm : RoundMode) (sgn : Bool) (w a : Nat) : FpRes :=
  let out (v : Int) : Nat := signExtInt w v
  match f.value a with
  | .nan => { bits := out (intMax sgn w), flags := 16 }
  | .inf n => { bits := out (if n then intMin sgn w else intMax sgn w), flags := 16 }
  | .num n m e =>
    let v := roundToInt rm n m e
    let exact := decide (0 ≤ e) || m % 2 ^ (-e).toNat == 0
    match satInt sgn w v with
    | (r, true) => { bits := out r, flags := 16 }
    | (r, false) => { bits := out r, flags := if exact then 0 else 1 }
where
  /-- The low bits of an integer, sign-extended from a width to 64. -/
  signExtInt (w : Nat) (v : Int) : Nat :=
    let b := intBits w v
    if w = 32 && b.testBit 31 then b + (2 ^ 64 - 2 ^ 32) else b

/-- FCVT from an integer. -/
def FFmt.fpOfInt (f : FFmt) (rm : RoundMode) (v : Int) : FpRes := f.fpRound rm (decide (v < 0)) v.natAbs 0 false

/-- FCVT between the formats. -/
def fpConv (from' to' : FFmt) (rm : RoundMode) (a : Nat) : FpRes :=
  let r := to'.fpExact rm (from'.value a)
  if from'.isSnan a then { r with flags := r.flags ||| 16 } else r

/-- FSGNJ, FSGNJN and FSGNJX. -/
def FFmt.fpSign (f : FFmt) (op a b : Nat) : Nat :=
  let m := a % f.signBit
  let s := match op with
    | 0 => f.neg b
    | 1 => !f.neg b
    | _ => f.neg a != f.neg b
  m + if s then f.signBit else 0

/-- A rounding mode by its code. -/
def fpMode : Nat → Option RoundMode
  | 0 => some .rne
  | 1 => some .rtz
  | 2 => some .rdn
  | 3 => some .rup
  | 4 => some .rmm
  | _ => none

end Sys2Proof.Machine
end

