-- ==== Sys2Proof/Machine/Regions.lean ====
section
/-! DEFINITION. Regions at work (10_fabric R203 to R209, R217 to R219): the tokens of an operator and of MTILE nodes,
quiescing, and the exchange of planes. The operator of a bitstream is a free function of what it has consumed. -/

namespace Sys2Proof.Machine

/-- A region of a compute die. -/
def regionEvent (d r : Nat) (t : State) : Host.Outcome State Fault Refusal :=
  if d < 4 && r < 32 then .next t else .fault .noSuchPart

/-! ## Tokens into the operator (R208) -/

/-- A memory tile's bytes after the operator's writes (R205). -/
def writeTiles (m : Map Byte) (ws : List (Nat × Byte)) : Map Byte :=
  ws.foldl (fun (m : Map Byte) w =>
    if w.1 < 48 * 16384 then (if w.2 = 0 then Map.drop m w.1 else Map.put m w.1 w.2) else m) m

/-- The tile of a write is one that an operator reaches by address: a BUF or a CACHE tile (R205). -/
def Plane.reaches (a : Plane) (w : Nat × Byte) : Bool := a.role (w.1 / 16384) == 1 || a.role (w.1 / 16384) == 3

/-- The operator consumes something in a cycle: its history grows, and it writes the tiles that it reaches. -/
def RegionSt.consume (r : RegionSt) (x : OpIn) (cyc : Nat) : RegionSt :=
  match r.active with
  | none => r
  | some a =>
    let y := { r with hist := r.hist ++ [x], times := r.times ++ [cyc] }
    { y with tiles := writeTiles r.tiles ((Config.opTiles a.digest y.hist (y.arrivals a)).filter a.reaches), idle := false }

/-- The clock of a consumed token joins those before it. -/
def RegionSt.join (r : RegionSt) (t : Token) : RegionSt :=
  match t.clock with
  | some c => { r with clock := Stamp.join r.clock c }
  | none => r

/-- The region's logic runs: its unit has been started, and its clock does not stand. -/
def RegionSt.works (r : RegionSt) (cyc : Nat) : Bool := r.run && r.active.isSome && !r.stands cyc

/-- The token that waits for an input of the operator. -/
def State.opHead (s : State) (d n port : Nat) : Option Token :=
  let r := s.region d n
  match r.ins.getD port .none with
  | .none => none
  | .port q => (s.inOf (.region d n q)).buf.head?
  | .tile k => match r.mtiles.find? fun m => m.unit == k with
    | some m => m.buf.head?
    | none => none

/-- Change an MTILE node of a region. -/
def State.onMTile (s : State) (d n node : Nat) (f : MTile → MTile) : State :=
  s.onRegion d n fun r => { r with mtiles := r.mtiles.map fun m => if m.unit = node then f m else m }

/-- The head token of a client's input is removed, and its credit returns (R152). -/
def State.takeIn (s : State) (p : PortRef) : State :=
  (s.onInOf p fun x => { x with buf := x.buf.drop 1 }).returnCredit p (s.inOf p)

/-- The token at an input of the operator is removed. -/
def State.opTake (s : State) (d n port : Nat) : State :=
  match (s.region d n).ins.getD port .none with
  | .none => s
  | .port q => s.takeIn (.region d n q)
  | .tile k => s.onMTile d n k fun m => { m with buf := m.buf.drop 1 }

/-- REGION_TOKEN_ACCEPT: the shell passes a token to the operator, when both are ready and the input has not delivered
EOS (R208, R218). -/
def State.regionAccept (s : State) (d n port : Nat) : State :=
  let r := s.region d n
  match r.active, s.opHead d n port with
  | some a, some t =>
    let cyc := (s.die d).cyc
    let tag := Config.valueTag s.fresh
    if !r.works cyc || r.quiet || r.eosIn.contains port || !Config.opReady a.digest r.hist (r.arrivals a) port then s
    else if t.kind = .marker then
      match r.ins.getD port .none with
      | .tile _ => s.opTake d n port
      | .port _ | .none => s
    else
      (s.opTake d n port).bump.onRegion d n fun x =>
        let y := (x.consume (.input port t.kind t.val tag) cyc).join t
        if t.kind = .eos then { y with eosIn := y.eosIn ++ [port] } else y
  | _, _ => s

/-- REGION_TOKEN_ACCEPT (R208). -/
def execRegionTokenAccept (die region port : Nat) (s : State) : Host.Outcome State Fault Refusal :=
  regionEvent die region (s.regionAccept die region port)

/-! ## Tokens out of the operator -/

/-- A FIFO node has room: its edge holds 256 tokens for each of its tiles, those that its operator has just sent it among them
(R206). -/
def MTile.room (m : MTile) : Bool := m.role != 2 || decide (m.sent.length + m.buf.length < 256 * m.tiles.length)

/-- An output of a region takes a token: a router port with a free entry (R151), or an MTILE node with room. -/
def State.outTakes (s : State) (d n : Nat) (o : OpPort) : Bool :=
  match o with
  | .port q => decide ((s.outOf (.region d n q)).buf.length < 4)
  | .tile k => match (s.region d n).mtiles.find? fun m => m.unit == k with
    | some m => m.room
    | none => true
  | .none => true

/-- A token leaves by an output. -/
def State.outPut (s : State) (d n : Nat) (o : OpPort) (t : Token) : State :=
  match o with
  | .port q => s.onOutOf (.region d n q) fun x => { x with buf := x.buf ++ [t] }
  | .tile k => s.onMTile d n k fun m => { m with sent := m.sent ++ [t] }
  | .none => s

/-- REGION_TOKEN_EMIT: the next token of the operator leaves through the shell; one after the output's EOS is dropped,
and the management core is told (R208). -/
def State.regionEmit (s : State) (d n : Nat) : State :=
  let r := s.region d n
  match r.active with
  | none => s
  | some a =>
    match (Config.opOutputs a.digest r.hist (r.arrivals a))[r.emitted]? with
    | none => s
    | some (port, kind, v, _) =>
      let o := r.outs.getD port .none
      if !r.works (s.die d).cyc || !s.outTakes d n o then s
      else
        let s' := s.onRegion d n fun x => { x with emitted := x.emitted + 1 }
        if kind = .marker then s'
        else if r.eosOut.contains port then s'.notify d (.report .streamProto (512 + n))
        else
          let s' := s'.outPut d n o { kind := kind, val := v, clock := some r.clock }
          if kind = .eos then s'.onRegion d n fun x => { x with eosOut := x.eosOut ++ [port] } else s'

/-- REGION_TOKEN_EMIT (R208). -/
def execRegionTokenEmit (die region : Nat) (s : State) : Host.Outcome State Fault Refusal :=
  regionEvent die region (s.regionEmit die region)

/-! ## MTILE nodes (R206) -/

/-- Rows of a BUF node. -/
def MTile.rows (m : MTile) : Nat := 256 * m.tiles.length

/-- The bytes of a row of a BUF node: its tiles in order, 256 rows of 64 bytes each (R205). -/
def MTile.rowCells (m : MTile) (row : Nat) (v : Vec) : List (Nat × Byte) :=
  (List.range 64).map fun i =>
    (m.tiles.getD (row / 256) 0 * 16384 + row % 256 * 64 + i, v.extractLsb' (8 * i) 8)

/-- The token that waits for an MTILE node. -/
def State.tileHead (s : State) (d n : Nat) (m : MTile) : Option Token :=
  match m.src with
  | .none => none
  | .port q => (s.inOf (.region d n q)).buf.head?
  | .tile _ => m.sent.head?

/-- The token at an MTILE node's input is removed. -/
def State.tileTake (s : State) (d n : Nat) (m : MTile) : State :=
  match m.src with
  | .none => s
  | .port q => s.takeIn (.region d n q)
  | .tile _ => s.onMTile d n m.unit fun x => { x with sent := x.sent.drop 1 }

/-- A FIFO node sends its oldest token on by its router port. -/
def State.fifoSend (s : State) (d n : Nat) (m : MTile) (t : Token) : State :=
  (s.outPut d n m.dst t).onMTile d n m.unit fun x =>
    { x with buf := x.buf.drop 1, eosOut := x.eosOut || t.kind == .eos }

/-- A token enters an MTILE node: a FIFO keeps it; a BUF node writes it to its next row, where the tile is still a BUF tile, and
what a CACHE node does with a fill is the operator's (R205, R206). -/
def State.tileEnter (s : State) (d n : Nat) (m : MTile) (t : Token) : State :=
  let s := s.tileTake d n m
  let s := s.onMTile d n m.unit fun x =>
    { x with count := x.count + (if t.kind = .data || t.kind = .steer then 1 else 0), eosIn := x.eosIn || t.kind == .eos,
             closed := x.closed || t.kind == .marker, buf := if m.role = 2 then x.buf ++ [t] else x.buf }
  if m.role = 2 || t.kind = .marker then s
  else
    let cyc := (s.die d).cyc
    let s := s.onRegion d n fun r => (r.consume (.tile m.unit t.kind t.val) cyc).join t
    if m.role = 1 && (t.kind = .data || t.kind = .steer) && m.rows ≠ 0 then
      s.onRegion d n fun r =>
        let buf (w : Nat × Byte) : Bool := roleOf r.active (w.1 / 16384) == 1
        { r with tiles := writeTiles r.tiles ((m.rowCells (m.count % m.rows) t.val).filter buf) }
    else s

/-- A node takes no token from a router port while its region is quiesced: ready is low on every input (R218). -/
def MTile.shut (m : MTile) (quiet : Bool) : Bool :=
  match m.src with
  | .port _ => quiet
  | .tile _ | .none => false

/-- MTILE_TOKEN: a FIFO node sends on its oldest token, or a token enters a node that has room (R206). -/
def State.mtileToken (s : State) (d n node : Nat) : State :=
  let r := s.region d n
  match r.mtiles.find? fun m => m.unit == node with
  | none => s
  | some m =>
    if r.stands (s.die d).cyc || !r.run then s
    else
      let out : Option Token := match m.dst with
        | .port _ => if s.outTakes d n m.dst then m.buf.head? else none
        | .tile _ | .none => none
      match out with
      | some t => s.fifoSend d n m t
      | none => match s.tileHead d n m with
        | none => s
        | some t =>
          if m.eosIn || m.shut r.quiet || (m.role = 2 && 256 * m.tiles.length ≤ m.buf.length) then s else s.tileEnter d n m t

/-- MTILE_TOKEN (R206). -/
def execMtileToken (die region node : Nat) (s : State) : Host.Outcome State Fault Refusal :=
  regionEvent die region (s.mtileToken die region node)

/-! ## The end of a request (R216) -/

/-- A field of a status word that is shown. -/
def planeBits (p : Option Plane) (v c : Nat) : Nat :=
  match p with
  | some a => 2 ^ v + a.cls % 2 ^ 16 * 2 ^ c
  | none => 0

/-- The status word of a region (R216). -/
def RegionSt.word (r : RegionSt) (code detail : Nat) : Word :=
  if code = 0 || code = 3 || code = 4 || code = 13 || code = 14 then BitVec.ofNat 64 code
  else BitVec.ofNat 64 (r.mhz % 2 ^ 12 * 2 ^ 52 + (if r.unit.isSome then 2 ^ 51 else 0) + planeBits r.active 50 32 +
    planeBits r.shadow 49 16 + (if r.quiet then 2 ^ 48 else 0) + detail % 256 * 256 + code)

/-- A swap of the sequencer that fails ends its sequence (R274): the launch that waits is cancelled. -/
def State.seqFail (s : State) (d : Nat) : State :=
  let q := (s.mgmt d).seq
  let s := s.onMgmt d fun x => { x with seq := { q with go := false, st := 5, wait := none } }
  match q.wait with
  | none => s
  | some k => match s.obj (k / 2 ^ 32) .launch (k % 2 ^ 32) with
    | some o => s.cancelObj o .cancelled Report.none
    | none => s

/-- A request ends: its status stands in the list of the die that issued it (R215, R216); the sequencer's have no tag. -/
def State.rmEnd (s : State) (src tag d n code detail : Nat) : State :=
  let s := s.onRegion d n fun r => { r with job := none }
  if tag = 0 then (if code = 1 then s else s.seqFail src)
  else
    let w := (s.region d n).word code detail
    s.onDie src fun x =>
      { x with rm := { x.rm with status := x.rm.status.map fun q => if q.1 = tag then (q.1, q.2.1, w) else q } }

/-! ## Quiescing and exchanging planes (R218, R207) -/

/-- Ready rises on every input, unless a cut holds it down. -/
def RegionSt.resume (r : RegionSt) : RegionSt := if r.cut then r else { r with quiet := false, idle := false }

/-- A region's clock is set: a change stops it for a time (R204). -/
def RegionSt.setClock (r : RegionSt) (mhz cyc : Nat) : RegionSt :=
  if r.mhz = mhz then r else { r with mhz := mhz, settle := some (cyc + 4000) }

/-- An MTILE node after an exchange: a FIFO with a tile whose role has changed has lost its contents (R207). -/
def MTile.after (m : MTile) (keep : Nat → Bool) : MTile :=
  if m.role = 2 && !m.tiles.all keep then { m with buf := [], sent := [] } else m

/-- PLANE_EXCHANGE: the planes change places, the new operator begins afresh, tiles whose role is the same keep their
contents, and the clock is set (R218, R207). -/
def RegionSt.exchange (r : RegionSt) (mhz cyc : Nat) : RegionSt :=
  let keep (t : Nat) : Bool := roleOf r.active t == roleOf r.shadow t
  let max := match r.shadow with
    | some a => a.clkmax
    | none => r.mhz
  let r' := { r.anew with active := r.shadow, shadow := r.active, mtiles := r.mtiles.map fun (m : MTile) => m.after keep,
                          tiles := Map.dropIf r.tiles fun a => !keep (a / 16384) }
  (r'.setClock (if mhz = 0 then min r.mhz max else mhz) cyc).resume

/-- The classes of a region's planes differ. -/
def RegionSt.newClass (r : RegionSt) : Bool :=
  match r.active, r.shadow with
  | some a, some b => a.cls != b.cls
  | none, none => false
  | _, _ => true

/-- The markers of a region that is being cut leave by its outputs (R258). -/
def State.regionMarkers (s : State) (d n : Nat) : State :=
  (s.region d n).outs.foldl (fun (s : State) o => s.outPut d n o markerToken) s

/-- The TIMEOUT of a SWAP or a QUIESCE has elapsed (R218). -/
def RmJob.expired (j : RmJob) (cyc : Nat) : Bool :=
  (j.op == 2 || j.op == 3) && j.timeout != 0 && decide (j.since + j.timeout ≤ cyc)

/-- A SWAP or a QUIESCE ends with CODE 10: ready rises again, unless the region was quiesced when it began (R218). -/
def State.timeoutJob (s : State) (d n : Nat) (j : RmJob) : State :=
  (if j.was then s else s.onRegion d n RegionSt.resume).rmEnd j.die j.tag d n 10 0

/-- REGION_IDLE: a quiescing region is idle: a SWAP exchanges its planes and resumes, a QUIESCE ends, and a cut places
its markers; a request whose TIMEOUT has elapsed before ends with CODE 10 (R218, R258). -/
def State.regionIdle (s : State) (d n : Nat) : State :=
  let r := s.region d n
  let late := match r.job with
    | some j => if j.expired (s.die d).cyc then some j else none
    | none => none
  if !r.quiet || !r.opIdle || r.stands (s.die d).cyc then s
  else match late with
  | some j => s.timeoutJob d n j
  | none =>
    let s' := if r.idle then s else s.onRegion d n fun x => { x with idle := true }
    let s' := if r.cut && !r.idle then s'.regionMarkers d n else s'
    match r.job with
    | none => s'
    | some j =>
      if j.op = 2 then
        let s' := if r.newClass then s'.dropPlaces fun p => placementUses p d (512 + n) else s'
        (s'.onRegion d n fun x => x.exchange j.mhz (s.die d).cyc).rmEnd j.die j.tag d n 1 0
      else if j.op = 3 then s'.rmEnd j.die j.tag d n 1 0
      else s'

/-- REGION_IDLE (R218). -/
def execRegionIdle (die region : Nat) (s : State) : Host.Outcome State Fault Refusal :=
  regionEvent die region (s.regionIdle die region)

/-- RM_TIMEOUT: TIMEOUT cycles have passed without IDLE (R218). -/
def State.rmTimeout (s : State) (d n : Nat) : State :=
  let r := s.region d n
  match r.job with
  | none => s
  | some j =>
    if j.expired (s.die d).cyc then s.timeoutJob d n j else s

/-- RM_TIMEOUT (R218). -/
def execRmTimeout (die region : Nat) (s : State) : Host.Outcome State Fault Refusal :=
  regionEvent die region (s.rmTimeout die region)

/-- REGION_CLOCK_SETTLE: the stop of a clock change ends (R204). -/
def execRegionClockSettle (die region : Nat) (s : State) : Host.Outcome State Fault Refusal :=
  regionEvent die region (s.onRegion die region fun r => { r with settle := none })

end Sys2Proof.Machine
end

