-- ==== Sys2Proof/Machine/Manager.lean ====
section
/-! DEFINITION. The region manager (10_fabric R210 to R218): requests, and the load of a partial bitstream. -/

namespace Sys2Proof.Machine

/-! ## Requests (R214) -/

/-- A field of a record of 64 bytes. -/
def field512 (r : BitVec 512) (off n : Nat) : Nat := r.toNat / 2 ^ (8 * off) % 2 ^ (8 * n)

/-- The fields of a request are in range, and its reserved bytes are zero (R214). -/
def rmRecordOk (r : BitVec 512) : Bool :=
  let op := field512 r 0 1
  let va := field512 r 8 8
  let mhz := field512 r 16 4
  let timeout := field512 r 20 4
  decide (1 ≤ op ∧ op ≤ 6 ∧ field512 r 1 1 ≤ 3 ∧ field512 r 2 1 ≤ 31) && field512 r 3 5 == 0 && field512 r 24 40 == 0 &&
    (if op = 1 then va % 64 == 0 else va == 0) &&
    (if op = 5 then decide (50 ≤ mhz ∧ mhz ≤ 800) else if op = 2 then mhz == 0 || decide (50 ≤ mhz ∧ mhz ≤ 800) else mhz == 0) &&
    (op == 2 || op == 3 || timeout == 0)

/-- The record of a request, once the stores that come before it are seen and its channel serves it (R215). -/
def State.rmRecord (s : State) (d : Nat) (q : RmReq) : Option (BitVec 512) :=
  match q.record with
  | some r => some r
  | none =>
    if (q.after.all fun n => s.isApplied d n) && Stamp.covers (s.vc d) q.acq && q.cells.all fun c => s.mem.serves c.1 then
      some (BitVec.ofNat 512 (leNat (q.cells.map fun c =>
        s.byteAs (fun a => if q.atHome then (s.mem.atHome a).val else (s.mem.view d a).val) c.2 c.1)))
    else none

/-- A request of a die with its record, when every request before it in the die's queue that names its region has left
the queue (R217). -/
def State.rmNext (s : State) (d tag : Nat) : Option (RmReq × BitVec 512) := do
  let q := (s.die d).rm.queue
  let i ← q.findIdx? fun x => x.tag == tag
  let x ← q[i]?
  let r ← s.rmRecord d x
  let place (r : BitVec 512) : Nat := field512 r 1 2
  if (q.take i).all fun y => match s.rmRecord d y with
    | some z => place z != place r
    | none => false then some (x, r) else none

/-- A request leaves the queue of its die. -/
def State.rmPop (s : State) (d tag : Nat) : State :=
  s.onDie d fun x => { x with rm := { x.rm with queue := x.rm.queue.filter fun q => q.tag ≠ tag } }

/-- Take a request with the OP of an event and act on its region: a bad record has code 3, a region of another world
code 4, one that is retired code 13, and one under service code 2 (R216, R34, R245). The manager of a region performs
its requests one at a time (R217). -/
def State.rmRun (s : State) (d tag : Nat) (mine : Nat → Bool) (f : Nat → Nat → RmReq → BitVec 512 → State → State) : State :=
  match s.rmNext d tag with
  | none => s
  | some (q, r) =>
    let op := field512 r 0 1
    let e := field512 r 1 1
    let n := field512 r 2 1
    if !mine op then s
    else if !rmRecordOk r then
      let w : Word := 3
      (s.rmPop d tag).onDie d fun x =>
        { x with rm := { x.rm with status := x.rm.status.map fun p => if p.1 = tag then (p.1, p.2.1, w) else p } }
    else
      let p := s.part e (128 + n)
      let fail (code : Nat) : State := (s.rmPop d tag).rmEnd d tag e n code 0
      if (s.region e n).job.isSome then s
      else if !p.v || p.world ≠ q.world then fail 4
      else if (s.die e).retired.contains (128 + n) then fail 13
      else if p.busy || (op = 1 && (s.die e).sched.rom) then fail 2
      else f e n q r (s.rmPop d tag)

/-- A job of the manager for a request. -/
def newJob (d : Nat) (q : RmReq) (r : BitVec 512) (cyc : Nat) (was : Bool) : RmJob :=
  { die := d, tag := q.tag, world := q.world, op := field512 r 0 1, va := BitVec.ofNat 64 (field512 r 8 8),
    mhz := field512 r 16 4, timeout := field512 r 20 4, since := cyc, was := was, plane := none, hdr := [], hashes := [],
    chunk := 0, last := 0 }

/-- A step of the region manager of a compute die. -/
def rmEvent (d : Nat) (t : State) : Host.Outcome State Fault Refusal := if d < 4 then .next t else .fault .noSuchPart

/-- RM_STATUS: STATUS ends at once; so does a request whose OP names nothing (R218, R216). -/
def execRmStatus (die tag : Nat) (s : State) : Host.Outcome State Fault Refusal :=
  rmEvent die (s.rmRun die tag (fun op => op == 0 || decide (6 ≤ op)) fun e n q _ t => t.rmEnd die q.tag e n 1 0)

/-- RM_RESUME (R218). -/
def execRmResume (die tag : Nat) (s : State) : Host.Outcome State Fault Refusal :=
  rmEvent die (s.rmRun die tag (fun op => op == 4) fun e n q _ t =>
    (t.onRegion e n RegionSt.resume).rmEnd die q.tag e n 1 0)

/-- RM_CLOCK: above the active operator's CLKMAX nothing changes (R218, R204). -/
def execRmClock (die tag : Nat) (s : State) : Host.Outcome State Fault Refusal :=
  rmEvent die (s.rmRun die tag (fun op => op == 5) fun e n q r t =>
    let mhz := field512 r 16 4
    let above := match (t.region e n).active with
      | some a => decide (a.clkmax < mhz)
      | none => false
    if above then t.rmEnd die q.tag e n 12 0
    else (t.onRegion e n fun x => x.setClock mhz (t.die e).cyc).rmEnd die q.tag e n 1 0)

/-- A region begins to quiesce for a job (R218). -/
def State.beginQuiesce (s : State) (e n : Nat) (j : RmJob) : State :=
  s.onRegion e n fun x => { x with quiet := true, idle := x.idle && x.quiet, job := some j }

/-- RM_QUIESCE (R218). -/
def execRmQuiesce (die tag : Nat) (s : State) : Host.Outcome State Fault Refusal :=
  rmEvent die (s.rmRun die tag (fun op => op == 3) fun e n q r t =>
    t.beginQuiesce e n (newJob die q r (t.die e).cyc (t.region e n).quiet))

/-- Begin a SWAP: an empty shadow plane, or a clock above its CLKMAX, ends it before anything changes (R218). -/
def State.beginSwap (s : State) (e n : Nat) (j : RmJob) : State :=
  match (s.region e n).shadow with
  | none => s.rmEnd j.die j.tag e n 9 0
  | some a => if j.mhz ≠ 0 && a.clkmax < j.mhz then s.rmEnd j.die j.tag e n 12 0 else s.beginQuiesce e n j

/-- RM_SWAP (R218). -/
def execRmSwap (die tag : Nat) (s : State) : Host.Outcome State Fault Refusal :=
  rmEvent die (s.rmRun die tag (fun op => op == 2) fun e n q r t =>
    t.beginSwap e n (newJob die q r (t.die e).cyc (t.region e n).quiet))

/-! ## LOAD (R210 to R213) -/

/-- The geometry of a region (R203). -/
def regionGeom (n : Nat) : Nat := if n = 0 || n = 15 || n = 16 || n = 31 then 2 else 1

/-- The header's fields are in range and its reserved bytes are zero (R211). -/
def headerOk (h : List Byte) : Bool :=
  let f (off n : Nat) : Nat := leAt h off n
  f 0 4 == 0x42505A58 && f 4 2 == 1 && decide (f 10 1 < 4) && decide (1 ≤ f 11 1) && decide (1 ≤ f 12 4 ∧ f 12 4 ≤ 65536) &&
    decide (50 ≤ f 16 2 ∧ f 16 2 ≤ 800) && decide (f 18 1 ≤ 7) && f 19 1 == 0 && decide (f 20 2 < 16) && f 22 2 == 0 && f 36 28 == 0

/-- The plane that a header describes; its operator is named by the digest of the header and the hash list. -/
def headerPlane (h : List Byte) (digest : BitVec 256) : Plane :=
  { cls := leAt h 6 2, idem := leAt h 10 1 % 2 = 1, timed := leAt h 10 1 / 2 % 2 = 1, clkmax := leAt h 16 2, ports := leAt h 20 2,
    trole := BitVec.ofNat 96 (leAt h 24 12), digest := digest }

/-- The hash list of an image. -/
def hashList (bs : List Byte) (n : Nat) : List (BitVec 256) :=
  (List.range n).map fun i => BitVec.ofNat 256 (leAt bs (32 * i) 32)

/-- The signature of an image is good under a key of its world (R210, R211). -/
def imageSigned (world keyid : Nat) (digest : BitVec 256) (sig : List Byte) : Bool :=
  let key := Config.operatorKey world keyid
  pssVerify key.1 key.2 (natBytes digest.toNat 32) (sig.map BitVec.toNat)

/-- A LOAD fails: the shadow plane is cleared and empty (R212). -/
def State.loadFails (s : State) (die tag e n code detail : Nat) : State :=
  (s.onRegion e n fun x => { x with shadow := none }).rmEnd die tag e n code detail

/-- RM_LOAD: the header, the hash list and the signature are checked, and chunks begin to stream into the shadow plane
(R212). -/
def State.beginLoad (s : State) (die e n : Nat) (q : RmReq) (r : BitVec 512) : State :=
  let va := BitVec.ofNat 64 (field512 r 8 8)
  let fail (code : Nat) : State := s.loadFails die q.tag e n code 0
  match s.hwRead e q.world va 64 with
  | none => fail 11
  | some h =>
    let k := leAt h 11 1
    match s.hwRead e q.world va (64 + 32 * k + 384) with
    | none => fail 11
    | some all =>
      let signed := all.take (64 + 32 * k)
      let digest := shaOf signed
      if !headerOk h then fail 5
      else if leAt h 8 2 ≠ regionGeom n then fail 8
      else if !imageSigned q.world (leAt h 18 1) digest (all.drop (64 + 32 * k)) then fail 6
      else
        let j := { newJob die q r (s.die e).cyc (s.region e n).quiet with
          plane := some (headerPlane h digest), hdr := h, hashes := hashList (all.drop 64) k, last := leAt h 12 4 }
        s.onRegion e n fun x => { x with shadow := none, job := some j }

/-- RM_LOAD (R212). -/
def execRmLoad (die tag : Nat) (s : State) : Host.Outcome State Fault Refusal :=
  rmEvent die (s.rmRun die tag (fun op => op == 1) fun e n q r t => t.beginLoad die e n q r)

/-- RM_LOAD_CHUNK: the next chunk is read, hashed and written to the shadow plane; after the last the plane is valid
(R212, R213), and MEAS9 takes in the header (R287). -/
def State.loadChunk (s : State) (e n : Nat) : State :=
  match (s.region e n).job with
  | none => s
  | some j =>
    if j.op ≠ 1 then s
    else
      let k := j.hashes.length
      let len := if j.chunk + 1 = k then j.last else 65536
      let va := j.va + BitVec.ofNat 64 (64 + 32 * k + 384 + 65536 * j.chunk)
      match s.hwRead e j.world va len with
      | none => s.loadFails j.die j.tag e n 11 j.chunk
      | some bs =>
        if j.hashes[j.chunk]? ≠ some (shaOf bs) then s.loadFails j.die j.tag e n 7 j.chunk
        else if j.chunk + 1 < k then s.onRegion e n fun x => { x with job := some { j with chunk := j.chunk + 1 } }
        else
          ((s.onRegion e n fun x => { x with shadow := j.plane }).extendMeas 9 j.hdr).rmEnd j.die j.tag e n 1 0

/-- RM_LOAD_CHUNK (R212). -/
def execRmLoadChunk (die region : Nat) (s : State) : Host.Outcome State Fault Refusal :=
  regionEvent die region (s.loadChunk die region)

end Sys2Proof.Machine
end

