-- ==== Sys2Proof/Machine/Sequencer.lean ====
section
/-! DEFINITION. The configuration sequencer of a die (14_generation R273 to R275), and the invalidation of translations
(06_memory R145). -/

namespace Sys2Proof.Machine

/-! ## The sequencer -/

/-- Change a sequencer. -/
def State.onSeq (s : State) (d : Nat) (f : SeqSt → SeqSt) : State := s.onMgmt d fun x => { x with seq := f x.seq }

/-- A launch by its key. -/
def State.keyLaunch (s : State) (k : Nat) : Option WorkObj := s.obj (k / 2 ^ 32) .launch (k % 2 ^ 32)

/-- The job of a graph. -/
def State.graphJob (s : State) (g : WorkObj) : Option Nat := (s.obj g.world .phase g.parent).map fun p => p.parent

/-- A configuration names a graph that lives, in the job of configuration 0 (R273). -/
def State.seqGraph (s : State) (d i : Nat) : Option WorkObj :=
  let q := (s.mgmt d).seq
  let graph (n : Nat) : Option WorkObj := s.liveObj q.world .graph (Map.get q.cfg 0 n)
  let job (n : Nat) : Option Nat := (s.obj q.world .graph (Map.get q.cfg 0 n)).bind s.graphJob
  (graph i).filter fun g => s.graphJob g == job 0

/-- A configuration names no graph of the job: the sequence is refused (DESIGN CHOICE, log entry 128). -/
def State.seqRefuse (s : State) (d : Nat) : State :=
  s.onSeq d fun x => { x with go := false, st := 3, run := none, wait := none }

/-- The launch of a configuration, placed through the cache and bound into free slots, waits for its start token
(R274). -/
def State.seqLaunch (s : State) (d i id : Nat) : State :=
  let q := (s.mgmt d).seq
  match s.seqGraph d i with
  | none => s.seqRefuse d
  | some g =>
    let o : WorkObj :=
      { level := .launch, id := id, world := q.world, home := d, counter := 0, status := .running, parent := g.id,
        queue := g.queue, tag := g.tag, prio := g.prio, closed := false, opened := false, va := g.va, pred := 0,
        wdog := 2 ^ 31, started := none, units := [], edges := [], placing := none, deadSinks := [], cutting := false,
        report := Report.none, posted := false }
    let s := if g.opened then s
      else s.onObj q.world .phase g.parent fun x => { x with counter := x.counter + 1, opened := true }
    let s := s.onObj q.world .graph g.id fun x => { x with counter := x.counter + 1, opened := true }
    let s := (s.addObj o).placeLaunch true q.world id g.va none
    ((s.onSeq d fun x => { x with wait := some (launchKey q.world id) }).settle).seqAbort

/-- A configuration follows the one that runs: the sequence does not end with it. -/
def SeqSt.goesOn (q : SeqSt) (i : Nat) : Bool :=
  i != q.ncfg || !(q.stop || (q.iters != 0 && q.iters ≤ q.iter + 1))

/-- The configuration after one. -/
def SeqSt.after (q : SeqSt) (i : Nat) : Nat := if i < q.ncfg then i + 1 else 0

/-- Launch the configuration that follows the one that now runs. -/
def State.seqAhead (s : State) (d id : Nat) : State :=
  let q := (s.mgmt d).seq
  if q.go && q.run.isSome && q.goesOn q.cur then s.seqLaunch d (q.after q.cur) id else s

/-- SEQ_GO: SEQCTL is written with GO; it is ignored while GO reads 1 (R273). The graphs are of the world named, and the
first configuration is launched with an id that is free. -/
def State.seqGo (s : State) (d : Nat) (v : Word) (world id : Nat) : State :=
  if (s.mgmt d).seq.go || !v.getLsbD 0 || !s.idFree world id then s
  else
    let s := s.onSeq d fun x =>
      { x with iters := (v.extractLsb' 32 32).toNat, ncfg := (v.extractLsb' 2 2).toNat, stop := v.getLsbD 1, go := true,
               iter := 0, cur := 0, st := 1, run := none, wait := none, world := world }
    s.seqLaunch d 0 id

/-- SEQ_GO (R273). -/
def execSeqGo (die : Nat) (v : Word) (world id : Nat) (s : State) : Host.Outcome State Fault Refusal :=
  dieEvent die (s.seqGo die v world id)

/-- SEQ_STOP: the sequence ends after the current iteration (R273). -/
def execSeqStop (die : Nat) (s : State) : Host.Outcome State Fault Refusal :=
  dieEvent die (s.onSeq die fun x => { x with stop := true })

/-- SEQ_BUDGET_CHECK: before configuration 0, once SEQTOK.V is set; beyond the budget its launch is refused and the
sequence ends in STATE 3 (R275). -/
def State.budgetCheck (s : State) (d id : Nat) : State :=
  let q := (s.mgmt d).seq
  match q.wait with
  | none => s
  | some k =>
    if !q.go || q.run.isSome || q.cur ≠ 0 || !q.v || !s.idFree q.world id then s
    else
      let s := s.onSeq d fun x => { x with v := false }
      if q.cap ≠ 0 && q.cap < q.ptok + q.dtok then
        let s := s.onSeq d fun x => { x with go := false, st := 3, wait := none }
        match s.keyLaunch k with
        | some o => (s.refuseLaunch o).settle
        | none => s
      else (s.onSeq d fun x => { x with run := some k, wait := none }).seqAhead d id

/-- SEQ_BUDGET_CHECK (R275). -/
def execSeqBudgetCheck (die id : Nat) (s : State) : Host.Outcome State Fault Refusal :=
  dieEvent die (s.budgetCheck die id)

/-- The swaps of the regions whose class differs in the configuration that comes next (R274). -/
def State.seqSwaps (s : State) (d : Nat) (o : WorkObj) : State :=
  o.units.foldl (fun (s : State) u =>
    if u.kind ≠ .region then s
    else
      let r := s.region u.die (u.slot - 512)
      let same := match r.active with
        | some a => a.cls == u.param
        | none => false
      let ready := match r.shadow with
        | some a => a.cls == u.param
        | none => false
      if same then s
      else if !ready || r.job.isSome then s.seqFail d
      else
        let j : RmJob :=
          { die := d, tag := 0, world := o.world, op := 2, va := 0, mhz := 0, timeout := 0, since := (s.die u.die).cyc,
            was := r.quiet, plane := none, hdr := [], hashes := [], chunk := 0, last := 0 }
        s.beginSwap u.die (u.slot - 512) j) s

/-- The sequence has run its iterations: a launch that still waits is cancelled. -/
def State.seqDone (s : State) (d : Nat) : State :=
  let q := (s.mgmt d).seq
  let s := s.onSeq d fun x => { x with go := false, st := 2, iter := x.iter + 1, run := none, wait := none }
  match q.wait with
  | none => s
  | some k => match s.keyLaunch k with
    | some o => s.cancelObj o .cancelled Report.none
    | none => s

/-- SEQ_DRAIN: the launch of the configuration that runs is complete with status DONE: regions swap, and the next
configuration may start (R274). -/
def State.seqDrain (s : State) (d id : Nat) : State :=
  let q := (s.mgmt d).seq
  let drained := match q.run with
    | none => false
    | some k => match s.keyLaunch k with
      | some o => o.status == .done
      | none => false
  if !q.go || !drained || !s.idFree q.world id then s
  else if !q.goesOn q.cur then s.seqDone d
  else
    let nxt := q.after q.cur
    let s := s.onSeq d fun x => { x with cur := nxt, run := none, iter := if nxt = 0 then x.iter + 1 else x.iter }
    match q.wait.bind fun k => s.keyLaunch k with
    | none => s.onSeq d fun x => { x with go := false, st := 4 }
    | some o =>
      let s := s.seqSwaps d o
      if nxt = 0 || !(s.mgmt d).seq.go then s
      else (s.onSeq d fun x => { x with run := q.wait, wait := none }).seqAhead d id

/-- SEQ_DRAIN (R274). -/
def execSeqDrain (die id : Nat) (s : State) : Host.Outcome State Fault Refusal := dieEvent die (s.seqDrain die id)

/-! ## Invalidating translations (R145) -/

/-- The bytes of a page by its size code. -/
def tlbBytes : Nat → Nat
  | 0 => 4096
  | 1 => 65536
  | 2 => 2 ^ 21
  | _ => 2 ^ 30

/-- TLBINV_WRITE: BUSY is set; a write while it is set is ignored (R145). -/
def State.tlbWrite (s : State) (d : Nat) (v : Word) : State :=
  if (s.mgmt d).tlbBusy then s
  else s.onMgmt d fun x => { x with tlbinv := v &&& 0xFDFFFFFFFFFFF000, tlbBusy := true }

/-- TLBINV_WRITE (R145). -/
def execTlbinvWrite (die : Nat) (v : Word) (s : State) : Host.Outcome State Fault Refusal :=
  dieEvent die (s.tlbWrite die v)

/-- TLBINV names an entry: one of WORLD that shares an address with the page of SIZE at VA, 57 bits of each compared. -/
def tlbNames (v : Word) (e : TlbEntry) : Bool :=
  let m := max (tlbBytes (v.extractLsb' 58 2).toNat) (tlbBytes e.size)
  e.world == (v.extractLsb' 60 3).toNat &&
    (v.getLsbD 63 || (v.extractLsb' 12 45).toNat * 4096 / m == e.va % 2 ^ 57 / m)

/-- A TLB without the entries that TLBINV names. -/
def tlbDrop (v : Word) (l : List TlbEntry) : List TlbEntry := l.filter fun e => !tlbNames v e

/-- The entries of the TLBs of a die that TLBINV names. -/
def State.tlbNamed (s : State) (d : Nat) (v : Word) : List TlbEntry :=
  s.cores.flatMap fun (p : CoreId × CoreSt) => if p.1.die = d then (p.2.tlb ++ p.2.stlb).filter (tlbNames v) else []

/-- An address lies in what TLBINV names, or in the page of an entry that it names. -/
def tlbReaches (v : Word) (es : List TlbEntry) (va : Nat) : Bool :=
  let n := tlbBytes (v.extractLsb' 58 2).toNat
  v.getLsbD 63 || (v.extractLsb' 12 45).toNat * 4096 / n == va % 2 ^ 57 / n ||
    es.any fun e => e.va % 2 ^ 57 / tlbBytes e.size == va % 2 ^ 57 / tlbBytes e.size

/-- An access of a die that may have been translated with an entry that TLBINV names has not reached its home: a write, or a
load of a context (R145). -/
def State.tlbInFlight (s : State) (d : Nat) (v : Word) : Bool :=
  let es := s.tlbNamed d v
  (s.mem.writes.any fun w => w.die == d && !w.allDone && tlbReaches v es w.va.toNat) ||
    s.ctxs.any fun (p : CtxId × CtxSt) => p.1.die == d && p.2.wait.load.any fun r =>
      tlbReaches v es r.va.toNat || tlbReaches v es (r.va.toNat + r.kind.bytes - 1)

/-- TLBINV_DONE: the accesses translated with the entries named have reached their homes, and every TLB of the die drops the
entries: BUSY clears (R145). -/
def State.tlbDone (s : State) (d : Nat) : State :=
  let m := s.mgmt d
  if !m.tlbBusy || s.tlbInFlight d m.tlbinv then s
  else
    let s := { s with cores := s.cores.map fun (p : CoreId × CoreSt) =>
      if p.1.die = d then (p.1, { p.2 with tlb := tlbDrop m.tlbinv p.2.tlb, stlb := tlbDrop m.tlbinv p.2.stlb }) else p }
    s.onMgmt d fun x => { x with tlbBusy := false }

/-- TLBINV_DONE (R145). -/
def execTlbinvDone (die : Nat) (s : State) : Host.Outcome State Fault Refusal := dieEvent die (s.tlbDone die)

end Sys2Proof.Machine
end

