-- ==== Sys2Proof/Machine/Worlds.lean ====
section
/-! DEFINITION. Changes of world (15_security R276 to R278): the world map, and what a part loses before its new world
takes effect. -/

namespace Sys2Proof.Machine

/-- The slots of a part: four contexts of a core, or the one of a region or a Sieve (R237, R277). -/
def partSlots (part : Nat) : List Nat :=
  if part < 128 then (List.range 4).map fun i => 4 * part + i
  else if part < 160 then [512 + (part - 128)]
  else [544 + (part - 160)]

/-- A unit is bound to a part, or a bind FIFO of the part holds a record (R277). -/
def State.partUsed (s : State) (d part : Nat) : Bool :=
  (partSlots part).any fun n =>
    let q := s.slot d n
    q.bound.isSome || !q.fifo.isEmpty

/-- Change an entry of the world map. -/
def State.onPart (s : State) (d part : Nat) (f : WorldEnt → WorldEnt) : State :=
  s.onDie d fun x => { x with wmap := Map.upd x.wmap WorldEnt.reset part f }

/-- The memory key of a world is ACTIVE (R280). -/
def State.worldKeyed (s : State) (w : Nat) : Bool := (s.keys.slot w).phase == .active

/-- WORLD_MAP_WRITE: a write that changes V or WORLD sets BUSY, unless the part is busy or in use, or the memory key of
the new world is not ACTIVE (R277, R280). -/
def State.worldWrite (s : State) (d part : Nat) (v : BitVec 8) : State :=
  let e := s.part d part
  let nv := v.getLsbD 3
  let nw := (v.extractLsb' 0 3).toNat
  if nv = e.v && nw = e.world then s
  else if e.busy || s.partUsed d part || (nv && !s.worldKeyed nw) then s
  else s.onPart d part fun e => { e with busy := true, nv := nv, nworld := nw }

/-- WORLD_MAP_WRITE (R277). -/
def execWorldMapWrite (die part : Nat) (v : BitVec 8) (s : State) : Host.Outcome State Fault Refusal :=
  if die < 4 && part < 164 then .next (s.worldWrite die part v) else .fault .noSuchPart

/-- The capsules in the receive buffers of a core are discarded. -/
def State.dropRx (s : State) (k : CoreId) : State :=
  (s.core k).rxbuf.foldl (fun (s : State) c => s.leaveLaunch (hdrByte c.hdr 7) c.launch) s

/-- What a core and its contexts lose at a change of world (R278); its remapping goes on (R30). -/
def State.zeroCore (s : State) (k : CoreId) : State :=
  let s := (s.dropRx k).onCore k fun x => { CoreSt.reset with remap := x.remap, holder := x.holder, last := x.last }
  (List.range 4).foldl (fun (s : State) n =>
    s.onCtx (k.ctx n) fun x =>
      { x with regs := { x.regs with me := [], ce := [] }, ctl := { x.ctl with ftbind := 0 }, chain := none, held := none,
               cap := none }) s

/-- What a region loses at a change of world (R278): its planes, tiles, shell and clock. -/
def State.zeroRegion (s : State) (d n : Nat) : State :=
  (s.onRegion d n fun r => { RegionSt.reset with job := r.job }).onDie d fun x =>
    let keep (p : Nat) : Bool := p / 2 != n || decide (64 ≤ p)
    { x with cin := x.cin.filter fun (p : Nat × InPort) => keep p.1,
             cout := x.cout.filter fun (p : Nat × OutPort) => keep p.1 }

/-- What a Sieve loses at a change of world (R278). -/
def State.zeroSieve (s : State) (d n : Nat) : State :=
  (s.onSieve d n fun _ => SieveSt.reset).onDie d fun x =>
    let keep (p : Nat) : Bool := decide (p < 64) || (p - 64) / 4 != n
    { x with cin := x.cin.filter fun (p : Nat × InPort) => keep p.1,
             cout := x.cout.filter fun (p : Nat × OutPort) => keep p.1 }

/-- What a part loses at a change of world (R278). -/
def State.zeroPart (s : State) (d part : Nat) : State :=
  if part < 128 then s.zeroCore { die := d, core := part }
  else if part < 160 then s.zeroRegion d (part - 128)
  else s.zeroSieve d (part - 160)

/-- WORLD_ZERO_DONE: the part is zeroed, BUSY clears, and the new world takes effect (R277, R278). -/
def State.worldDone (s : State) (d part : Nat) : State :=
  if (s.part d part).busy then
    (s.zeroPart d part).onPart d part fun e =>
      { v := e.nv, world := e.nworld, busy := false, nv := false, nworld := 0 }
  else s

/-- WORLD_ZERO_DONE (R278). -/
def execWorldZeroDone (die part : Nat) (s : State) : Host.Outcome State Fault Refusal :=
  if die < 4 && part < 164 then .next (s.worldDone die part) else .fault .noSuchPart

end Sys2Proof.Machine
end

