-- ==== Sys2Proof/Machine/Security.lean ====
section
/-! DEFINITION. The key service of the security core (15_security R281 to R285, R290, R291): its mailbox, the key slots,
sealing, revocation, and the collective groups. -/

namespace Sys2Proof.Machine

/-! ## The mailbox (R282) -/

/-- The offset of the mailbox in BAR0 (R24). -/
def mailAt : Nat := 0x200000

/-- Bytes of the request in the mailbox. -/
def State.mailBytes (s : State) (off n : Nat) : List Byte := getBytes s.dev.bar0 (mailAt + off) n

/-- A field of the request, lowest byte first. -/
def State.mailNat (s : State) (off n : Nat) : Nat := leNat (s.mailBytes off n)

/-- CLASS, LEN and bytes 1 to 3 of the header. -/
def State.mailClass (s : State) : Nat := s.mailNat 0 1
/-- LEN. -/
def State.mailLen (s : State) : Nat := s.mailNat 4 4
/-- The reserved bytes of the header are zero. -/
def State.mailHdrOk (s : State) : Bool := s.mailNat 1 3 == 0

/-- A field of the body. -/
def State.bodyNat (s : State) (off n : Nat) : Nat := s.mailNat (8 + off) n

/-- Change the security core. -/
def State.onSec (s : State) (f : SecSt → SecSt) : State := { s with sec := f s.sec }

/-- The response stands at +0x8000, and MBST shows it (R282). -/
def State.mailReply (s : State) (cls : Nat) (body : List Byte) : State :=
  let bs := leBytes cls 1 ++ [0, 0, 0] ++ leBytes body.length 4 ++ body
  let s := { s with dev := { s.dev with bar0 := putBytes s.dev.bar0 (mailAt + 0x8000) bs } }
  s.onSec fun x => { x with busy := false, ready := true }

/-- A response of the key service: its status and what follows (R282). -/
def State.keyReply (s : State) (status : Nat) (rest : List Byte) : State := s.mailReply 2 (leBytes status 1 ++ rest)

/-- A request of the key service with an OP is being processed. -/
def State.keyAsked (s : State) (op : Nat) : Bool := s.sec.busy && s.mailClass == 2 && s.bodyNat 0 1 == op

/-- Change a key slot. -/
def State.onKey (s : State) (n : Nat) (f : KeySlot → KeySlot) : State :=
  { s with keys := { s.keys with slots := Map.upd s.keys.slots KeySlot.reset n f } }

/-! ## KEYLOAD (R281, R282) -/

/-- RSA-OAEP with SHA-256 and an empty label, over a modulus of 3,072 bits: the message that a ciphertext wraps. -/
def oaepOpen (modulus priv : Nat) (ct : List Nat) : Option (List Nat) :=
  if ct.length ≠ 384 || modulus ≤ beNat ct then none
  else
    let em := beBytes (powMod modulus (beNat ct) 1 priv 3072) 384
    let seed := xorBytes ((em.drop 1).take 32) (mgf1 (em.drop 33) 32)
    let db := xorBytes (em.drop 33) (mgf1 seed 351)
    let rest := (db.drop 32).dropWhile fun b => b == 0
    if em.headD 1 = 0 && db.take 32 == sha256 [] && rest.headD 0 == 1 then some (rest.drop 1) else none

/-- The bytes of a key by its kind (R280, R283). -/
def KeyKind.bytes : KeyKind → Nat
  | .xts => 64
  | .gcm => 32

/-- The fields of a KEYLOAD. -/
structure KeyLoad where
  slot  : Nat
  kind  : Nat
  world : Nat
  rsv   : Nat
  nonce : Nat
  base  : Nat
  count : Nat
  tagpa : Nat
  deriving DecidableEq, Repr

/-- The fields of the KEYLOAD in the mailbox: OP in byte 0 of the body (R282). -/
def State.keyLoad (s : State) : KeyLoad :=
  { slot := s.bodyNat 1 1, kind := s.bodyNat 2 1, world := s.bodyNat 3 1, rsv := s.bodyNat 4 1 + s.bodyNat 21 4,
    nonce := s.bodyNat 5 4, base := s.bodyNat 9 8, count := s.bodyNat 17 4, tagpa := s.bodyNat 25 8 }

/-- A run of physical addresses lies in the HBM of the package. -/
def State.inHbm (s : State) (pa n : Nat) : Bool := pa / 2 ^ 44 == s.pkg && decide (pa % 2 ^ 44 + n ≤ 2 ^ 39)

/-- The fields of a KEYLOAD are in range; those of a GCM slot are zero for an XTS slot, and a memory key is of its own
world (R280, R282). -/
def State.loadFields (s : State) (q : KeyLoad) : Bool :=
  s.mailHdrOk && s.mailLen == 417 && decide (q.slot < 64 ∧ q.kind < 2 ∧ q.world < 8) && q.rsv == 0 &&
    (decide (8 ≤ q.slot) || q.slot == q.world) &&
    (if q.kind = 0 then q.nonce == 0 && q.base == 0 && q.count == 0 && q.tagpa == 0
     else q.base % 4096 == 0 && s.inHbm q.base (4096 * q.count) && s.inHbm q.tagpa (16 * q.count))

/-- The status of a KEYLOAD, before the key is unwrapped (R282). -/
def State.loadStatus (s : State) (q : KeyLoad) : Nat :=
  if !s.loadFields q then 1
  else if q.kind = 1 && q.slot < 8 then 5
  else if (s.keys.slot q.slot).phase = .active || (s.keys.slot q.slot).phase = .revoking then 2
  else 0

/-- The key goes into its slot, which becomes ACTIVE (R282). -/
def State.takeKeyload (s : State) (q : KeyLoad) (k : KeyKind) (key : List Nat) : State :=
  let n := s.keys.ring.length
  let r : RingKey := { slot := q.slot, key := BitVec.ofNat 512 (bytesNat key) }
  let s := { s with keys := { s.keys with ring := s.keys.ring ++ [r] } }
  s.onKey q.slot fun old =>
    { kind := k, phase := .active, world := q.world, nonce := q.nonce, base := q.base, count := q.count, tagpa := q.tagpa,
      ring := n, flush := false, mark := old.mark }

/-- KEYLOAD: the key is unwrapped into an EMPTY or REVOKED slot (R281, R282). -/
def State.keyload (s : State) : State :=
  if !s.keyAsked 1 then s
  else
    let q := s.keyLoad
    let st := s.loadStatus q
    if st ≠ 0 then s.keyReply st []
    else
      let k : KeyKind := if q.kind = 0 then .xts else .gcm
      let ct := (s.mailBytes (8 + 33) 384).map BitVec.toNat
      match oaepOpen Config.packageKey.1 Config.packageKey.2 ct with
      | some key => if key.length = k.bytes then (s.takeKeyload q k key).keyReply 0 [] else s.keyReply 3 []
      | none => s.keyReply 3 []

/-- KEYLOAD (R282). -/
def execKeyload (s : State) : Host.Outcome State Fault Refusal := .next s.keyload

/-! ## SEAL and KEYSTAT (R282, R283) -/

/-- The frames of the tag table of a slot. -/
def State.tagFrames (s : State) (k : KeySlot) : List Nat :=
  let a := s.cell k.tagpa
  if k.count = 0 then []
  else (List.range ((a + 16 * k.count - 1) / 4096 - a / 4096 + 1)).map fun i => a / 4096 + i

/-- The stored bytes of a frame are its content from now on: no block of it is held under a key (R283). -/
def State.rawFrame (s : State) (f : Nat) : State :=
  let bs := s.storedBytes (f * 4096) 4096
  s.onMem fun m =>
    { m with
      bytes := putBytes m.bytes (f * 4096) bs,
      keys := m.keys.filter fun (p : Nat × Nat) => p.1 / 256 ≠ f,
      dirty := m.dirty.filter fun (p : Nat × (BitVec 128 × Option Nat)) => p.1 / 256 ≠ f,
      copies := m.copies.filter fun (p : Nat × Copy) => p.1 % 2 ^ 39 / 4096 ≠ f }

/-- A frame is sealed under a slot. -/
def State.sealFrame (s : State) (slot f : Nat) : State :=
  (s.rawFrame f).onMem fun m => { m with sealed := Map.put m.sealed f slot }

/-- The status of a SEAL (R282). -/
def State.sealStatus (s : State) (slot pa count : Nat) : Nat :=
  let k := s.keys.slot slot
  if !s.mailHdrOk || s.mailLen ≠ 17 || 63 < slot || s.bodyNat 2 3 ≠ 0 || pa % 4096 ≠ 0 then 1
  else if k.phase = .revoking then 2
  else if k.kind = .xts then 5
  else if k.phase ≠ .active then 1
  else if pa < k.base || k.base + 4096 * k.count < pa + 4096 * count then 4
  else 0

/-- SEAL: the seal bits of the frames named and of the tag table are set (R283). -/
def State.sealBlob (s : State) : State :=
  if !s.keyAsked 3 then s
  else
    let slot := s.bodyNat 1 1
    let pa := s.bodyNat 5 8
    let count := s.bodyNat 13 4
    let st := s.sealStatus slot pa count
    if st ≠ 0 then s.keyReply st []
    else
      let frames := (List.range count).map fun i => s.cell pa / 4096 + i
      let s := (frames ++ s.tagFrames (s.keys.slot slot)).foldl (fun (s : State) f => s.sealFrame slot f) s
      s.keyReply 0 []

/-- SEAL (R283). -/
def execSealBlob (s : State) : Host.Outcome State Fault Refusal := .next s.sealBlob

/-- The number of a slot's state. -/
def KeyPhase.code : KeyPhase → Nat
  | .empty => 0
  | .active => 1
  | .revoking => 2
  | .revoked => 3

/-- The number of a slot's kind (R282). -/
def KeyKind.code : KeyKind → Nat
  | .xts => 0
  | .gcm => 1

/-- What KEYSTAT answers of a slot (R282). -/
def KeySlot.report (k : KeySlot) : List Byte :=
  leBytes k.phase.code 1 ++ leBytes k.kind.code 1 ++ leBytes k.world 1 ++ leBytes k.nonce 4 ++ leBytes k.base 8 ++
    leBytes k.count 4 ++ leBytes k.tagpa 8

/-- KEYSTAT (R282). -/
def State.keystat (s : State) : State :=
  if !s.keyAsked 4 then s
  else
    let slot := s.bodyNat 1 1
    let k := s.keys.slot slot
    if !s.mailHdrOk || s.mailLen ≠ 2 || 63 < slot then s.keyReply 1 []
    else if k.phase = .revoking then s.keyReply 2 []
    else s.keyReply 0 k.report

/-- KEYSTAT (R282). -/
def execKeystat (s : State) : Host.Outcome State Fault Refusal := .next s.keystat

/-! ## REVOKE (R285) -/

/-- REVOKE: the slot becomes REVOKING, and every new access under it is refused (R285 step 1). -/
def State.revoke (s : State) : State :=
  if !s.keyAsked 2 then s
  else
    let slot := s.bodyNat 1 1
    let mode := s.bodyNat 2 1
    if !s.mailHdrOk || s.mailLen ≠ 3 || 63 < slot || 1 < mode then s.keyReply 1 []
    else if (s.keys.slot slot).phase = .revoking then s.keyReply 2 []
    else (s.onKey slot fun k => { k with phase := .revoking, flush := mode == 0, mark := s.fresh }).bump

/-- REVOKE (R285). -/
def execRevoke (s : State) : Host.Outcome State Fault Refusal := .next s.revoke

/-- The block is held under a key of a slot. -/
def State.blockUnder (s : State) (slot : Nat) (tag : Option Nat) : Bool :=
  match tag with
  | none => false
  | some r => match s.keys.ring[r]? with
    | some k => k.slot == slot
    | none => false

/-- A dirty block is dropped: its bytes in HBM, which are what it held before, are seen again (R285 step 2). -/
def State.dropBlock (s : State) (b : Nat) (old : BitVec 128) (tag : Option Nat) : State :=
  s.onMem fun m =>
    { m with
      bytes := putBytes m.bytes (b * 16) (leBytes old.toNat 16),
      keys := match tag with
        | some k => Map.put m.keys b k
        | none => Map.drop m.keys b,
      copies := m.copies.filter fun (p : Nat × Copy) => p.1 % 2 ^ 39 / 16 ≠ b }

/-- The sweep of L2 (R285 step 2): a dirty block under the slot is written back, or dropped. -/
def State.sweepL2 (s : State) (slot : Nat) (flush : Bool) : State :=
  let mine := s.mem.dirty.filter fun (p : Nat × (BitVec 128 × Option Nat)) => s.blockUnder slot (Map.find s.mem.keys p.1)
  let s := if flush then s
    else mine.foldl (fun (s : State) (p : Nat × (BitVec 128 × Option Nat)) => s.dropBlock p.1 p.2.1 p.2.2) s
  s.onMem fun m =>
    { m with dirty := m.dirty.filter fun (p : Nat × (BitVec 128 × Option Nat)) => !mine.any fun q => q.1 == p.1 }

/-- An MMA that read a handle sealed under the slot when REVOKE came still runs (R285 step 3). -/
def State.mmaReads (s : State) (slot mark : Nat) : Bool :=
  s.cores.any fun (p : CoreId × CoreSt) => p.2.me.active.any fun op =>
    decide (op.id < mark) && op.binds.any fun b => b.2.any fun h => h.slot == some slot

/-- The Pantry handles sealed under a slot are zeroed (R285 step 3). -/
def State.zeroSealed (s : State) (slot : Nat) : State :=
  { s with cores := s.cores.map fun (p : CoreId × CoreSt) =>
      (p.1, p.2.handles.foldl (fun (x : CoreSt) (q : Nat × HandleSt) =>
        if q.2.slot = some slot then x.zeroSpace q.2 else x) p.2) }

/-- Frames are zeroed and their seal bits cleared (R285 step 3). -/
def MemSt.unsealFrames (m : MemSt) (mine : Nat → Bool) : MemSt :=
  { m with
    bytes := m.bytes.filter fun (p : Nat × Byte) => !mine (p.1 / 4096),
    keys := m.keys.filter fun (p : Nat × Nat) => !mine (p.1 / 256),
    copies := m.copies.filter fun (p : Nat × Copy) => !mine (p.1 % 2 ^ 39 / 4096),
    sealed := m.sealed.filter fun (p : Nat × Nat) => !mine p.1 }

/-- The frames that a revocation zeroes (R285 step 3): those of the slot's blob and tag table, sealed or not, and every frame
sealed under it; a frame sealed under another slot stays (R283). -/
def State.slotFrame (s : State) (slot f : Nat) : Bool :=
  let k := s.keys.slot slot
  let a := s.cell k.base / 4096
  let t := s.cell k.tagpa
  match Map.find s.mem.sealed f with
  | some n => n == slot
  | none => k.count != 0 &&
      (decide (a ≤ f ∧ f < a + k.count) || decide (t / 4096 ≤ f ∧ f ≤ (t + 16 * k.count - 1) / 4096))

/-- Steps 2 to 4 of a revocation (R285). -/
def State.endRevoke (s : State) (slot : Nat) : State :=
  let k := s.keys.slot slot
  let s := s.sweepL2 slot k.flush
  let s := if k.kind = .gcm then
      let mine := s.slotFrame slot
      (s.zeroSealed slot).onMem fun m => m.unsealFrames mine
    else s
  s.onKey slot fun k => { k with phase := .revoked }

/-- REVOKE_SWEEP_DONE: every die has finished, the key is erased, the slot is REVOKED, and the response is sent
(R285). -/
def State.sweepDone (s : State) : State :=
  match s.keys.slots.find? fun (p : Nat × KeySlot) => p.2.phase == .revoking with
  | none => s
  | some p => if s.mmaReads p.1 p.2.mark then s else (s.endRevoke p.1).keyReply 0 []

/-- REVOKE_SWEEP_DONE (R285). -/
def execRevokeSweepDone (s : State) : Host.Outcome State Fault Refusal := .next s.sweepDone

/-! ## Collective groups (R290, R291) -/

/-- The group that the mailbox describes: id, member count (0 stands for 256), members, ranges (R290). -/
def State.mailGroup (s : State) : Option GroupSt :=
  let c := s.bodyNat 5 1
  let n := if c = 0 then 256 else c
  let used := 6 + 33 * n
  let len := s.mailLen
  if !s.mailHdrOk || n < 2 || len < used || (len - used) % 16 ≠ 0 || 16 < (len - used) / 16 then none
  else
    let member (i : Nat) : Nat × BitVec 256 := (s.bodyNat (6 + 33 * i) 1, BitVec.ofNat 256 (s.bodyNat (7 + 33 * i) 32))
    let range (i : Nat) : Nat × Nat := (s.bodyNat (used + 16 * i) 8, s.bodyNat (used + 8 + 16 * i) 8)
    some
      { id := s.bodyNat 1 4, members := (List.range n).map member, ranges := (List.range ((len - used) / 16)).map range }

/-- GROUP: the bridges are programmed with the members of the group (R290). -/
def State.formGroup (s : State) : State :=
  if !s.keyAsked 5 then s
  else
    match s.mailGroup with
    | none => s.keyReply 1 []
    | some g => (s.onSec fun x => { x with groups := (x.groups.filter fun h => h.id != g.id) ++ [g] }).keyReply 0 []

/-- GROUP (R290). -/
def execGroup (s : State) : Host.Outcome State Fault Refusal := .next s.formGroup

/-- The scale-up ports that reach the members of a group. -/
def SecSt.portsOf (x : SecSt) (g : GroupSt) : List Nat :=
  (x.peers.filter fun (p : Nat × PortPeer) => g.members.any fun m => m.1 == p.2.pkg).map fun p => p.1

/-- The launches with a stream through one of some scale-up ports, by key. -/
def State.portLaunches (s : State) (ports : List Nat) : List Nat :=
  ((s.die 4).net.rx.filter fun (p : Nat × RxStream) =>
    ports.contains (p.1 / 65536) || match p.2.fwd with
      | some (n, _) => ports.contains n
      | none => false).map fun p => p.2.launch

/-- The phase of a launch. -/
def State.phaseOf (s : State) (key : Nat) : Option WorkObj :=
  match s.obj (key / 2 ^ 32) .launch (key % 2 ^ 32) with
  | none => none
  | some o => match s.obj o.world .graph o.parent with
    | none => none
    | some g => s.obj o.world .phase g.parent

/-- The security core writes zeros to a range in the package, byte by byte where one is not zero (R291 step 3): a causal write
of the I/O die (R186) after the writes to the range that are under way; the blocks keep their keys. -/
def State.zeroRange (s : State) (pa n : Nat) : State :=
  let a := s.cell pa
  let hit (x : Nat) : Bool := decide (a ≤ x ∧ x < a + n)
  let held := (s.mem.copies.filter fun (p : Nat × Copy) => hit (p.1 % 2 ^ 39)).map fun p => p.1 % 2 ^ 39
  let open' := s.mem.writes.filter fun w => w.parts.any fun p => decide (p.pa < a + n ∧ a < p.pa + p.data.length)
  let wet := open'.flatMap fun w => w.parts.flatMap fun p => (List.range p.data.length).map fun i => p.pa + i
  let cells := ((s.mem.bytes.map fun p => p.1) ++ held ++ wet).filter hit |>.dedup
  if !s.inHbm pa n || cells.isEmpty then s
  else s.sendWrite (.issue 4 .sec 0 0 true (cells.map fun x => .issue x [0] (Map.find s.mem.keys (x / 16)) false) none
    (open'.map fun w => w.id))

/-- The handles bound to streams of some launches are zeroed (R166, R291 step 3). -/
def State.zeroRings (s : State) (keys : List Nat) : State :=
  s.ctxs.foldl (fun (s : State) (p : CtxId × CtxSt) => match p.2.unit with
    | none => s
    | some u =>
      if !keys.contains (launchKey u.world u.launch) then s
      else u.rings.foldl (fun (s : State) (r : Nat × (Nat × Nat)) => s.onCore p.1.coreId fun x =>
        match Map.find x.handles r.2.1 with
        | some h => x.zeroSpace h
        | none => x) s) s

/-- A member of a group has changed (R291): the phases of the group are cancelled, and the handles bound to its streams
zeroed. -/
def State.memberChanged (s : State) (g : GroupSt) : State :=
  let keys := s.portLaunches (s.sec.portsOf g)
  let s := keys.foldl (fun (s : State) k => match s.phaseOf k with
    | some o => s.cancelObj o .faulted { status := 2, fcode := FCode.memberChanged.num, detail := 0 }
    | none => s) (s.zeroRings keys)
  s.bridgeReport 4 .memberChanged

/-- The collective buffers of a group are zeroed (R291 step 3). -/
def State.zeroBuffers (s : State) (g : GroupSt) : State :=
  g.ranges.foldl (fun (s : State) r => s.zeroRange r.1 r.2) s

/-- The tokens that wait to leave by a scale-up port are dropped (R291 step 1). -/
def State.dropPortTokens (s : State) (port : Nat) : State :=
  s.onEnd 4 port fun l => { l with queue := l.queue.filter fun e => !(tagField e.tag 26 3 == 1 || tagField e.tag 26 3 == 2) }

/-- The signature over a measurement digest is good under the package key that a certificate names (R290). -/
def digestSigned (digest : BitVec 256) (cert sig : List Byte) : Bool :=
  match Config.certKey cert with
  | none => false
  | some (n, e) => pssVerify n e (sha256 (natBytes digest.toNat 32)) (sig.map BitVec.toNat)

/-- GROUP_LINK_UP: the two ends of a port exchange their measurement digests, each signed with its package key (R290); a
member with another digest than the one bound has changed (R291). -/
def State.linkUp (s : State) (port pkg : Nat) (digest : BitVec 256) (cert sig : List Byte) : State :=
  let good := digestSigned digest cert sig
  let own := s.sec.digest
  let mine := Config.packageSign s.fresh (leBytes own.toNat 32)
  let s := (s.onSec fun x => { x with
    peers := Map.put x.peers port { pkg := pkg, digest := digest, good := good, own := own, sig := mine } }).bump
  let hit := s.sec.groups.filter fun g => g.members.any fun m => m.1 == pkg && !(good && m.2 == digest)
  if hit.isEmpty then s
  else
    let s := hit.foldl (fun (s : State) g => s.memberChanged g) (s.dropPortTokens port)
    hit.foldl (fun (s : State) g => s.zeroBuffers g) s

/-- GROUP_LINK_UP (R290, R291). -/
def execGroupLinkUp (port pkg : Nat) (digest : BitVec 256) (proof : DigestProof) (s : State) :
    Host.Outcome State Fault Refusal :=
  if port < 32 then .next (s.linkUp port pkg digest proof.cert proof.sig) else .fault .noSuchPart

end Sys2Proof.Machine
end

