-- ==== Sys2Proof/Machine/Service.lean ====
section
/-! DEFINITION. Live service (01_device R30 to R34), module power (R16), and bring-up (R26, R27). -/

namespace Sys2Proof.Machine

/-! ## Service (R30 to R34) -/

/-- The stack of a channel, and the die it lies beside (R13, R139). -/
def channelStack (c : Nat) : Nat := c % 8
/-- The die a channel's stack lies beside (R13). -/
def channelDie (c : Nat) : Nat := channelStack c / 2

/-- A service operation is refused: its firmware is told busy, and the part stays as it is (R34). -/
def State.refuseService (s : State) (d : Nat) : State := s.notify d .busy

/-- Spare lanes of a bridge end (R32). -/
def spareLanes (d node : Nat) : Nat := if d = 4 && node < 32 then 1 else 4

/-- The firmware that serves a die: its own management core's, or that of die 0 for the I/O die. -/
def serviceDie (d : Nat) : Nat := if d = 4 then 0 else d

/-- LANE_SPARE: a spare lane takes the place of one in error, which is retrained; a link with no spare left loses the lane, runs
at reduced width, and the loss is reported (R32). Only one lane of a link retrains at a time: another is refused (R34). -/
def State.laneSpare (s : State) (d node lane : Nat) : State :=
  let l := s.link d node
  if l.retrain.isSome then s.refuseService (serviceDie d)
  else if l.spared.length < spareLanes d node then
    s.onEnd d node fun l => { l with spared := l.spared ++ [lane], retrain := some lane }
  else
    let s := s.onEnd d node fun l => { l with lost := if l.lost.contains lane then l.lost else l.lost ++ [lane] }
    if d = 4 then (List.range 4).foldl (fun (s : State) e => s.notify e (.laneLoss (256 + node))) s
    else s.notify d (.laneLoss node)

/-- A die-to-die or scale-up PHY recalibrates one lane, under the lane rules (R33, R32, R34). -/
def State.laneRecal (s : State) (d node lane : Nat) : State :=
  if !nodeOk d node || laneCount d node ≤ lane then s
  else if (s.link d node).retrain.isSome then s.refuseService (serviceDie d)
  else s.onEnd d node fun l => { l with retrain := some lane }

/-- The lane of a link that retrains carries flits again (R32). -/
def State.laneDone (s : State) (d node : Nat) : State :=
  if nodeOk d node then s.onEnd d node fun l => { l with retrain := none } else s

/-- LANE_SPARE (R32). -/
def execLaneSpare (die node lane : Nat) (s : State) : Host.Outcome State Fault Refusal :=
  if nodeOk die node && decide (lane < laneCount die node) then .next (s.laneSpare die node lane) else .fault .noSuchPart

/-- PHY_RECALIBRATION: a channel pauses, at most one of a stack at once (R33, R34). -/
def State.recalStart (s : State) (c : Nat) : State :=
  if (s.die (channelDie c)).sched.rom || s.mem.paused.any fun x => channelStack x == channelStack c then
    s.refuseService (channelDie c)
  else s.onMem fun m => { m with paused := m.paused ++ [c] }

/-- PHY_RECALIBRATION (R33). -/
def execPhyRecalibration (channel : Nat) (s : State) : Host.Outcome State Fault Refusal :=
  if channel < 256 then .next (s.recalStart channel) else .fault .noSuchPart

/-- PHY_RECAL_DONE: the channel serves the accesses that waited (R33). -/
def execPhyRecalDone (channel : Nat) (s : State) : Host.Outcome State Fault Refusal :=
  if channel < 256 then .next (s.onMem fun m => { m with paused := m.paused.filter fun x => x ≠ channel })
  else .fault .noSuchPart

/-- HBM_CHANNEL_RETIRE: the channel is marked retired (R31 step 4), unless it is paused or retired already (R34). -/
def State.retireChannel (s : State) (c : Nat) : State :=
  if (s.die (channelDie c)).sched.rom || s.mem.paused.contains c || s.mem.retired.contains c then
    s.refuseService (channelDie c)
  else s.onMem fun m => { m with retired := m.retired ++ [c] }

/-- HBM_CHANNEL_RETIRE (R31). -/
def execHbmChannelRetire (channel : Nat) (s : State) : Host.Outcome State Fault Refusal :=
  if channel < 256 then .next (s.retireChannel channel) else .fault .noSuchPart

/-- The spare map entry of a logical core of a die (R11). -/
def State.physOf (s : State) (d n : Nat) : Nat := Map.get (s.die d).spare n n

/-- The spare of a group stands for a logical core (R18). -/
def State.spareUsed (s : State) (d g : Nat) : Bool := (s.die d).spare.any fun p => p.2 == 128 + g

/-- The core that a logical number stands for is a new one, zeroed; capsules and streams of the logical core stay
(R30). -/
def State.freshCore (s : State) (k : CoreId) : State :=
  s.onCore k fun x =>
    { CoreSt.reset with rxbuf := x.rxbuf, inp := x.inp, out := x.out, holder := x.holder, last := x.last, remap := false }

/-- The slots of a part are used by a placement. -/
def partIn (p : Placement) (d part : Nat) : Bool := (partSlots part).any fun n => placementUses p d n

/-- A part is retired (R11, R216): the cached placements that use it are dropped (R53). -/
def State.retirePart (s : State) (d part : Nat) : State :=
  (s.dropPlaces fun p => partIn p d part).onDie d fun x =>
    { x with retired := if x.retired.contains part then x.retired else x.retired ++ [part] }

/-- The spare of the group takes the logical number; a second failure in the group retires it (R11, R18, R30). -/
def State.finishRemap (s : State) (d n : Nat) : State :=
  let g := n / 16
  let s := s.freshCore { die := d, core := n }
  if s.spareUsed d g then s.retirePart d n
  else s.onDie d fun x => { x with spare := Map.put x.spare n (128 + g) }

/-- Firmware begins to change the spare map entry of a core that no unit is bound to: from then on capsules for it wait at its
router (R30). A core that is under service already is refused (R34). -/
def State.beginRemap (s : State) (d n : Nat) : State :=
  let k : CoreId := { die := d, core := n }
  if (s.die d).sched.rom || (s.part d n).busy || (s.core k).remap then s.refuseService d
  else if s.partUsed d n then s
  else s.onCore k fun x => { x with remap := true }

/-- SPARE_CORE_REMAP: the entry is rewritten, and the spare core, zeroed, takes the logical number: the end of a change that
has begun, or the whole of one at once (R30). -/
def State.spareRemap (s : State) (d n : Nat) : State :=
  let k : CoreId := { die := d, core := n }
  if (s.core k).remap then s.finishRemap d n
  else if (s.die d).sched.rom || (s.part d n).busy then s.refuseService d
  else if s.partUsed d n then s
  else s.finishRemap d n

/-- SPARE_CORE_REMAP (R30). -/
def execSpareCoreRemap (die core : Nat) (s : State) : Host.Outcome State Fault Refusal :=
  coreEvent { die := die, core := core } (s.spareRemap die core)

/-! ## Power (R16) -/

/-- The core clock after a window: down by 50 MHz above the cap, up by 50 MHz below 95% of it (R16). -/
def clockAfter (clock watts cap : Nat) : Nat :=
  if cap < watts then max 800 (clock - 50) else if watts * 100 < cap * 95 then min 1600 (clock + 50) else clock

/-- POWER_WINDOW (R16). -/
def execPowerWindow (watts : Nat) (s : State) : Host.Outcome State Fault Refusal :=
  .next { s with dev := { s.dev with power := watts % 65536, clock := clockAfter s.dev.clock watts s.dev.pwrcap } }

/-- The cap in effect after a write (R16). -/
def capOf (v : BitVec 32) : Nat := max 600 (min 2400 (v.toNat % 65536))

/-- PWRCAP_WRITE (R16). -/
def execPwrcapWrite (v : BitVec 32) (s : State) : Host.Outcome State Fault Refusal :=
  .next { s with dev := { s.dev with pwrcap := capOf v } }

/-! ## Bring-up (R26, R27, R286, R287) -/

/-- The package at power-on: nothing is kept but what lies outside it and in its flash (R28). -/
def State.powerOn (s : State) : State :=
  let host := s.mem.bytes.filter fun p => decide (2 ^ 52 ≤ p.1)
  let tags := s.mem.keys.filter fun p => decide (2 ^ 48 ≤ p.1)
  { State.reset with
    cur := s.cur, agenda := s.agenda, fresh := s.fresh, pkg := s.pkg,
    mem := { MemSt.reset with bytes := host, keys := tags },
    keys := { KeySt.reset with ring := s.keys.ring },
    dev := { DevSt.reset with flash := s.dev.flash, seen := s.dev.seen } }

/-- HBMOK: the stacks with at least one channel that trained (R27). -/
def hbmOk (failed : List Nat) : Nat :=
  ((List.range 8).filter fun k => !((List.range 32).all fun c => failed.contains (c * 8 + k))).foldl (fun a k => a + 2 ^ k) 0

/-- The 32-byte nonce that the security core sends a compute die (R286). -/
def bootNonce (fresh d : Nat) : List Byte := leBytes (Config.nonce (fresh + d)).toNat 32

/-- What a compute die answers, as it is measured: the status and the signature (R286, R287). -/
def answerBytes (a : DieReport) : List Byte := a.status :: a.sig

/-- A compute die's answer is what the package certificate lists: the digest of its public key, and a good RSASSA-PSS signature
over the nonce and the status (R286). -/
def attested (a : DieReport) (d : Nat) (nonce : List Byte) : Bool :=
  shaOf (Config.keyBytes a.modulus a.exponent) == Config.dieDigest d &&
    pssVerify a.modulus a.exponent (sha256 ((nonce ++ [a.status]).map BitVec.toNat)) (a.sig.map BitVec.toNat)

/-- The answer of a compute die; a die that answers nothing has no good signature. -/
def dieReport (r : BringUp) (d : Nat) : DieReport :=
  r.dies.getD d { modulus := 0, exponent := 0, status := 0, sig := [] }

/-- The dies that fail a test, as DIEFAIL has them (R27). -/
def dieBits (f : Nat → Bool) : Nat := (List.range 4).foldl (fun a d => a + if f d then 2 ^ d else 0) 0

/-- The image of the flash is in a management core's SRAM, and its hart is released (R26 step 6). -/
def State.loadFirmware (s : State) (d : Nat) : State :=
  let img : Map Byte := ((s.dev.flash.zip (List.range s.dev.flash.length)).map fun p => (p.2, p.1)).filter fun p => p.2 ≠ 0
  s.onMgmt d fun x => { x with code := img, hart := hartAt (Config.imageEntry s.dev.flash), check := true }

/-- The final boot configuration (R287): spare maps, retired channels and lane maps. -/
def State.bootConfig (s : State) : List Byte :=
  Config.bootConfig ((List.range 4).flatMap fun d => (s.die d).spare) s.mem.retired

/-- HBMOK as BOOTST shows it. -/
def DevSt.hbm (x : DevSt) : Nat := (x.bootst.extractLsb' 8 8).toNat

/-- A step of bring-up fails: STAGE 0xF, with its cause and the dies that failed (R26, R27). -/
def State.bootHalt (s : State) (cause ok fails : Nat) : State :=
  { s with dev := { s.dev with bootst := bootField 15 cause ok fails, boot := none } }

/-- A step of bring-up has passed (R27). -/
def State.bootStage (s : State) (n ok : Nat) : State := { s with dev := { s.dev with bootst := bootField n 0 ok 0 } }

/-- The step of bring-up that STAGE shows to be next (R26, R27, R286, R287): the ROM and the firmware's signature; the dies'
attestation and self-test; the HBM channels; the links; the firmware and the release of the dies; the self-check, which ends
by DIE_SELF_CHECK_PASS unless it fails. -/
def State.bootRun (s : State) (r : BringUp) : State :=
  let nonce (d : Nat) : List Byte := bootNonce s.fresh d
  match s.dev.stage with
  | 1 =>
    if r.cause = 1 then s.bootHalt 1 0 0
    else
      let s := s.extendMeas 0 (Config.bootMeasured 0)
      if !Config.firmwareSigned s.dev.flash then s.bootHalt 2 0 0
      else ((s.extendMeas 1 s.dev.flash).extendMeas 2 (Config.bootMeasured 2)).bootStage 2 0
  | 2 =>
    let foreign := dieBits fun d => !attested (dieReport r d) d (nonce d)
    let sick := dieBits fun d => (dieReport r d).status != 0
    if foreign ≠ 0 then s.bootHalt 3 0 foreign
    else if sick ≠ 0 then s.bootHalt 4 0 sick
    else
      let s := (List.range 4).foldl (fun (s : State) d => (s.extendMeas (3 + d) (answerBytes (dieReport r d))).bump) s
      s.bootStage 3 0
  | 3 =>
    let ok := hbmOk r.channels
    if ok ≠ 255 then s.bootHalt 5 ok 0
    else (s.onMem fun m => { m with retired := r.channels.filter fun c => decide (c < 256) }).bootStage 4 ok
  | 4 => if r.cause = 6 then s.bootHalt 6 s.dev.hbm 0 else (s.extendMeas 7 s.bootConfig).bootStage 5 s.dev.hbm
  | 5 =>
    let s := (List.range 4).foldl (fun (s : State) d => s.loadFirmware d) s
    s.bootStage 6 s.dev.hbm
  | 6 => if r.cause = 7 then s.bootHalt 7 s.dev.hbm 0 else s
  | _ => s

/-- The security core carries out the next step of bring-up (R26). -/
def State.bootStep (s : State) : State :=
  match s.dev.boot with
  | none => s
  | some r => s.bootRun r

/-- The compute dies are held: bring-up has begun and has not released them, or it has stopped (R26). -/
def DevSt.held (x : DevSt) : Bool := decide (1 ≤ x.stage ∧ x.stage ≤ 5) || x.stage == 15

/-- POWER_GOOD: at power-on the package begins from nothing; after a package reset bring-up runs again. The ROM runs (STAGE 1),
and the steps of R26 follow one by one (R26, R28). -/
def State.powerGood (s : State) (r : BringUp) : State :=
  let go (s : State) : State := { s with dev := { s.dev with bootst := bootField 1 0 0 0, boot := some r } }
  if r.cold then go s.powerOn else if s.dev.stage = 0 then go s else s

/-- POWER_GOOD (R26). -/
def execPowerGood (r : BringUp) (s : State) : Host.Outcome State Fault Refusal := .next (s.powerGood r)

end Sys2Proof.Machine
end

