-- ==== Sys2Proof/Machine/LocalRegs.lean ====
section
/-! DEFINITION. The registers that firmware reads and writes (01_device R5, R6): those at the local addresses of a
management core (06_memory R145, 07_streams R160, 11_capsules R228, 12_scheduling R242, 13_faults R256, 14_generation
R273, 15_security R277), and its custom CSRs (R243). -/

namespace Sys2Proof.Machine

/-- A field placed at its bit. -/
def fieldAt (v lo : Nat) : Nat := v * 2 ^ lo

/-! ## Reads -/

/-- Nat of a bit. -/
def bitNat (b : Bool) : Nat := if b then 1 else 0

/-- A register of the sequencer by its offset (R273). -/
def SeqSt.read (q : SeqSt) (off : Nat) : Word :=
  BitVec.ofNat 64 (match off with
    | 0 => fieldAt q.iters 32 + fieldAt q.ncfg 2 + fieldAt (bitNat q.stop) 1 + bitNat q.go
    | 0x28 => fieldAt q.iter 32 + fieldAt q.cur 4 + q.st
    | 0x30 => q.cap
    | 0x38 => fieldAt (bitNat q.v) 32 + fieldAt q.ptok 16 + q.dtok
    | n => if 8 ≤ n ∧ n ≤ 0x20 then fieldAt (Map.get q.cfg 0 ((n - 8) / 8)) 32 else 0)

/-- A byte of the world map (R277). -/
def WorldEnt.byte (e : WorldEnt) : Nat := fieldAt (bitNat e.busy) 7 + fieldAt (bitNat e.v) 3 + e.world

/-- A register of a spill set by its offset (R228). -/
def SpillSt.read (x : SpillSt) (off : Nat) : Word :=
  match off with
  | 0 => x.base
  | 8 => BitVec.ofNat 64 x.slots
  | 0x10 => BitVec.ofNat 64 (fieldAt x.caps.length 32 + fieldAt x.tail 16 + x.head)
  | _ => 0

/-- A doubleword of a slot's window (R243, R256). -/
def SlotSt.read (x : SlotSt) (off : Nat) : Word :=
  if off < 0x80 then ((x.fifo.getD (off / 32) 0).extractLsb' (off % 32 * 8) 64)
  else if off = 0x80 then BitVec.ofNat 64 (fieldAt x.res 16 + fieldAt x.code 8 + fieldAt x.cmd 4 + x.state)
  else if off < 0xA8 then x.frecimg.toList.getD ((off - 0x88) / 8) 0
  else if off = 0xA8 then x.saveva
  else if off = 0xB0 then x.trapv0
  else 0

/-- A 32-bit entry of the slot tables, or half of a bank register, by its offset in a router's block (R160). -/
def State.tableRead (s : State) (d r off : Nat) : BitVec 32 :=
  let x := (s.die d).net
  if off < 0x5000 then
    if outExists r (off / 0x200) then x.entry r (off / 0x200) (off / 0x100 % 2) (off / 4 % 64) else 0
  else
    let half (v : BitVec 40) : BitVec 32 := if off % 8 = 4 then (v.extractLsb' 32 8).zeroExtend 32 else v.extractLsb' 0 32
    if off / 8 = 0xC00 then half (Map.get x.sel 0 r)
    else if off / 8 = 0xC01 then half (Map.get x.act 0 r)
    else 0

/-- A local address is one of a register or of a mailbox. -/
def localMapped (a : Nat) : Bool :=
  decide (0x02000000 ≤ a ∧ a < 0x02000010) || decide (0x02001000 ≤ a ∧ a < 0x02001010) ||
  decide (0x02002000 ≤ a ∧ a < 0x02002040) || decide (0x02003000 ≤ a ∧ a < 0x020030A8) ||
  decide (0x02004000 ≤ a ∧ a < 0x02004100) || decide (0x03000000 ≤ a ∧ a < 0x03000000 + 548 * 256) ||
  decide (0x04000000 ≤ a ∧ a < 0x04000000 + 160 * 0x8000) || decide (0x05000000 ≤ a ∧ a < 0x05040000)

/-- The doubleword at a local address, a multiple of 8. -/
def State.localRead (s : State) (d a : Nat) : Word :=
  if a < 0x02001000 then (if a = 0x02000000 then (s.die d).sched.mtimecmp else BitVec.ofNat 64 (s.die d).cyc)
  else if a < 0x02002000 then (if a = 0x02001000 then (s.mgmt d).tlbinv else BitVec.ofNat 64 (bitNat (s.mgmt d).tlbBusy))
  else if a < 0x02003000 then (s.mgmt d).seq.read (a - 0x02002000)
  else if a < 0x02004000 then
    BitVec.ofNat 64 ((List.range 8).foldr (fun i acc =>
      (if a - 0x02003000 + i < 164 then (s.part d (a - 0x02003000 + i)).byte else 0) + 256 * acc) 0)
  else if a < 0x03000000 then (s.spillOf d ((a - 0x02004000) / 32)).read ((a - 0x02004000) % 32)
  else if a < 0x04000000 then (s.slot d ((a - 0x03000000) / 256)).read ((a - 0x03000000) % 256)
  else if a < 0x05000000 then
    let r := (a - 0x04000000) / 0x8000
    let off := (a - 0x04000000) % 0x8000
    s.tableRead d r (off + 4) ++ s.tableRead d r off
  else BitVec.ofNat 64 (leNat (getBytes s.dev.bar0 (0x100000 + d * 0x40000 + (a - 0x05000000)) 8))

/-! ## Writes -/

/-- SEQCTL (R273): while GO reads 1 only STOP is written. -/
def State.seqCtl (s : State) (d : Nat) (v : Word) : State :=
  let q := (s.mgmt d).seq
  if q.go then s.onSeq d fun x => { x with stop := v.getLsbD 1 }
  else if v.getLsbD 0 then (s.seqGo d v q.world (s.freeId q.world)).bump
  else s.onSeq d fun x =>
    { x with iters := (v.extractLsb' 32 32).toNat, ncfg := (v.extractLsb' 2 2).toNat, stop := v.getLsbD 1 }

/-- A register of the sequencer is written (R273). -/
def State.seqWrite (s : State) (d off : Nat) (v : Word) : State :=
  match off with
  | 0 => s.seqCtl d v
  | 0x30 => s.onSeq d fun x => { x with cap := (v.extractLsb' 0 32).toNat }
  | 0x38 => s.onSeq d fun x =>
      { x with v := v.getLsbD 32, ptok := (v.extractLsb' 16 16).toNat, dtok := (v.extractLsb' 0 16).toNat }
  | n =>
    if 8 ≤ n ∧ n ≤ 0x20 && !(s.mgmt d).seq.go then
      s.onSeq d fun x => { x with cfg := Map.put x.cfg ((n - 8) / 8) (v.extractLsb' 32 32).toNat }
    else s

/-- A register of a spill set is written; BASE and SLOTS keep their values while the area holds a capsule (R228). -/
def State.spillWrite (s : State) (d w off : Nat) (v : Word) : State :=
  if !(s.spillOf d w).caps.isEmpty then s
  else match off with
    | 0 => s.onSpill d w fun x => { x with base := v }
    | 8 => s.onSpill d w fun x => { x with slots := (v.extractLsb' 0 16).toNat }
    | _ => s

/-- A doubleword of a slot's window is written: CMD, FRECIMG, SAVEVA, TRAPV0 (R256). -/
def State.slotWrite (s : State) (d n off : Nat) (v : Word) : State :=
  s.onSlot d n fun x =>
    if off = 0x80 then { x with cmd := (v.extractLsb' 4 4).toNat }
    else if 0x88 ≤ off ∧ off < 0xA8 then
      { x with frecimg := Vector.ofFn fun i => if i.val = (off - 0x88) / 8 then v else x.frecimg[i] }
    else if off = 0xA8 then { x with saveva := v }
    else if off = 0xB0 then { x with trapv0 := v }
    else x

/-- An entry of the slot tables, or half of BANKSEL, is written (R160). -/
def State.tableWrite (s : State) (d r off : Nat) (v : BitVec 32) : State :=
  s.onLink d fun x =>
    if off < 0x5000 then
      if outExists r (off / 0x200) then
        { x with tab := Map.put x.tab (slotKey r (off / 0x200) (off / 0x100 % 2) (off / 4 % 64)) (v &&& 0xF03F0FFF) }
      else x
    else if off / 8 = 0xC00 then
      let old : BitVec 40 := Map.get x.sel 0 r
      let new : BitVec 40 := if off % 8 = 4 then v.extractLsb' 0 8 ++ old.extractLsb' 0 32 else old.extractLsb' 32 8 ++ v
      { x with sel := Map.put x.sel r new }
    else x

/-- The bytes of a doubleword that a store of some bytes at an offset leaves. -/
def mergeBytes (old : Word) (off size : Nat) (v : Word) : Word :=
  let m := (2 ^ (8 * size) - 1) * 2 ^ (8 * off)
  (old &&& ~~~ BitVec.ofNat 64 m) ||| (BitVec.ofNat 64 (v.toNat % 2 ^ (8 * size) * 2 ^ (8 * off)))

/-- A register of 64 bits is written whole. -/
def State.localPut (s : State) (d a : Nat) (v : Word) : State :=
  if a < 0x02001000 then (if a = 0x02000000 then s.onSched d fun x => { x with mtimecmp := v } else s)
  else if a < 0x02002000 then (if a = 0x02001000 then s.tlbWrite d v else s)
  else if a < 0x02003000 then s.seqWrite d (a - 0x02002000) v
  else if a < 0x03000000 then s.spillWrite d ((a - 0x02004000) / 32) ((a - 0x02004000) % 32) v
  else s.slotWrite d ((a - 0x03000000) / 256) ((a - 0x03000000) % 256) v

/-- Bytes of a store at a local address: one byte of the world map, an entry of a slot table, a register of 64 bits whose
other bytes keep their values, or mailbox bytes. The store is aligned to its size. -/
def State.localWrite (s : State) (d a size : Nat) (v : Word) : State :=
  if !localMapped a then s
  else if 0x02003000 ≤ a ∧ a < 0x02004000 then
    (List.range size).foldl (fun (s : State) i =>
      if a - 0x02003000 + i < 164 then s.worldWrite d (a - 0x02003000 + i) (v.extractLsb' (8 * i) 8) else s) s
  else if 0x04000000 ≤ a ∧ a < 0x05000000 then
    let r := (a - 0x04000000) / 0x8000
    let off := (a - 0x04000000) % 0x8000
    if size = 8 then (s.tableWrite d r off (v.extractLsb' 0 32)).tableWrite d r (off + 4) (v.extractLsb' 32 32)
    else if size = 4 then s.tableWrite d r off (v.extractLsb' 0 32)
    else
      let old := s.tableRead d r (off / 4 * 4)
      s.tableWrite d r (off / 4 * 4) ((mergeBytes (old.zeroExtend 64) (off % 4) size v).extractLsb' 0 32)
  else if 0x05000000 ≤ a then
    { s with dev := { s.dev with
        bar0 := putBytes s.dev.bar0 (0x100000 + d * 0x40000 + (a - 0x05000000)) (leBytes v.toNat size) } }
  else s.localPut d (a / 8 * 8) (mergeBytes (s.localRead d (a / 8 * 8)) (a % 8) size v)

/-! ## SRAM and the custom CSRs (R243, R244) -/

/-- A byte of a management core's SRAM: the code bank at 0, the staging bank at 1 MiB, the data bank at 2 MiB. -/
def MgmtSt.sram (x : MgmtSt) (a : Nat) : Byte :=
  if a < 0x100000 then Map.get x.code 0 a
  else if a < 0x200000 then Map.get x.staging 0 (a - 0x100000)
  else Map.get x.data 0 (a - 0x200000)

/-- A byte of a management core's SRAM is written. -/
def MgmtSt.sramPut (x : MgmtSt) (a : Nat) (b : Byte) : MgmtSt :=
  if a < 0x100000 then { x with code := putByte x.code a b }
  else if a < 0x200000 then { x with staging := putByte x.staging (a - 0x100000) b }
  else { x with data := putByte x.data (a - 0x200000) b }

/-- Bytes at a local address: SRAM, a register, or zero. -/
def State.localBytes (s : State) (d a n : Nat) : List Byte :=
  (List.range n).map fun i =>
    let x := a + i
    if x < 0x400000 then (s.mgmt d).sram x
    else if localMapped x then (s.localRead d (x / 8 * 8)).extractLsb' (x % 8 * 8) 8
    else 0

/-- What a custom CSR reads (R243). -/
def State.customRead (s : State) (d n : Nat) : Option Word :=
  let q := (s.die d).sched
  match n with
  | 0x7C0 => some (s.mgmt d).bindq
  | 0x7C1 => some (BitVec.ofNat 64 (fieldAt (bitNat q.badRec) 3 + fieldAt (bitNat q.badSlot) 2 + fieldAt (bitNat q.full) 1 +
      bitNat ((s.slot d q.lastSlot).fifo.length == 4)))
  | 0x7C2 => some 0x03000000
  | 0x7C3 => some (s.cntRead d)
  | 0x7C4 => some (BitVec.ofNat 64 q.period)
  | 0x7C5 => some (BitVec.ofNat 64 q.stage)
  | 0x7C6 => some (BitVec.ofNat 64 (fieldAt (bitNat (s.mgmt d).fwOk) 1))
  | 0x7C7 => some (BitVec.ofNat 64 (s.mgmt d).rmqTag)
  | _ => none

/-- A custom CSR is written (R243). -/
def State.customWrite (s : State) (d n : Nat) (v : Word) : State :=
  match n with
  | 0x7C0 => s.bindqWrite d v (BitVec.ofNat 256 (leNat (s.localBytes d ((v.extractLsb' 5 39).toNat * 32) 32)))
  | 0x7C1 => s.onSched d fun x =>
      { x with badRec := x.badRec && !v.getLsbD 3, badSlot := x.badSlot && !v.getLsbD 2, full := x.full && !v.getLsbD 1 }
  | 0x7C3 => s.cntSelect d v
  | 0x7C4 =>
    let s := s.onSched d fun x => { x with period := max 65536 (v.toNat % 2 ^ 32) }
    if v.getLsbD 63 then s.kick d else s
  | 0x7C5 => if v.extractLsb' 0 2 = 1 then s.stageFw d else s
  | 0x7C6 =>
    let s := if v.getLsbD 1 then s.okFw d else s.onMgmt d fun x => { x with fwOk := false }
    if v.getLsbD 0 then s.commitFw d else s
  | 0x7C7 => s.rmqWrite d v (BitVec.ofNat 512 (leNat (s.localBytes d (v.extractLsb' 0 44).toNat 64)))
  | _ => s

end Sys2Proof.Machine
end

