-- ==== Sys2Proof/Machine/Spdm.lean ====
section
/-! DEFINITION. The SPDM responder (15_security R287 to R289). The formats of its messages are those of SPDM 1.2, which
the spec names and does not print (log entry 77). -/

namespace Sys2Proof.Machine

/-- The SPDM request in the mailbox. -/
def State.spdmReq (s : State) : List Byte := s.mailBytes 8 (min s.mailLen 0x7FF8)

/-- A byte of the request. -/
def State.spdmByte (s : State) (i : Nat) : Nat := (s.spdmReq.getD i 0).toNat

/-- An SPDM request is being processed. -/
def State.spdmAsked (s : State) : Bool := s.sec.busy && s.mailClass == 1

/-- Its request code. -/
def State.spdmCode (s : State) : Nat := s.spdmByte 1

/-- The request codes of R288. -/
def spdmCodes : List Nat := [0x84, 0xE1, 0xE3, 0x81, 0x82, 0x83, 0xE0]

/-- ERROR (R289): the negotiated state and the transcript stay as they were. -/
def State.spdmError (s : State) (code : Nat) : State := s.mailReply 1 [0x12, 0x7F, BitVec.ofNat 8 code, 0]

/-- Bring-up has not come to STAGE 3 (R27, R289). -/
def DevSt.early (x : DevSt) : Bool :=
  decide (x.stage < 3) || (x.stage == 15 && decide ((x.bootst.extractLsb' 16 4).toNat ≤ 4))

/-- A request and its response join the transcript, and the response is sent (R288). -/
def State.spdmReply (s : State) (r : List Byte) : State :=
  (s.onSec fun x => { x with transcript := x.transcript ++ s.spdmReq ++ r }).mailReply 1 r

/-- The version in a request's header: 1.2, and 1.0 or 1.2 in GET_VERSION. -/
def State.spdmVersion (s : State) : Bool :=
  s.spdmByte 0 == 0x12 || (s.spdmCode == 0x84 && s.spdmByte 0 == 0x10)

/-- A supported request: the errors of R289, or its response. -/
def State.spdmAnswer (s : State) (code : Nat) (order fields : Bool) (go : State) : State :=
  if !s.spdmAsked || s.spdmCode ≠ code then s
  else if s.dev.early then s.spdmError 0x03
  else if !s.spdmVersion || !s.mailHdrOk then s.spdmError 0x01
  else if !order then s.spdmError 0x04
  else if !fields then s.spdmError 0x01
  else go

/-- GET_VERSION: 1.2 only; the sequence begins again, and the transcript is cleared (R288). -/
def State.getVersion (s : State) : State :=
  let t := s.onSec fun x => { x with spdm := 1, transcript := [] }
  s.spdmAnswer 0x84 true (s.mailLen == 4) (t.spdmReply [0x10, 0x04, 0, 0, 0, 1, 0x00, 0x12])

/-- GET_VERSION (R288). -/
def execGetVersion (s : State) : Host.Outcome State Fault Refusal := .next s.getVersion

/-- GET_CAPABILITIES: CERT_CAP, CHAL_CAP, MEAS_CAP with signatures (R288). -/
def State.getCapabilities (s : State) : State :=
  let l := leBytes Config.spdmLimits.toNat 9
  let t := s.onSec fun x => { x with spdm := 2 }
  s.spdmAnswer 0xE1 (s.sec.spdm == 1) (s.mailLen == 20)
    (t.spdmReply ([0x12, 0x61, 0, 0, 0] ++ l.take 1 ++ [0, 0, 0x16, 0, 0, 0] ++ l.drop 1))

/-- GET_CAPABILITIES (R288). -/
def execGetCapabilities (s : State) : Host.Outcome State Fault Refusal := .next s.getCapabilities

/-- A NEGOTIATE_ALGORITHMS that offers RSASSA-PSS-3072, SHA-256 and the DMTF measurement specification. -/
def State.algOk (s : State) : Bool :=
  decide (32 ≤ s.mailLen) && leNat ((s.spdmReq.drop 4).take 2) == s.mailLen && s.spdmByte 6 % 2 == 1 &&
    s.spdmByte 8 / 8 % 2 == 1 && s.spdmByte 12 % 2 == 1

/-- NEGOTIATE_ALGORITHMS (R288). -/
def State.negotiate (s : State) : State :=
  let t := s.onSec fun x => { x with spdm := 3 }
  s.spdmAnswer 0xE3 (s.sec.spdm == 2) s.algOk
    (t.spdmReply ([0x12, 0x63, 0, 0, 36, 0, 1, 0, 2, 0, 0, 0, 8, 0, 0, 0, 1, 0, 0, 0] ++ List.replicate 16 0))

/-- NEGOTIATE_ALGORITHMS (R288). -/
def execNegotiateAlgorithms (s : State) : Host.Outcome State Fault Refusal := .next s.negotiate

/-- The bytes of a digest. -/
def shaBytes (bs : List Byte) : List Byte := leBytes (shaOf bs).toNat 32

/-- GET_DIGESTS: the digest of the chain of slot 0 (R288). -/
def State.getDigests (s : State) : State :=
  s.spdmAnswer 0x81 (s.sec.spdm == 3) (s.mailLen == 4)
    (s.spdmReply ([0x12, 0x01, 0, 1] ++ shaBytes Config.certChain))

/-- GET_DIGESTS (R288). -/
def execGetDigests (s : State) : Host.Outcome State Fault Refusal := .next s.getDigests

/-- GET_CERTIFICATE: a portion of the chain of slot 0 (R288). -/
def State.getCertificate (s : State) : State :=
  let off := leNat ((s.spdmReq.drop 4).take 2)
  let len := leNat ((s.spdmReq.drop 6).take 2)
  let rest := Config.certChain.drop off
  let part := rest.take (min len (0x7FF0 - 8))
  s.spdmAnswer 0x82 (s.sec.spdm == 3) (s.mailLen == 8 && s.spdmByte 2 == 0 && decide (off < Config.certChain.length))
    (s.spdmReply ([0x12, 0x02, 0, 0] ++ leBytes part.length 2 ++ leBytes (rest.length - part.length) 2 ++ part))

/-- GET_CERTIFICATE (R288). -/
def execGetCertificate (s : State) : Host.Outcome State Fault Refusal := .next s.getCertificate

/-- A measurement block of SPDM: MEAS(n − 1) at index n (R288). -/
def SecSt.measBlock (x : SecSt) (i : Nat) : List Byte :=
  leBytes i 1 ++ [1] ++ leBytes 35 2 ++ [Config.measType i] ++ leBytes 32 2 ++ leBytes (x.meas.toList.getD (i - 1) 0).toNat 32

/-- The blocks of some indices. -/
def SecSt.measBlocks (x : SecSt) (l : List Nat) : List Byte := l.flatMap x.measBlock

/-- The indices of R288. -/
def measIndices : List Nat := (List.range 16).map fun i => i + 1

/-- What a signature signs: the transcript with the request and the response, under the prefix of SPDM 1.2 (R288). -/
def State.spdmSigned (s : State) (ctx : String) (r : List Byte) : List Byte :=
  let str (x : String) : List Byte := x.toList.map fun c => BitVec.ofNat 8 c.toNat
  let ver := "dmtf-spdm-v1.2.*"
  (str ver ++ str ver ++ str ver ++ str ver) ++ List.replicate (36 - (str ctx).length) 0 ++ str ctx ++
    shaBytes (s.sec.transcript ++ s.spdmReq ++ r)

/-- A signature as bytes, the highest first. -/
def sigBytes (v : BitVec 3072) : List Byte := (leBytes v.toNat 384).reverse

/-- A response with the signature of the package key after it (R288). -/
def State.spdmSign (s : State) (ctx : String) (r : List Byte) : State :=
  s.bump.spdmReply (r ++ sigBytes (Config.packageSign s.fresh (s.spdmSigned ctx r)))

/-- The nonce of a response. -/
def State.spdmNonce (s : State) : List Byte := leBytes (Config.nonce s.fresh).toNat 32

/-- CHALLENGE: a signature over the transcript (R288). -/
def State.challenge (s : State) : State :=
  let kind := s.spdmByte 3
  let sum := if kind = 0 then [] else shaBytes (s.sec.measBlocks measIndices)
  let r := [0x12, 0x03, 0, 1] ++ shaBytes Config.certChain ++ s.spdmNonce ++ sum ++ [0, 0]
  s.spdmAnswer 0x83 (s.sec.spdm == 3) (s.mailLen == 36 && s.spdmByte 2 == 0 && [0, 1, 0xFF].contains kind)
    (s.spdmSign "responder-challenge_auth signing" r)

/-- CHALLENGE (R288). -/
def execChallenge (s : State) : Host.Outcome State Fault Refusal := .next s.challenge

/-- GET_MEASUREMENTS: one measurement register or all of them, signed when the request asks for it (R288). -/
def State.getMeasurements (s : State) : State :=
  let sig := s.spdmByte 2 % 2 == 1
  let n := s.spdmByte 3
  let l := if n = 0xFF then measIndices else [n]
  let rec' := s.sec.measBlocks l
  let r := [0x12, 0x60, 0, 0] ++ leBytes l.length 1 ++ leBytes rec'.length 3 ++ rec' ++ s.spdmNonce ++ [0, 0]
  let fields := s.mailLen == (if sig then 37 else 4) && (n == 0xFF || decide (1 ≤ n ∧ n ≤ 16)) &&
    decide (s.spdmByte 2 < 4) && (!sig || s.spdmByte 36 == 0)
  s.spdmAnswer 0xE0 (s.sec.spdm == 3) fields
    (if sig then s.spdmSign "responder-measurements signing" r else s.bump.spdmReply r)

/-- GET_MEASUREMENTS (R288). -/
def execGetMeasurements (s : State) : Host.Outcome State Fault Refusal := .next s.getMeasurements

/-- SPDM_UNSUPPORTED_REQUEST: any other request code (R289). -/
def State.spdmUnsupported (s : State) : State :=
  if !s.spdmAsked || spdmCodes.contains s.spdmCode then s
  else if s.dev.early then s.spdmError 0x03
  else s.spdmError 0x07

/-- SPDM_UNSUPPORTED_REQUEST (R289). -/
def execSpdmUnsupportedRequest (s : State) : Host.Outcome State Fault Refusal := .next s.spdmUnsupported

end Sys2Proof.Machine
end

