-- ==== Sys2Proof/Machine/HostIo.lean ====
section
/-! DEFINITION. The host's accesses (01_device R23 to R25, R28; 12_scheduling R232; 15_security R280, R282, R284): BAR0 and
BAR2 of the functions, and the debug port. -/

namespace Sys2Proof.Machine

/-! ## The queue registers (R232) -/

/-- QCTL without its reserved bits. -/
def qctlMask : Word := 0x87E0FFFF

/-- The bits of QCTL that a virtual function cannot write: WORLD and PRIO. -/
def qctlFixed : Word := 0x07E00000

/-- A register of a queue's block reads (R232). -/
def QueueSt.read (q : QueueSt) (off : Nat) : Word :=
  match off with
  | 0 => q.sqbase
  | 8 => q.cqbase
  | 0x10 => q.qctl
  | 0x18 => BitVec.ofNat 64 (fieldAt q.sqr 32 + q.sqw)
  | 0x20 => BitVec.ofNat 64 (fieldAt q.cqr 32 + q.cqw)
  | _ => 0

/-- SQBASE, CQBASE or QCTL is written whole; all three keep their values while EN is 1 (R232). -/
def State.queuePut (s : State) (n off : Nat) (vf : Bool) (v : Word) : State :=
  if (s.queue n).en then s
  else s.onQueue n fun q => match off with
    | 0 => { q with sqbase := v }
    | 8 => { q with cqbase := v }
    | 0x10 =>
      let keep : Word := if vf then qctlFixed else 0
      { q with qctl := (v &&& qctlMask &&& ~~~keep) ||| (q.qctl &&& keep) }
    | _ => q

/-- A write of 4 or 8 bytes into a queue's block (R232). -/
def State.queueWrite (s : State) (n off : Nat) (vf wide : Bool) (v : Word) : State :=
  let lo : BitVec 32 := v.extractLsb' 0 32
  if off = 0x18 then s.sqwidx n lo
  else if off = 0x24 then s.cqridx n lo
  else if off = 0x20 then (if wide then s.cqridx n (v.extractLsb' 32 32) else s)
  else if off < 0x18 then
    s.queuePut n (off / 8 * 8) vf (mergeBytes ((s.queue n).read (off / 8 * 8)) (off % 8) (if wide then 8 else 4) v)
  else s

/-! ## The security mailbox (R282) -/

/-- The message in the mailbox is one that a row of the instruction table answers: an SPDM request with a code, or a
request of the key service with a known OP. -/
def State.mailKnown (s : State) : Bool :=
  (s.mailClass == 1 && decide (2 ≤ s.mailLen)) ||
    (s.mailClass == 2 && decide (1 ≤ s.mailLen ∧ 1 ≤ s.bodyNat 0 1 ∧ s.bodyNat 0 1 ≤ 5))

/-- The doorbell is written (R282): ignored while a request is processed; a message of no known kind is answered with an
error at once. -/
def State.doorbell (s : State) (v : Word) : State :=
  if s.sec.busy || !v.getLsbD 0 then s
  else
    let t := s.onSec fun x => { x with busy := true, ready := false }
    if s.mailKnown then t
    else if s.mailClass = 1 then t.mailReply 1 [0x12, 0x7F, if s.dev.early then 0x03 else 0x01, 0]
    else t.mailReply s.mailClass [1]

/-! ## MSI-X tables (R23, R24) -/

/-- A doubleword of a function's table of 64 entries of 16 bytes: the address, and the data with the mask bit over it. -/
def State.msixRead (s : State) (fn off : Nat) : Word :=
  let v := leNat (getBytes s.dev.msix (1024 * fn + off) 8)
  if off % 16 = 0 then BitVec.ofNat 64 v
  else BitVec.ofNat 64 (v % 2 ^ 32 + bitNat (!s.dev.unmasked.contains (64 * fn + off / 16)) * 2 ^ 32)

/-- A write of 4 or 8 bytes into a function's table: the mask bit is the only one of a vector's control that is held. -/
def State.msixWrite (s : State) (fn off : Nat) (wide : Bool) (v : Word) : State :=
  let put (n : Nat) : State := { s with dev := { s.dev with msix := putBytes s.dev.msix (1024 * fn + off) (leBytes v.toNat n) } }
  if off % 16 = 12 then s.maskMsi fn (off / 16) (v.getLsbD 0)
  else if off % 16 = 8 && wide then (put 4).maskMsi fn (off / 16) (v.getLsbD 32)
  else put (if wide then 8 else 4)

/-- The pending bits of a function, one for each vector. -/
def State.pbaRead (s : State) (fn : Nat) : Word :=
  BitVec.ofNat 64 ((List.range 64).foldl (fun a v => a + bitNat (s.dev.pba.contains (64 * fn + v)) * 2 ^ v) 0)

/-! ## BAR0 (R24) -/

/-- DEVID (R25). -/
def devId : Word := BitVec.ofNat 64 (0x0C29 * 2 ^ 16 + Config.stepping.toNat * 2 ^ 8 + 0xF)

/-- A doubleword of the physical function's BAR0 reads, at a multiple of 8 (R24). -/
def State.bar0Read (s : State) (off : Nat) : Word :=
  let mem : Word := BitVec.ofNat 64 (leNat (getBytes s.dev.bar0 off 8))
  if off = 0 then devId
  else if off = 0x10 then s.dev.bootst.zeroExtend 64
  else if off = 0x18 then s.dev.rstcause.zeroExtend 64
  else if off = 0x20 then s.dev.bar2
  else if off = 0x1000 then BitVec.ofNat 64 s.dev.pwrcap
  else if off = 0x1008 then BitVec.ofNat 64 (fieldAt s.dev.clock 16 + s.dev.power)
  else if 0x10000 ≤ off ∧ off < 0x11000 then (s.queue ((off - 0x10000) / 0x40)).read (off % 0x40)
  else if 0x100000 ≤ off ∧ off < 0x200000 then mem
  else if off = 0x20FFF8 then BitVec.ofNat 64 (fieldAt (bitNat s.sec.ready) 33 + fieldAt (bitNat s.sec.busy) 32)
  else if 0x200000 ≤ off ∧ off < 0x20FFF8 then mem
  else if 0x300000 ≤ off ∧ off < 0x300400 then s.msixRead 0 (off - 0x300000)
  else if off = 0x308000 then s.pbaRead 0
  else if 0x400000 ≤ off ∧ off < 0x800000 then mem
  else 0

/-- A write of 4 or 8 bytes into the physical function's BAR0, aligned to its size (R24). -/
def State.bar0Write (s : State) (off : Nat) (wide : Bool) (v : Word) : State :=
  let n := if wide then 8 else 4
  let store : State := { s with dev := { s.dev with bar0 := putBytes s.dev.bar0 off (leBytes v.toNat n) } }
  if off = 0x18 then
    if v.getLsbD 8 then { s with dev := { s.dev with rstcause := s.dev.rstcause &&& 0xFFFFFEFF } } else s
  else if 0x20 ≤ off ∧ off < 0x28 then { s with dev := { s.dev with bar2 := mergeBytes s.dev.bar2 (off % 8) n v } }
  else if off = 0x1000 then { s with dev := { s.dev with pwrcap := capOf (v.extractLsb' 0 32) } }
  else if 0x10000 ≤ off ∧ off < 0x11000 then s.queueWrite ((off - 0x10000) / 0x40) (off % 0x40) false wide v
  else if 0x100000 ≤ off ∧ off < 0x200000 then store
  else if 0x200000 ≤ off ∧ off < 0x208000 then store
  else if off = 0x20FFF8 then s.doorbell v
  else if 0x300000 ≤ off ∧ off < 0x300400 then s.msixWrite 0 (off - 0x300000) wide v
  else if 0x400000 ≤ off ∧ off < 0x800000 then store
  else s

/-- The queue that a virtual function sees at a place of its BAR0 (R232). -/
def State.vfQueue (s : State) (w i : Nat) : Option Nat :=
  ((List.range 64).filter fun n => (s.queue n).world == w)[i]?

/-- A write into the BAR0 of a virtual function: the blocks of its world's queues (R23, R232), and its MSI-X table (R24), which
the model places at 0x8000 with the pending bits at 0xC000 (DESIGN CHOICE, log entry 125). -/
def State.vfWrite (s : State) (w off : Nat) (wide : Bool) (v : Word) : State :=
  if !s.worldExists w then s
  else if 0x8000 ≤ off then (if off < 0x8400 then s.msixWrite (w + 1) (off - 0x8000) wide v else s)
  else match s.vfQueue w (off / 0x40) with
    | some n => s.queueWrite n (off % 0x40) true wide v
    | none => s

/-- A doubleword of a virtual function's BAR0 reads (R23, R232). -/
def State.vfRead (s : State) (w off : Nat) : Word :=
  if !s.worldExists w then 0
  else if 0x8000 ≤ off then
    (if off < 0x8400 then s.msixRead (w + 1) (off - 0x8000) else if off = 0xC000 then s.pbaRead (w + 1) else 0)
  else match s.vfQueue w (off / 0x40) with
    | some n => (s.queue n).read (off % 0x40)
    | none => 0

/-- Where REGISTER_WRITE writes: an offset that is aligned to the width. -/
def State.regWrite (s : State) (r : RegAt) (v : Word) : State :=
  match r with
  | .loc d a => s.localWrite d (a / 8 * 8) 8 v
  | .csr d n => s.customWrite d n v
  | .bar0 off wide => s.bar0Write (if wide then off / 8 * 8 else off / 4 * 4) wide v
  | .vf fn off wide => s.vfWrite (fn - 1) (if wide then off / 8 * 8 else off / 4 * 4) wide v

/-- The part that REGISTER_WRITE names exists. -/
def regOk : RegAt → Bool
  | .loc d _ => decide (d < 4)
  | .csr d _ => decide (d < 4)
  | .bar0 _ _ => true
  | .vf fn _ _ => decide (1 ≤ fn ∧ fn ≤ 8)

/-- REGISTER_WRITE: the fields of a register are updated by their access types (R5). -/
def execRegisterWrite (r : RegAt) (v : Word) (s : State) : Host.Outcome State Fault Refusal :=
  if regOk r then .next (s.regWrite r v) else .fault .noSuchPart

/-! ## BAR2 (R24, R280) -/

/-- The host reads a byte, or the access goes wrong: the bytes that it meets on the way. -/
inductive HostByte where
  | cell (a : Nat) (key : Option Nat) (loc : Option (Nat × Bool))
  /-- sealed: zeros, and SEAL-DBG (R280) -/
  | sealed (a : Nat)
  /-- no such byte: a fault is reported -/
  | bad (code : FCode) (a : Nat)
  /-- the world or the window has no such byte: zeros, and no report -/
  | none
  deriving DecidableEq, Repr

/-- A byte of the physical function's window, within the size of its BAR2: HBM as it is stored (R24, R280). -/
def State.pfByte (s : State) (off : Nat) : HostByte :=
  let a := s.dev.bar2.toNat + off
  if 2 ^ 39 ≤ a || 2 ^ s.dev.bar2Log ≤ off then .none
  else if (Map.find s.mem.sealed (a / 4096)).isSome then .sealed a
  else if s.mem.retired.contains (channelOf a) then .bad .pgNp a
  else .cell a Option.none Option.none

/-- A byte of a virtual function's window: offset o is virtual address o of its world (R280). -/
def State.vfByte (s : State) (w off : Nat) (write : Bool) : HostByte :=
  if !s.worldExists w then .none
  else
    let k : XKind := { write := write, fetch := false, sealing := Option.none, sealCode := .sealDbg }
    match s.xlate [] w Option.none k (BitVec.ofNat 64 off) with
    | .error x => if x.code = .sealDbg then .sealed off else .bad x.code x.addr.toNat
    | .ok x =>
      if (Map.find s.mem.sealed (x.cell / 4096)).isSome then .sealed x.cell
      else .cell x.cell x.key (some (x.entry.loc, write))

/-- A byte of a function's window. -/
def State.barByte (s : State) (fn off : Nat) (write : Bool) : HostByte :=
  if fn = 0 then s.pfByte off else s.vfByte (fn - 1) off write

/-- The byte is in a channel that is paused (R33). -/
def State.byteWaits (s : State) : HostByte → Bool
  | .cell a _ _ => !s.mem.serves a
  | .sealed _ | .bad _ _ | .none => false

/-- The die that is told of a host access that met a sealed frame or a fault: the home of the address. -/
def State.hostReport (s : State) : HostByte → State
  | .sealed a => s.notify (homeDie a % 4) (.report .sealDbg (BitVec.ofNat 64 a).toNat)
  | .bad c a => s.notify (homeDie a % 4) (.report c a)
  | .cell _ _ (some (loc, w)) => s.setPageBits loc (if w then 0x30 else 0x10)
  | .cell _ _ Option.none | .none => s

/-- Each different thing that a run of bytes meets is reported once. -/
def State.hostReports (s : State) (bs : List HostByte) : State :=
  let one (b : HostByte) : Bool := match b with
    | .sealed _ | .bad _ _ => true
    | .cell _ _ _ | .none => false
  let s := (bs.filter fun b => !one b).foldl (fun (s : State) b => s.hostReport b) s
  match bs.filter one with
  | [] => s
  | b :: _ => s.hostReport b

/-- The value of a byte that the host reads. -/
def State.hostValue (s : State) (b : HostByte) : Byte :=
  match b with
  | .cell a key _ => (eccByte a key)
  | .sealed _ | .none => 0
  | .bad _ _ => Config.openByte s.fresh
where
  /-- The byte at its home, under a key. -/
  eccByte (a : Nat) (key : Option Nat) : Byte := s.byteAs (fun x => (s.mem.atHome x).val) key a

/-- A read through BAR2: its bytes are what the host has seen last. -/
def State.hostRead (s : State) (fn off n : Nat) : State :=
  let bs := (List.range n).map fun i => s.barByte fn (off + i) false
  if bs.any s.byteWaits then s
  else
    let got := bs.map s.hostValue
    let s := (s.hostReports bs).bump
    { s with dev := { s.dev with seen := got } }

/-- A part of a host write lands (R24: plain accesses): the bytes of it that memory takes, in one write (R198). -/
def State.hostPut (s : State) (bs : List (HostByte × Byte)) : State :=
  let part (x : HostByte × Byte) : Option WritePart := match x.1 with
    | .cell a key _ => some (.issue a [x.2] key false)
    | .sealed _ | .bad _ _ | .none => none
  let join (l : List WritePart) : List WritePart := match l with
    | [] => []
    | p :: _ => [{ p with data := l.flatMap fun q => q.data }]
  let parts := bs.filterMap part
  if parts.isEmpty then s
  else (s.sendWrite (.issue 4 .other 0 0 false (join parts) none [])).homePerform s.fresh 0

/-- A write through BAR2 (R24, R280): one of 2, 4 or 8 bytes at a multiple of its size is seen whole, the bytes of any other
one by one (R198). A sealed frame drops it. -/
def State.hostStore (s : State) (fn off : Nat) (data : List Byte) : State :=
  let bs := ((List.range data.length).map fun i => s.barByte fn (off + i) true)
  if bs.any s.byteWaits then s
  else
    let xs := bs.zip data
    (atomParts off data.length).foldl (fun (s : State) p => s.hostPut ((xs.drop p.1).take p.2)) (s.hostReports bs)

/-- HOST_BAR2_ACCESS (R24, R280). -/
def execHostBar2Access (fn off : Nat) (req : HostReq) (s : State) : Host.Outcome State Fault Refusal :=
  if 8 < fn then .fault .noSuchPart
  else match req with
    | .read n => .next (s.hostRead fn off n)
    | .write data => .next (s.hostStore fn off data)

/-! ## The debug port (R284) -/

/-- DEBUG_PORT_READ: bytes as they are stored; a sealed frame, and any Pantry, gives zeros and raises SEAL-DBG (R284). -/
def State.debugRead (s : State) (a : DebugAt) : State :=
  match a with
  | .mem a n =>
    let hit := (List.range n).any fun i => (Map.find s.mem.sealed ((a + i) / 4096)).isSome
    let got := (List.range n).map fun i =>
      if (Map.find s.mem.sealed ((a + i) / 4096)).isSome then 0 else (s.storedBytes (a + i) 1).headD 0
    let s := if hit then s.notify (homeDie a % 4) (.report .sealDbg a) else s
    { s with dev := { s.dev with seen := got } }
  | .pantry d _ a n =>
    let s := s.notify d (.report .sealDbg a)
    { s with dev := { s.dev with seen := List.replicate n 0 } }

/-- DEBUG_PORT_READ (R284). -/
def execDebugPortRead (a : DebugAt) (s : State) : Host.Outcome State Fault Refusal :=
  match a with
  | .mem a n => if a + n ≤ 2 ^ 39 then .next (s.debugRead (.mem a n)) else .fault .noSuchPart
  | .pantry d c a n => if d < 4 && c < 128 then .next (s.debugRead (.pantry d c a n)) else .fault .noSuchPart

end Sys2Proof.Machine
end

