-- ==== Sys2Proof/Machine/Rvc.lean ====
section
/-! DEFINITION. The compressed instructions of the management core (12_scheduling R242: the C extension of RV64GC): each
is the 32-bit instruction it stands for. -/

namespace Sys2Proof.Machine

/-- Bits hi down to lo of a number. -/
def bitsOf (w hi lo : Nat) : Nat := w / 2 ^ lo % 2 ^ (hi + 1 - lo)

/-- The number of a signed field of a width, as a residue of 2^64. -/
def signExt (v n : Nat) : Nat := if v.testBit (n - 1) then 2 ^ 64 - 2 ^ n + v else v

/-- An R-type word. -/
def rType (f7 rs2 rs1 f3 rd op : Nat) : Nat := f7 * 2 ^ 25 + rs2 * 2 ^ 20 + rs1 * 2 ^ 15 + f3 * 2 ^ 12 + rd * 2 ^ 7 + op
/-- An I-type word. -/
def iType (imm rs1 f3 rd op : Nat) : Nat := imm % 4096 * 2 ^ 20 + rs1 * 2 ^ 15 + f3 * 2 ^ 12 + rd * 2 ^ 7 + op
/-- An S-type word. -/
def sType (imm rs2 rs1 f3 op : Nat) : Nat :=
  bitsOf imm 11 5 * 2 ^ 25 + rs2 * 2 ^ 20 + rs1 * 2 ^ 15 + f3 * 2 ^ 12 + bitsOf imm 4 0 * 2 ^ 7 + op
/-- A B-type word. -/
def bType (imm rs2 rs1 f3 : Nat) : Nat :=
  bitsOf imm 12 12 * 2 ^ 31 + bitsOf imm 10 5 * 2 ^ 25 + rs2 * 2 ^ 20 + rs1 * 2 ^ 15 + f3 * 2 ^ 12 +
    bitsOf imm 4 1 * 2 ^ 8 + bitsOf imm 11 11 * 2 ^ 7 + 0x63
/-- A J-type word. -/
def jType (imm rd : Nat) : Nat :=
  bitsOf imm 20 20 * 2 ^ 31 + bitsOf imm 10 1 * 2 ^ 21 + bitsOf imm 11 11 * 2 ^ 20 + bitsOf imm 19 12 * 2 ^ 12 +
    rd * 2 ^ 7 + 0x6F

/-- The six-bit immediate of C.ADDI and its like, sign-extended. -/
def rvcImm6 (h : Nat) : Nat := signExt (bitsOf h 12 12 * 32 + bitsOf h 6 2) 6

/-- Quadrant 0. -/
def rvc0 (h : Nat) : Option Nat :=
  let rd := 8 + bitsOf h 4 2
  let rs1 := 8 + bitsOf h 9 7
  let d := bitsOf h 12 10 * 8 + bitsOf h 6 5 * 64
  let w := bitsOf h 12 10 * 8 + bitsOf h 6 6 * 4 + bitsOf h 5 5 * 64
  match bitsOf h 15 13 with
  | 0 =>
    let imm := bitsOf h 10 7 * 64 + bitsOf h 12 11 * 16 + bitsOf h 5 5 * 8 + bitsOf h 6 6 * 4
    if imm = 0 then none else some (iType imm 2 0 rd 0x13)
  | 1 => some (iType d rs1 3 rd 0x07)
  | 2 => some (iType w rs1 2 rd 0x03)
  | 3 => some (iType d rs1 3 rd 0x03)
  | 5 => some (sType d rd rs1 3 0x27)
  | 6 => some (sType w rd rs1 2 0x23)
  | 7 => some (sType d rd rs1 3 0x23)
  | _ => none

/-- The arithmetic of quadrant 1. -/
def rvcArith (h : Nat) : Option Nat :=
  let rd := 8 + bitsOf h 9 7
  let rs2 := 8 + bitsOf h 4 2
  let sh := bitsOf h 12 12 * 32 + bitsOf h 6 2
  match bitsOf h 11 10 with
  | 0 => some (iType sh rd 5 rd 0x13)
  | 1 => some (iType (sh + 1024) rd 5 rd 0x13)
  | 2 => some (iType (rvcImm6 h) rd 7 rd 0x13)
  | _ =>
    match bitsOf h 12 12, bitsOf h 6 5 with
    | 0, 0 => some (rType 32 rs2 rd 0 rd 0x33)
    | 0, 1 => some (rType 0 rs2 rd 4 rd 0x33)
    | 0, 2 => some (rType 0 rs2 rd 6 rd 0x33)
    | 0, _ => some (rType 0 rs2 rd 7 rd 0x33)
    | _, 0 => some (rType 32 rs2 rd 0 rd 0x3B)
    | _, 1 => some (rType 0 rs2 rd 0 rd 0x3B)
    | _, _ => none

/-- Quadrant 1. -/
def rvc1 (h : Nat) : Option Nat :=
  let rd := bitsOf h 11 7
  let rs1 := 8 + bitsOf h 9 7
  let branch := signExt (bitsOf h 12 12 * 256 + bitsOf h 11 10 * 8 + bitsOf h 6 5 * 64 + bitsOf h 4 3 * 2 + bitsOf h 2 2 * 32) 9
  match bitsOf h 15 13 with
  | 0 => some (iType (rvcImm6 h) rd 0 rd 0x13)
  | 1 => if rd = 0 then none else some (iType (rvcImm6 h) rd 0 rd 0x1B)
  | 2 => some (iType (rvcImm6 h) 0 0 rd 0x13)
  | 3 =>
    if rd = 2 then
      let imm := bitsOf h 12 12 * 512 + bitsOf h 6 6 * 16 + bitsOf h 5 5 * 64 + bitsOf h 4 3 * 128 + bitsOf h 2 2 * 32
      if imm = 0 then none else some (iType (signExt imm 10) 2 0 2 0x13)
    else if rvcImm6 h = 0 then none
    else some (rvcImm6 h % 2 ^ 20 * 4096 + rd * 2 ^ 7 + 0x37)
  | 4 => rvcArith h
  | 5 =>
    let imm := bitsOf h 12 12 * 2048 + bitsOf h 11 11 * 16 + bitsOf h 10 9 * 256 + bitsOf h 8 8 * 1024 +
      bitsOf h 7 7 * 64 + bitsOf h 6 6 * 128 + bitsOf h 5 3 * 2 + bitsOf h 2 2 * 32
    some (jType (signExt imm 12) 0)
  | 6 => some (bType branch 0 rs1 0)
  | _ => some (bType branch 0 rs1 1)

/-- Quadrant 2. -/
def rvc2 (h : Nat) : Option Nat :=
  let rd := bitsOf h 11 7
  let rs2 := bitsOf h 6 2
  let ld := bitsOf h 12 12 * 32 + bitsOf h 6 5 * 8 + bitsOf h 4 2 * 64
  let sd := bitsOf h 12 10 * 8 + bitsOf h 9 7 * 64
  match bitsOf h 15 13 with
  | 0 => some (iType (bitsOf h 12 12 * 32 + rs2) rd 1 rd 0x13)
  | 1 => some (iType ld 2 3 rd 0x07)
  | 2 => if rd = 0 then none
    else some (iType (bitsOf h 12 12 * 32 + bitsOf h 6 4 * 4 + bitsOf h 3 2 * 64) 2 2 rd 0x03)
  | 3 => if rd = 0 then none else some (iType ld 2 3 rd 0x03)
  | 4 =>
    match bitsOf h 12 12, rs2 with
    | 0, 0 => if rd = 0 then none else some (iType 0 rd 0 0 0x67)
    | 0, r => some (rType 0 r 0 0 rd 0x33)
    | _, 0 => if rd = 0 then some 0x00100073 else some (iType 0 rd 0 1 0x67)
    | _, r => some (rType 0 r rd 0 rd 0x33)
  | 5 => some (sType sd rs2 2 3 0x27)
  | 6 => some (sType (bitsOf h 12 9 * 4 + bitsOf h 8 7 * 64) rs2 2 2 0x23)
  | _ => some (sType sd rs2 2 3 0x23)

/-- The 32-bit instruction that a compressed one stands for; none for a reserved encoding. -/
def rvcExpand (h : Nat) : Option Nat :=
  match h % 4 with
  | 0 => rvc0 h
  | 1 => rvc1 h
  | 2 => rvc2 h
  | _ => none

end Sys2Proof.Machine
end

