-- ==== Sys2Proof/Machine/HartMem.lean ====
section
/-! DEFINITION. The CSRs of the management core's hart, its physical memory protection, and its accesses (12_scheduling
R242, R243; 09_ordering R187, R190; 15_security R279, R284). -/

namespace Sys2Proof.Machine

/-! ## CSRs -/

/-- A standard CSR that holds a value of its own. -/
def HartSt.reg (h : HartSt) (n : Nat) : Word := Map.get h.csr 0 n

/-- Write a standard CSR. -/
def HartSt.put (h : HartSt) (n : Nat) (v : Word) : HartSt := { h with csr := Map.put h.csr n v }

/-- The bits of mstatus that are written: MIE, MPIE, MPP, FS, MPRV, TW. -/
def mstatusMask : Nat := 0x227888

/-- mstatus as it reads: UXL is 2, SD follows FS. -/
def HartSt.mstatus (h : HartSt) : Word :=
  let v := h.reg 0x300
  v ||| 0x200000000 ||| (if v.extractLsb' 13 2 = 3 then 0x8000000000000000 else 0)

/-- Write mstatus: MPP holds 0 or 3 only. -/
def HartSt.putMstatus (h : HartSt) (v : Word) : HartSt :=
  let mpp := v.extractLsb' 11 2
  let v := v &&& BitVec.ofNat 64 mstatusMask
  h.put 0x300 (if mpp = 0 || mpp = 3 then v else (v &&& ~~~0x1800) ||| (h.reg 0x300 &&& 0x1800))

/-- MIE. -/
def HartSt.mie (h : HartSt) : Bool := (h.reg 0x300).getLsbD 3
/-- FS is not Off. -/
def HartSt.fpOn (h : HartSt) : Bool := (h.reg 0x300).extractLsb' 13 2 != 0
/-- FS is Dirty. -/
def HartSt.fpDirty (h : HartSt) : HartSt := h.put 0x300 (h.reg 0x300 ||| 0x6000)

/-- A notice that local interrupt 20 stands for (R242). -/
def State.unitNotices (s : State) (d : Nat) : Bool :=
  (s.die d).notices.any fun n => match n with
    | .pageFault _ | .heartbeat | .timer => false
    | .nodeFault .. | .numEvent .. | .report .. | .linkFailure _ | .capsule _ | .watchdog _ | .busy | .laneLoss _ => true

/-- A unit of a launch homed on the die has reported its end (R242). -/
def State.reportWaits (s : State) (d : Nat) : Bool :=
  s.work.objs.any fun o => o.home == d && o.units.any fun u => u.stage == .reporting

/-- mip (R242). -/
def State.mip (s : State) (d : Nat) : Word :=
  let b (v : Bool) (n : Nat) : Nat := fieldAt (bitNat v) n
  let queues := (List.range 64).any fun n => (s.queue n).en && (s.queue n).sqw != (s.queue n).sqr
  let faults := s.mem.faults.any fun (p : Nat × PageFault) => p.2.who.die == d
  BitVec.ofNat 64
    (b (s.timerPending d) 7 + b queues 16 + b (!(s.die d).sched.submits.isEmpty) 17 + b faults 18 +
     b (!(s.die d).rm.queue.isEmpty) 19 + b (s.unitNotices d || s.reportWaits d) 20 + b (s.die d).sched.half 21)

/-- The bits of mie. -/
def mieMask : Word := 0x3F0080

/-- The interrupts that are pending and enabled. -/
def State.pendingIrqs (s : State) (d : Nat) : Word := s.mip d &&& (s.mgmt d).hart.reg 0x304

/-- The interrupt that is taken: the timer first, then the local ones in rising order. -/
def State.irq (s : State) (d : Nat) : Option Nat :=
  let h := (s.mgmt d).hart
  let p := s.pendingIrqs d
  if h.mach && !h.mie then none
  else [7, 16, 17, 18, 19, 20, 21].find? fun n => p.getLsbD n

/-- misa: RV64 with A, C, D, F, I, M, U (R242). -/
def misaValue : Word := 0x800000000010112D

/-- A byte of the PMP configuration. -/
def HartSt.pmpCfg (h : HartSt) (i : Nat) : Nat := ((h.reg (0x3A0 + i / 8 * 2)).extractLsb' (i % 8 * 8) 8).toNat
/-- A of an entry. -/
def pmpA (cfg : Nat) : Nat := cfg / 8 % 4
/-- L of an entry. -/
def pmpL (cfg : Nat) : Bool := cfg.testBit 7

/-- pmpaddr as it reads, at a granularity of 4 KiB. -/
def HartSt.pmpAddr (h : HartSt) (i : Nat) : Word :=
  let v := h.reg (0x3B0 + i)
  if 2 ≤ pmpA (h.pmpCfg i) then v ||| 0x1FF else v &&& ~~~0x3FF

/-- An entry's configuration after a write: a locked one stays, NA4 and W without R are not taken. -/
def pmpCfgNew (old new : Nat) : Nat :=
  let new := new % 32 + new / 128 * 128
  if pmpL old || pmpA new = 2 || (new % 4 = 2) then old else new

/-- A CSR exists. -/
def csrExists (n : Nat) : Bool :=
  [0x001, 0x002, 0x003, 0xC00, 0xC01, 0xC02, 0xF11, 0xF12, 0xF13, 0xF14, 0xF15, 0x300, 0x301, 0x304, 0x305, 0x306, 0x30A,
    0x320, 0x340, 0x341, 0x342, 0x343, 0x344, 0x3A0, 0x3A2, 0xB00, 0xB02].contains n ||
  decide (0xC03 ≤ n ∧ n ≤ 0xC1F) || decide (0xB03 ≤ n ∧ n ≤ 0xB1F) || decide (0x323 ≤ n ∧ n ≤ 0x33F) ||
  decide (0x3B0 ≤ n ∧ n ≤ 0x3BF) || decide (0x7C0 ≤ n ∧ n ≤ 0x7C7)

/-- The hart may access a CSR: its privilege, mcounteren, FS, and read-only CSRs. -/
def HartSt.csrOk (h : HartSt) (n : Nat) (write : Bool) : Bool :=
  csrExists n && (h.mach || n / 256 % 4 == 0) && !(write && n / 1024 == 3) &&
  (h.fpOn || !decide (n ≤ 3)) &&
  (h.mach || !decide (0xC00 ≤ n ∧ n ≤ 0xC1F) || (h.reg 0x306).getLsbD (n % 32))

/-- What a CSR reads. -/
def State.csrRead (s : State) (d n : Nat) : Word :=
  let h := (s.mgmt d).hart
  match s.customRead d n with
  | some v => v
  | none =>
    if n = 0x001 then h.reg 3 &&& 0x1F
    else if n = 0x002 then (h.reg 3 >>> 5) &&& 7
    else if n = 0xC00 then h.reg 0xB00
    else if n = 0xC01 then BitVec.ofNat 64 (s.die d).cyc
    else if n = 0xC02 then h.reg 0xB02
    else if n = 0xF12 then 0x0C29
    else if n = 0xF13 then Config.coreRevision
    else if n = 0xF14 then BitVec.ofNat 64 d
    else if n = 0x300 then h.mstatus
    else if n = 0x301 then misaValue
    else if n = 0x344 then s.mip d
    else if 0x3B0 ≤ n ∧ n ≤ 0x3BF then h.pmpAddr (n - 0x3B0)
    else if [3, 0x304, 0x305, 0x306, 0x30A, 0x320, 0x340, 0x341, 0x342, 0x343, 0x3A0, 0x3A2, 0xB00, 0xB02].contains n then h.reg n
    else 0

/-- The PMP configuration after a write of pmpcfg0 or pmpcfg2. -/
def HartSt.putPmpCfg (h : HartSt) (n : Nat) (v : Word) : HartSt :=
  let base := (n - 0x3A0) / 2 * 8
  let bs := (List.range 8).map fun i => BitVec.ofNat 8 (pmpCfgNew (h.pmpCfg (base + i)) (v.extractLsb' (8 * i) 8).toNat)
  h.put n (BitVec.ofNat 64 (leNat bs))

/-- pmpaddr is written, unless it is locked. -/
def HartSt.putPmpAddr (h : HartSt) (i : Nat) (v : Word) : HartSt :=
  let next := h.pmpCfg (i + 1)
  if pmpL (h.pmpCfg i) || (i < 15 && pmpL next && pmpA next == 1) then h
  else h.put (0x3B0 + i) (v &&& 0x3FFFFFFFFFFFFF)

/-- A standard CSR is written; a write of minstret stands in place of the instruction's own count. -/
def HartSt.csrPut (h : HartSt) (n : Nat) (v : Word) : HartSt :=
  if n = 0x001 then (h.put 3 ((h.reg 3 &&& 0xE0) ||| (v &&& 0x1F))).fpDirty
  else if n = 0x002 then (h.put 3 ((h.reg 3 &&& 0x1F) ||| ((v &&& 7) <<< 5))).fpDirty
  else if n = 0x003 then (h.put 3 (v &&& 0xFF)).fpDirty
  else if n = 0x300 then h.putMstatus v
  else if n = 0x304 then h.put n (v &&& mieMask)
  else if n = 0x305 then h.put n (if v.getLsbD 1 then (h.reg n &&& 3) ||| (v &&& ~~~3) else v)
  else if n = 0x306 then h.put n (v &&& 7)
  else if n = 0x30A then h.put n (v &&& 1)
  else if n = 0x320 then h.put n (v &&& 5)
  else if n = 0x341 then h.put n (v &&& ~~~1)
  else if n = 0x3A0 || n = 0x3A2 then h.putPmpCfg n v
  else if 0x3B0 ≤ n ∧ n ≤ 0x3BF then h.putPmpAddr (n - 0x3B0) v
  else if n = 0xB02 then h.put n (if (h.reg 0x320).getLsbD 2 then v else v - 1)
  else if [0x340, 0x342, 0x343, 0xB00].contains n then h.put n v
  else h

/-- Change the hart of a die. -/
def State.onHart (s : State) (d : Nat) (f : HartSt → HartSt) : State := s.onMgmt d fun x => { x with hart := f x.hart }

/-- A CSR is written; a write of mip that clears bit 20 takes the notices that stand. -/
def State.csrWrite (s : State) (d n : Nat) (v : Word) : State :=
  if 0x7C0 ≤ n ∧ n ≤ 0x7C7 then s.customWrite d n v
  else if n = 0x344 then if v.getLsbD 20 then s else s.onDie d fun x => { x with notices := [] }
  else s.onHart d fun h => h.csrPut n v

/-! ## Memory protection -/

/-- An access of the hart. -/
inductive HartAcc where
  | fetch | load | store
  deriving DecidableEq, Repr

/-- The range of an entry: first address and the one after the last. -/
def HartSt.pmpRange (h : HartSt) (i : Nat) : Nat × Nat :=
  let cfg := h.pmpCfg i
  let a := (h.reg (0x3B0 + i)).toNat
  match pmpA cfg with
  | 0 => (0, 0)
  | 1 =>
    let lo := if i = 0 then 0 else (h.reg (0x3B0 + i - 1)).toNat / 1024 * 4096
    (lo, a / 1024 * 4096)
  | _ =>
    let v := a ||| 0x1FF
    let ones := trailOnes v 54
    let size := 2 ^ (ones + 3)
    (v * 4 / size * size, v * 4 / size * size + size)
where
  /-- The number of ones below the lowest zero. -/
  trailOnes (v : Nat) : Nat → Nat
    | 0 => 0
    | n + 1 => if v % 2 = 1 then 1 + trailOnes (v / 2) n else 0

/-- The PMP lets an access through: the lowest entry that matches a byte of it decides. -/
def HartSt.pmpOk (h : HartSt) (mach : Bool) (k : HartAcc) (a n : Nat) : Bool :=
  let hit (i : Nat) : Bool := let r := h.pmpRange i; decide (r.1 < a + n ∧ a < r.2)
  match (List.range 16).find? hit with
  | none => mach
  | some i =>
    let r := h.pmpRange i
    let cfg := h.pmpCfg i
    let bit := match k with
      | .load => cfg.testBit 0
      | .store => cfg.testBit 1
      | .fetch => cfg.testBit 2
    decide (r.1 ≤ a ∧ a + n ≤ r.2) && ((mach && !pmpL cfg) || bit)

/-- The mode of a load or store: that of MPP while MPRV is set. -/
def HartSt.dataMode (h : HartSt) : Bool :=
  if h.mach && (h.reg 0x300).getLsbD 17 then (h.reg 0x300).extractLsb' 11 2 == 3 else h.mach

/-! ## Accesses -/

/-- What an access gives. -/
inductive HartMem where
  | got (s : State) (v : Nat)
  | fault
  /-- it waits for its place in order -/
  | wait
  deriving DecidableEq, Repr

/-- Where a hart address leads: SRAM, a register or a mailbox, or global memory under a world's memory key. -/
inductive HartPlace where
  | sram (a : Nat)
  | loc (a : Nat)
  | glob (cell : Nat) (key : Option Nat)
  | none
  deriving DecidableEq, Repr

/-- The place of a hart address (log entry 87): bit 55 set names the physical address in bits 51:0, under the memory key of
the world in bits 54:52; a page of host memory is not encrypted (R279). -/
def State.hartPlace (s : State) (a : Nat) : HartPlace :=
  if a < 0x400000 then .sram a
  else if localMapped a then .loc a
  else if a / 2 ^ 55 = 1 then
    let pa := a % 2 ^ 52
    let k := s.keys.slot (a / 2 ^ 52 % 8)
    if pa.testBit 43 then .glob (s.cell pa) Option.none
    else if k.phase ≠ .active then .none
    else .glob (s.cell pa) (some k.ring)
  else .none

/-- The management core's writes, or writes that it has read from, are not yet as FENCE.SYS wants them: acknowledged and
applied everywhere (R186, R197, R200). -/
def State.mgmtPending (s : State) (d : Nat) : Bool :=
  (s.mem.writes.any fun w => w.src == .mgmt d && !w.ackedIn .sys d) ||
  (s.liveOf (s.mgmt d).order.readW).any fun n => !allDies.all fun e => s.isApplied e n

/-- The writes that happen before an access of a management core: its accesses are causal, in program order (R186, R192). -/
def State.mgmtAfter (s : State) (d : Nat) : List Nat :=
  s.liveOf (joinIds (s.mgmt d).order.afterA (s.mgmt d).order.afterC)

/-- What comes before an access of a management core is there: its die's clock has reached what the core acquired, and its die
has applied the writes that happen before the access (R190 step 4, R192). -/
def State.mgmtReady (s : State) (d : Nat) : Bool :=
  Stamp.covers (s.vc d) (s.mgmt d).order.acq && (s.mgmtAfter d).all fun n => s.isApplied d n

/-- A byte may be read by a management core: no write that it must see is missing (R191, R195), and its channel serves it
(R33). A write of its own that another package or the host has not performed is waited for. -/
def State.mgmtByteReady (s : State) (d a : Nat) (home : Bool) : Bool :=
  let o := (s.mgmt d).order
  let x := if home then s.mem.atHome a else s.mem.view d a
  s.mem.serves a && (x.own || max (Map.get o.fence 0 a) (Map.get o.causal 0 a) ≤ x.idx) && !s.amoOpen d a &&
  !(s.mem.writes.any fun w => w.src == .mgmt d && !w.allDone && (home || cellRemote a) &&
      w.parts.any fun p => p.pa ≤ a && a < p.pa + p.data.length)

/-- Bytes of global memory as the hart reads them: zeros from a sealed frame, with SEAL-DBG (R284). A read is causal where
the memory is the package's own, and carries back what it read from (R186, R188, R190 step 3). -/
def State.globLoad (s : State) (d a : Nat) (key : Option Nat) (n : Nat) (home : Bool) : HartMem :=
  if (Map.find s.mem.sealed (a / 4096)).isSome then .got (s.notify d (.report .sealDbg a)) 0
  else if s.isRetired a then .fault
  else
    let cells := (List.range n).map fun i => a + i
    if !s.mgmtReady d || !cells.all fun x => s.mgmtByteReady d x home then .wait
    else
      let got := cells.map fun x => (x, if home then s.mem.atHome x else s.mem.view d x)
      let srcs := (got.filterMap fun x => x.2.src).dedup
      let seen := got.filterMap fun x => if x.2.own then none else some (x.1, x.2.idx)
      let causal := !cellRemote a
      let t := s.onHartOrder d fun o => (o.carry s srcs causal).floors seen causal
      .got (if home then t else t.tookLines d cells) (leNat (s.memBytes d home key a n))

/-- A store of the management core to global memory: a causal write of the die (R187, R190). -/
def State.globStore (s : State) (d pc a : Nat) (key : Option Nat) (bs : List Byte) : HartMem :=
  if (Map.find s.mem.sealed (a / 4096)).isSome then .got (s.notify d (.report .sealDbg a)) 0
  else if s.isRetired a then .fault
  else if !s.mgmtReady d then .wait
  else
    .got (s.sendWrite (.issue d (.mgmt d) (BitVec.ofNat 64 pc) 0 (!cellRemote a) [.issue a bs key false] none
      (s.mgmtAfter d))) 0

/-- The edges of a RISC-V FENCE, which acts as FENCE.SYS (R186, R192, R195, R197). -/
def State.mgmtFence (s : State) (d : Nat) : State :=
  let o := (s.mgmt d).order
  let own := (s.mem.writes.filter fun w => w.src == .mgmt d).map fun w => w.id
  (s.fixWrites (joinIds own o.readW)).onHartOrder d fun o => o.fenced .sys .full []

/-- A load of the hart, aligned to its size. -/
def State.hartLoad (s : State) (d a n : Nat) : HartMem :=
  let h := (s.mgmt d).hart
  if !h.pmpOk h.dataMode .load a n then .fault
  else match s.hartPlace a with
    | .sram a => .got s (leNat ((List.range n).map fun i => (s.mgmt d).sram (a + i)))
    | .loc a => .got s (leNat (s.localBytes d a n))
    | .glob c k => s.globLoad d c k n false
    | .none => .fault

/-- A store of the hart, aligned to its size. -/
def State.hartStore (s : State) (d a n v : Nat) : HartMem :=
  let h := (s.mgmt d).hart
  if !h.pmpOk h.dataMode .store a n then .fault
  else match s.hartPlace a with
    | .sram a =>
      .got (s.onMgmt d fun x =>
        (List.range n).foldl (fun (x : MgmtSt) i => x.sramPut (a + i) (BitVec.ofNat 8 (v / 2 ^ (8 * i)))) x) 0
    | .loc a => .got (s.localWrite d a n (BitVec.ofNat 64 v)) 0
    | .glob c k => s.globStore d h.pc.toNat c k (leBytes v n)
    | .none => .fault

/-- The bytes of a 16-bit parcel of an instruction. -/
def State.hartFetch (s : State) (d a : Nat) : HartMem :=
  let h := (s.mgmt d).hart
  if !h.pmpOk h.mach .fetch a 2 then .fault
  else match s.hartPlace a with
    | .sram a => .got s (leNat ((List.range 2).map fun i => (s.mgmt d).sram (a + i)))
    | .glob c k => s.globLoad d c k 2 false
    | .loc _ | .none => .fault

/-- The places of bytes of global memory in coherence order, which a reservation holds. -/
def State.resvIdx (s : State) (a n : Nat) : List Nat :=
  match s.hartPlace a with
  | .glob c _ => s.mem.idxOf c n
  | .sram _ | .loc _ | .none => []

/-- An atomic reads and writes global memory at its home in one step of coherence order: it waits until the writes of the
hart, and those that it comes after, have been performed there. An atomic with `store` unset only reads. -/
def State.hartAtomic (s : State) (d a n : Nat) (store : Bool) (f : Nat → Option Nat) : HartMem :=
  let h := (s.mgmt d).hart
  if !h.pmpOk h.dataMode .load a n || (store && !h.pmpOk h.dataMode .store a n) then .fault
  else match s.hartPlace a with
    | .glob c k =>
      if s.mgmtPending d || !s.mem.serves c then .wait
      else match s.globLoad d c k n true with
        | .got t v =>
          match f v with
          | none => .got t v
          | some w =>
            match t.globStore d h.pc.toNat c k (leBytes w n) with
            | .got t _ =>
              let t := t.homePerform s.fresh 0
              if t.isDone s.fresh then .got t v else .wait
            | .fault => .fault
            | .wait => .wait
        | .fault => .fault
        | .wait => .wait
    | .sram _ | .loc _ | .none =>
      match s.hartLoad d a n with
      | .got t v =>
        match f v with
        | none => .got t v
        | some w => match t.hartStore d a n w with
          | .got t _ => .got t v
          | .fault => .fault
          | .wait => .wait
      | .fault => .fault
      | .wait => .wait

end Sys2Proof.Machine
end

