-- ==== Sys2Proof/Machine/Hart.lean ====
section
/-! DEFINITION. One instruction of the management core's hart: RV64GC with Zicsr and Zifencei, in machine and user modes
(12_scheduling R242 and the two volumes it names). -/

namespace Sys2Proof.Machine

/-- What an instruction comes to: it is done, it raises an exception with its cause and mtval, or it waits. -/
inductive HartOut where
  | done (s : State)
  | trap (s : State) (cause tval : Nat)
  | wait
  deriving DecidableEq, Repr

/-! ## Registers -/

/-- An integer register. -/
def HartSt.xr (h : HartSt) (n : Nat) : Nat := (h.x.toList.getD n 0).toNat
/-- Write an integer register; x0 stays zero. -/
def HartSt.xw (h : HartSt) (n v : Nat) : HartSt :=
  if n = 0 then h else { h with x := Vector.ofFn fun i => if i.val = n then BitVec.ofNat 64 v else h.x[i] }
/-- A floating-point register. -/
def HartSt.fr (h : HartSt) (n : Nat) : Nat := (h.f.toList.getD n 0).toNat
/-- Write a floating-point register: FS becomes Dirty. -/
def HartSt.fw (h : HartSt) (n v : Nat) : HartSt :=
  { h with f := Vector.ofFn fun i => if i.val = n then BitVec.ofNat 64 v else h.f[i] }.fpDirty

/-- A value of a format in a register: one of 32 bits that is not boxed is the canonical NaN. -/
def HartSt.fv (h : HartSt) (f : FFmt) (n : Nat) : Nat :=
  let v := h.fr n
  if f = f64 then v else if v / 2 ^ 32 = 2 ^ 32 - 1 then v % 2 ^ 32 else f32.nanBits
/-- A value of a format as a register holds it: boxed when it has 32 bits. -/
def boxed (f : FFmt) (v : Nat) : Nat := if f = f64 then v else v % 2 ^ 32 + (2 ^ 64 - 2 ^ 32)

/-- A number as a signed one of 64 bits. -/
def sgn64 (v : Nat) : Int := (BitVec.ofNat 64 v).toInt
/-- A signed number as 64 bits. -/
def nat64 (v : Int) : Nat := (BitVec.ofInt 64 v).toNat
/-- The low 32 bits, sign-extended. -/
def sext32 (v : Nat) : Nat := signExt (v % 2 ^ 32) 32

/-! ## Traps (R242) -/

/-- A trap enters machine mode: mepc, mcause, mtval, the mstatus stack, mtvec. -/
def HartSt.trap (h : HartSt) (irq : Bool) (cause tval : Nat) : HartSt :=
  let st := h.reg 0x300
  let mie : Word := if st.getLsbD 3 then 0x80 else 0
  let mpp : Word := if h.mach then 0x1800 else 0
  let tv := h.reg 0x305
  let base := tv &&& ~~~3
  let h := h.put 0x300 ((st &&& ~~~0x1888) ||| mie ||| mpp)
  let h := ((h.put 0x341 h.pc).put 0x342 (BitVec.ofNat 64 (cause + if irq then 2 ^ 63 else 0))).put 0x343 (BitVec.ofNat 64 tval)
  { h with mach := true, pc := if irq && tv.getLsbD 0 then base + BitVec.ofNat 64 (4 * cause) else base }

/-- MRET. -/
def HartSt.mret (h : HartSt) : HartSt :=
  let st := h.reg 0x300
  let mie : Word := if st.getLsbD 7 then 8 else 0
  let toM := st.extractLsb' 11 2 == 3
  let keep : Word := if toM then st else st &&& ~~~0x20000
  let h := h.put 0x300 ((keep &&& ~~~0x1888) ||| mie ||| 0x80)
  { h with mach := toM, pc := h.reg 0x341 }

/-! ## Integer arithmetic -/

/-- OP and OP-IMM: f3 with the alternate bit of f7. -/
def aluOp (f3 : Nat) (alt : Bool) (a b : Nat) : Nat :=
  let x := BitVec.ofNat 64 a
  let y := BitVec.ofNat 64 b
  match f3 with
  | 0 => (if alt then x - y else x + y).toNat
  | 1 => (x <<< (b % 64)).toNat
  | 2 => if x.slt y then 1 else 0
  | 3 => if x.ult y then 1 else 0
  | 4 => (x ^^^ y).toNat
  | 5 => (if alt then x.sshiftRight (b % 64) else x >>> (b % 64)).toNat
  | 6 => (x ||| y).toNat
  | _ => (x &&& y).toNat

/-- OP-32 and OP-IMM-32. -/
def aluOpW (f3 : Nat) (alt : Bool) (a b : Nat) : Nat :=
  let x := BitVec.ofNat 32 a
  let y := BitVec.ofNat 32 b
  sext32 (match f3 with
    | 0 => (if alt then x - y else x + y).toNat
    | 1 => (x <<< (b % 32)).toNat
    | _ => (if alt then x.sshiftRight (b % 32) else x >>> (b % 32)).toNat)

/-- A signed quotient or remainder: by zero −1 or the dividend, an overflow the dividend or 0. -/
def divSigned (w : Nat) (rem : Bool) (a b : Int) : Int :=
  if b = 0 then (if rem then a else -1)
  else if a = -(2 : Int) ^ (w - 1) && b = -1 then (if rem then 0 else a)
  else if rem then Int.tmod a b else Int.tdiv a b

/-- An unsigned quotient or remainder. -/
def divUnsigned (w : Nat) (rem : Bool) (a b : Nat) : Nat :=
  if b = 0 then (if rem then a else 2 ^ w - 1) else if rem then a % b else a / b

/-- The M extension. -/
def mulOp (f3 a b : Nat) : Nat :=
  match f3 with
  | 0 => a * b % 2 ^ 64
  | 1 => nat64 (sgn64 a * sgn64 b / 2 ^ 64)
  | 2 => nat64 (sgn64 a * b / 2 ^ 64)
  | 3 => a * b / 2 ^ 64
  | 4 => nat64 (divSigned 64 false (sgn64 a) (sgn64 b))
  | 5 => divUnsigned 64 false a b
  | 6 => nat64 (divSigned 64 true (sgn64 a) (sgn64 b))
  | _ => divUnsigned 64 true a b

/-- The M extension on words. -/
def mulOpW (f3 a b : Nat) : Nat :=
  let s (v : Nat) : Int := (BitVec.ofNat 32 v).toInt
  match f3 with
  | 0 => sext32 (a * b)
  | 4 => nat64 (divSigned 32 false (s a) (s b))
  | 5 => sext32 (divUnsigned 32 false (a % 2 ^ 32) (b % 2 ^ 32))
  | 6 => nat64 (divSigned 32 true (s a) (s b))
  | _ => sext32 (divUnsigned 32 true (a % 2 ^ 32) (b % 2 ^ 32))

/-- A branch is taken. -/
def branchTaken (f3 a b : Nat) : Bool :=
  match f3 with
  | 0 => a == b
  | 1 => a != b
  | 4 => decide (sgn64 a < sgn64 b)
  | 5 => !decide (sgn64 a < sgn64 b)
  | 6 => decide (a < b)
  | _ => !decide (a < b)

/-- What an AMO of the A extension writes. -/
def hartAmo (f5 w old v : Nat) : Nat :=
  let m (x : Nat) : Nat := x % 2 ^ w
  let s (x : Nat) : Int := if w = 32 then (BitVec.ofNat 32 x).toInt else (BitVec.ofNat 64 x).toInt
  m (match f5 with
    | 0 => old + v
    | 1 => v
    | 4 => old ^^^ v
    | 8 => old ||| v
    | 12 => old &&& v
    | 16 => if s old < s v then old else v
    | 20 => if s old < s v then v else old
    | 24 => min (m old) (m v)
    | _ => max (m old) (m v))

/-! ## Fields of a word -/

/-- rd. -/
def wRd (w : Nat) : Nat := bitsOf w 11 7
/-- rs1. -/
def wRs1 (w : Nat) : Nat := bitsOf w 19 15
/-- rs2. -/
def wRs2 (w : Nat) : Nat := bitsOf w 24 20
/-- funct3. -/
def wF3 (w : Nat) : Nat := bitsOf w 14 12
/-- funct7. -/
def wF7 (w : Nat) : Nat := bitsOf w 31 25
/-- The I immediate. -/
def wImmI (w : Nat) : Nat := signExt (bitsOf w 31 20) 12
/-- The S immediate. -/
def wImmS (w : Nat) : Nat := signExt (bitsOf w 31 25 * 32 + bitsOf w 11 7) 12
/-- The B immediate. -/
def wImmB (w : Nat) : Nat :=
  signExt (bitsOf w 31 31 * 4096 + bitsOf w 7 7 * 2048 + bitsOf w 30 25 * 32 + bitsOf w 11 8 * 2) 13
/-- The U immediate. -/
def wImmU (w : Nat) : Nat := signExt (bitsOf w 31 12 * 4096) 32
/-- The J immediate. -/
def wImmJ (w : Nat) : Nat :=
  signExt (bitsOf w 31 31 * 2 ^ 20 + bitsOf w 19 12 * 4096 + bitsOf w 20 20 * 2048 + bitsOf w 30 21 * 2) 21

/-! ## Instructions -/

/-- An instruction is illegal: mtval holds its word. -/
def illegal (s : State) (w : Nat) : HartOut := .trap s 2 w

/-- The hart of a die. -/
def State.hart (s : State) (d : Nat) : HartSt := (s.mgmt d).hart

/-- An integer result is written and the pc moves on. -/
def State.hartX (s : State) (d rd v len : Nat) : HartOut :=
  .done (s.onHart d fun h => { h.xw rd v with pc := h.pc + BitVec.ofNat 64 len })

/-- A floating-point result with its flags. -/
def State.hartF (s : State) (d : Nat) (f : FFmt) (rd len : Nat) (r : FpRes) : HartOut :=
  .done (s.onHart d fun h =>
    let h := h.fw rd (boxed f r.bits)
    { h.put 3 (h.reg 3 ||| BitVec.ofNat 64 r.flags) with pc := h.pc + BitVec.ofNat 64 len })

/-- An integer result of a floating-point operation, with its flags. -/
def State.hartFx (s : State) (d rd len : Nat) (r : FpRes) : HartOut :=
  .done (s.onHart d fun h =>
    let h := h.xw rd r.bits
    let h := if r.flags = 0 then h else (h.put 3 (h.reg 3 ||| BitVec.ofNat 64 r.flags)).fpDirty
    { h with pc := h.pc + BitVec.ofNat 64 len })

/-- Bytes of an access by the low bits of funct3. -/
def accBytes (f3 : Nat) : Nat := 2 ^ (f3 % 4)

/-- A load into an integer or floating-point register. -/
def State.hartLd (s : State) (d w len : Nat) (fp : Bool) : HartOut :=
  let h := s.hart d
  let f3 := wF3 w
  let n := accBytes f3
  let a := (h.xr (wRs1 w) + wImmI w) % 2 ^ 64
  if fp && (!h.fpOn || !(f3 == 2 || f3 == 3)) || !fp && f3 = 7 then illegal s w
  else if a % n ≠ 0 then .trap s 4 a
  else match s.hartLoad d a n with
    | .wait => .wait
    | .fault => .trap s 5 a
    | .got t v =>
      if fp then
        .done (t.onHart d fun h => { h.fw (wRd w) (boxed (if f3 = 3 then f64 else f32) v) with pc := h.pc + BitVec.ofNat 64 len })
      else t.hartX d (wRd w) (if f3 < 4 then signExt v (8 * n) else v) len

/-- A store. -/
def State.hartSt (s : State) (d w len : Nat) (fp : Bool) : HartOut :=
  let h := s.hart d
  let f3 := wF3 w
  let n := accBytes f3
  let a := (h.xr (wRs1 w) + wImmS w) % 2 ^ 64
  if fp && (!h.fpOn || !(f3 == 2 || f3 == 3)) || 3 < f3 then illegal s w
  else if a % n ≠ 0 then .trap s 6 a
  else
    let v := (if fp then h.fr (wRs2 w) else h.xr (wRs2 w)) % 2 ^ (8 * n)
    match s.hartStore d a n v with
    | .wait => .wait
    | .fault => .trap s 7 a
    | .got t _ => .done (t.onHart d fun h => { h with pc := h.pc + BitVec.ofNat 64 len })

/-- LR. -/
def State.hartLr (s : State) (d w len n a : Nat) : HartOut :=
  match s.hartAtomic d a n false fun _ => none with
  | .wait => .wait
  | .fault => .trap s 5 a
  | .got t v =>
    (t.onHart d fun h => { h with resv := some (a, s.resvIdx a n) }).hartX d (wRd w) (if n = 4 then sext32 v else v) len

/-- SC: it stores when the reservation stands. -/
def State.hartSc (s : State) (d w len n a : Nat) : HartOut :=
  let h := s.hart d
  let t := s.onHart d fun h => { h with resv := none }
  if h.resv = some (a, s.resvIdx a n) then
    match t.hartAtomic d a n true fun _ => some (h.xr (wRs2 w) % 2 ^ (8 * n)) with
    | .wait => .wait
    | .fault => .trap s 7 a
    | .got t _ => t.hartX d (wRd w) 0 len
  else t.hartX d (wRd w) 1 len

/-- The A extension. -/
def State.hartA (s : State) (d w len : Nat) : HartOut :=
  let h := s.hart d
  let f3 := wF3 w
  let f5 := bitsOf w 31 27
  let n := accBytes f3
  let a := h.xr (wRs1 w)
  if !(f3 == 2 || f3 == 3) || !([0, 1, 2, 3, 4, 8, 12, 16, 20, 24, 28].contains f5) || (f5 == 2 && wRs2 w != 0) then illegal s w
  else if a % n ≠ 0 then .trap s (if f5 = 2 then 4 else 6) a
  else if f5 = 2 then s.hartLr d w len n a
  else if f5 = 3 then s.hartSc d w len n a
  else
    match s.hartAtomic d a n true fun old => some (hartAmo f5 (8 * n) old (h.xr (wRs2 w))) with
    | .wait => .wait
    | .fault => .trap s 7 a
    | .got t v => t.hartX d (wRd w) (if n = 4 then sext32 v else v) len

/-- A CSR instruction. -/
def State.hartCsr (s : State) (d w len : Nat) : HartOut :=
  let h := s.hart d
  let f3 := wF3 w
  let n := bitsOf w 31 20
  let src := if 4 ≤ f3 then wRs1 w else h.xr (wRs1 w)
  let write := f3 % 4 == 1 || wRs1 w != 0
  if !h.csrOk n write then illegal s w
  else
    let old := s.csrRead d n
    let v := BitVec.ofNat 64 src
    let new := match f3 % 4 with
      | 1 => v
      | 2 => old ||| v
      | _ => old &&& ~~~v
    let t := s.onHart d fun h => { h with pc := h.pc + BitVec.ofNat 64 len }
    let t := if write then t.csrWrite d n new else t
    let commit := n = 0x7C6 && write && new.getLsbD 0 && (s.die d).sched.stage == 2
    .done (if commit then t else t.onHart d fun h => h.xw (wRd w) old.toNat)

/-- SYSTEM. -/
def State.hartSystem (s : State) (d w len : Nat) : HartOut :=
  let h := s.hart d
  let next := s.onHart d fun h => { h with pc := h.pc + BitVec.ofNat 64 len }
  if wF3 w = 4 then illegal s w
  else if wF3 w ≠ 0 then s.hartCsr d w len
  else if w = 0x00000073 then .trap s (if h.mach then 11 else 8) 0
  else if w = 0x00100073 then .trap s 3 h.pc.toNat
  else if w = 0x30200073 then if h.mach then .done (s.onHart d HartSt.mret) else illegal s w
  else if w = 0x10500073 then
    if !h.mach && (h.reg 0x300).getLsbD 21 then illegal s w
    else .done (next.onHart d fun h => { h with wfi := true })
  else illegal s w

/-- The rounding mode of a word: its own, or that of frm. -/
def HartSt.rmOf (h : HartSt) (w : Nat) : Option RoundMode :=
  fpMode (if wF3 w = 7 then ((h.reg 3).extractLsb' 5 3).toNat else wF3 w)

/-- The format of a word. -/
def fpFmt (w : Nat) : Option FFmt :=
  match bitsOf w 26 25 with
  | 0 => some f32
  | 1 => some f64
  | _ => none

/-- FMADD, FMSUB, FNMSUB, FNMADD. -/
def State.hartFma (s : State) (d w len : Nat) : HartOut :=
  let h := s.hart d
  match fpFmt w, h.rmOf w with
  | some f, some rm =>
    if !h.fpOn then illegal s w
    else
      let op := bitsOf w 3 2
      let r := f.fpFma rm (op == 2 || op == 3) (op == 1 || op == 3) (h.fv f (wRs1 w)) (h.fv f (wRs2 w)) (h.fv f (bitsOf w 31 27))
      s.hartF d f (wRd w) len r
  | _, _ => illegal s w

/-- FCVT to and from integers: rs2 names the integer type. -/
def intType (n : Nat) : Option (Bool × Nat) :=
  match n with
  | 0 => some (true, 32)
  | 1 => some (false, 32)
  | 2 => some (true, 64)
  | 3 => some (false, 64)
  | _ => none

/-- The operations of OP-FP that do not round. -/
def State.hartFpPlain (s : State) (d w len : Nat) (f : FFmt) : HartOut :=
  let h := s.hart d
  let a := h.fv f (wRs1 w)
  let b := h.fv f (wRs2 w)
  match bitsOf w 31 27, wF3 w with
  | 4, f3 => if 2 < f3 then illegal s w else s.hartF d f (wRd w) len { bits := f.fpSign f3 a b, flags := 0 }
  | 5, f3 => if 1 < f3 then illegal s w else s.hartF d f (wRd w) len (f.fpMinMax (f3 == 1) a b)
  | 20, f3 => if 2 < f3 then illegal s w else s.hartFx d (wRd w) len (f.fpCmp f3 a b)
  | 28, 0 =>
    if wRs2 w ≠ 0 then illegal s w
    else s.hartX d (wRd w) (if f = f64 then h.fr (wRs1 w) else sext32 (h.fr (wRs1 w))) len
  | 28, 1 => if wRs2 w ≠ 0 then illegal s w else s.hartX d (wRd w) (f.fpClass a) len
  | 30, 0 =>
    if wRs2 w ≠ 0 then illegal s w
    else s.hartF d f (wRd w) len { bits := if f = f64 then h.xr (wRs1 w) else h.xr (wRs1 w) % 2 ^ 32, flags := 0 }
  | _, _ => illegal s w

/-- An integer operand of FCVT. -/
def intArg (sgn : Bool) (w v : Nat) : Int :=
  if w = 32 then (if sgn then (BitVec.ofNat 32 v).toInt else v % 2 ^ 32) else if sgn then sgn64 v else v

/-- The operations of OP-FP that round. -/
def State.hartFpRound (s : State) (d w len : Nat) (f : FFmt) (rm : RoundMode) : HartOut :=
  let h := s.hart d
  let a := h.fv f (wRs1 w)
  let b := h.fv f (wRs2 w)
  let out (r : FpRes) : HartOut := s.hartF d f (wRd w) len r
  match bitsOf w 31 27 with
  | 0 => out (f.fpAdd rm a b)
  | 1 => out (f.fpSub rm a b)
  | 2 => out (f.fpMul rm a b)
  | 3 => out (f.fpDiv rm a b)
  | 11 => if wRs2 w ≠ 0 then illegal s w else out (f.fpSqrt rm a)
  | 8 =>
    if f = f32 && wRs2 w = 1 then out (fpConv f64 f32 rm (h.fv f64 (wRs1 w)))
    else if f = f64 && wRs2 w = 0 then out (fpConv f32 f64 rm (h.fv f32 (wRs1 w)))
    else illegal s w
  | 24 => match intType (wRs2 w) with
    | some (sg, n) => s.hartFx d (wRd w) len (f.fpToInt rm sg n a)
    | none => illegal s w
  | 26 => match intType (wRs2 w) with
    | some (sg, n) => out (f.fpOfInt rm (intArg sg n (h.xr (wRs1 w))))
    | none => illegal s w
  | _ => illegal s w

/-- OP-FP. -/
def State.hartFp (s : State) (d w len : Nat) : HartOut :=
  let h := s.hart d
  match fpFmt w with
  | none => illegal s w
  | some f =>
    if !h.fpOn then illegal s w
    else if [4, 5, 20, 28, 30].contains (bitsOf w 31 27) then s.hartFpPlain d w len f
    else match h.rmOf w with
      | some rm => s.hartFpRound d w len f rm
      | none => illegal s w

/-- FENCE acts as FENCE.SYS: it waits for the writes of the management core, and for those that it read from (R186); FENCE.I
fetches afresh. -/
def State.hartFence (s : State) (d w len : Nat) : HartOut :=
  if 1 < wF3 w then illegal s w
  else if wF3 w ≠ 0 then s.hartX d 0 0 len
  else if s.mgmtPending d then .wait
  else (s.mgmtFence d).hartX d 0 0 len

/-- OP. -/
def State.hartOp (s : State) (d w len : Nat) : HartOut :=
  let h := s.hart d
  let a := h.xr (wRs1 w)
  let b := h.xr (wRs2 w)
  let out (v : Nat) : HartOut := s.hartX d (wRd w) v len
  match wF7 w with
  | 0 => out (aluOp (wF3 w) false a b)
  | 32 => if wF3 w = 0 || wF3 w = 5 then out (aluOp (wF3 w) true a b) else illegal s w
  | 1 => out (mulOp (wF3 w) a b)
  | _ => illegal s w

/-- OP-32. -/
def State.hartOpW (s : State) (d w len : Nat) : HartOut :=
  let h := s.hart d
  let a := h.xr (wRs1 w)
  let b := h.xr (wRs2 w)
  let out (v : Nat) : HartOut := s.hartX d (wRd w) v len
  match wF7 w with
  | 0 => if [0, 1, 5].contains (wF3 w) then out (aluOpW (wF3 w) false a b) else illegal s w
  | 32 => if wF3 w = 0 || wF3 w = 5 then out (aluOpW (wF3 w) true a b) else illegal s w
  | 1 => if [0, 4, 5, 6, 7].contains (wF3 w) then out (mulOpW (wF3 w) a b) else illegal s w
  | _ => illegal s w

/-- OP-IMM. -/
def State.hartImm (s : State) (d w len : Nat) : HartOut :=
  let a := (s.hart d).xr (wRs1 w)
  let out (v : Nat) : HartOut := s.hartX d (wRd w) v len
  match wF3 w with
  | 1 => if bitsOf w 31 26 = 0 then out (aluOp 1 false a (bitsOf w 25 20)) else illegal s w
  | 5 =>
    if bitsOf w 31 26 = 0 then out (aluOp 5 false a (bitsOf w 25 20))
    else if bitsOf w 31 26 = 16 then out (aluOp 5 true a (bitsOf w 25 20))
    else illegal s w
  | f3 => out (aluOp f3 false a (wImmI w))

/-- OP-IMM-32. -/
def State.hartImmW (s : State) (d w len : Nat) : HartOut :=
  let a := (s.hart d).xr (wRs1 w)
  let out (v : Nat) : HartOut := s.hartX d (wRd w) v len
  match wF3 w with
  | 0 => out (aluOpW 0 false a (wImmI w))
  | 1 => if wF7 w = 0 then out (aluOpW 1 false a (wRs2 w)) else illegal s w
  | 5 =>
    if wF7 w = 0 then out (aluOpW 5 false a (wRs2 w))
    else if wF7 w = 32 then out (aluOpW 5 true a (wRs2 w))
    else illegal s w
  | _ => illegal s w

/-- A jump: rd takes the address of the next instruction. -/
def State.hartJump (s : State) (d rd target len : Nat) : HartOut :=
  .done (s.onHart d fun h =>
    { h.xw rd ((h.pc.toNat + len) % 2 ^ 64) with pc := BitVec.ofNat 64 (target / 2 * 2) })

/-- One 32-bit instruction; `len` is the length of its encoding. -/
def State.hartExec (s : State) (d w len : Nat) : HartOut :=
  let h := s.hart d
  let pc := h.pc.toNat
  match w % 128 with
  | 0x37 => s.hartX d (wRd w) (wImmU w) len
  | 0x17 => s.hartX d (wRd w) (pc + wImmU w) len
  | 0x6F => s.hartJump d (wRd w) (pc + wImmJ w) len
  | 0x67 => if wF3 w = 0 then s.hartJump d (wRd w) (h.xr (wRs1 w) + wImmI w) len else illegal s w
  | 0x63 =>
    if wF3 w = 2 || wF3 w = 3 then illegal s w
    else if branchTaken (wF3 w) (h.xr (wRs1 w)) (h.xr (wRs2 w)) then
      .done (s.onHart d fun h => { h with pc := BitVec.ofNat 64 (pc + wImmB w) })
    else s.hartX d 0 0 len
  | 0x03 => s.hartLd d w len false
  | 0x07 => s.hartLd d w len true
  | 0x23 => s.hartSt d w len false
  | 0x27 => s.hartSt d w len true
  | 0x13 => s.hartImm d w len
  | 0x1B => s.hartImmW d w len
  | 0x33 => s.hartOp d w len
  | 0x3B => s.hartOpW d w len
  | 0x0F => s.hartFence d w len
  | 0x73 => s.hartSystem d w len
  | 0x2F => s.hartA d w len
  | 0x43 => s.hartFma d w len
  | 0x47 => s.hartFma d w len
  | 0x4B => s.hartFma d w len
  | 0x4F => s.hartFma d w len
  | 0x53 => s.hartFp d w len
  | _ => illegal s w

/-- Fetch and execute at the pc: a parcel of 16 bits, and a second one when the first says so. -/
def State.hartIssue (s : State) (d : Nat) : HartOut :=
  let pc := (s.hart d).pc.toNat
  match s.hartFetch d pc with
  | .wait => .wait
  | .fault => .trap s 1 pc
  | .got t lo =>
    if lo % 4 ≠ 3 then
      match rvcExpand lo with
      | none => illegal t lo
      | some w => match t.hartExec d w 2 with
        | .trap u 2 _ => .trap u 2 lo
        | r => r
    else match t.hartFetch d ((pc + 2) % 2 ^ 64) with
      | .wait => .wait
      | .fault => .trap t 1 ((pc + 2) % 2 ^ 64)
      | .got t hi => t.hartExec d (lo + hi * 2 ^ 16) 4

/-- mcycle and minstret count. -/
def HartSt.count (h : HartSt) (retired : Bool) : HartSt :=
  let stop := h.reg 0x320
  let h := if stop.getLsbD 0 then h else h.put 0xB00 (h.reg 0xB00 + 1)
  if !retired || stop.getLsbD 2 then h else h.put 0xB02 (h.reg 0xB02 + 1)

/-- The hart runs: bring-up has released it, and the ROM scheduler has not taken its place (R26, R245). -/
def State.hartRuns (s : State) (d : Nat) : Bool :=
  (s.dev.stage == 6 || s.dev.stage == 7) && !(s.die d).sched.rom

/-- MGMT_CORE_INSTRUCTION: an interrupt is taken, or one instruction is executed, or it waits (R242). -/
def State.hartStep (s : State) (d : Nat) : State :=
  if !s.hartRuns d then s
  else if (s.hart d).wfi && s.pendingIrqs d == 0 then s.onHart d fun h => h.count false
  else
    let s := s.onHart d fun h => { h with wfi := false }
    match s.irq d with
    | some n => s.onHart d fun h => h.trap true n 0
    | none =>
      match s.hartIssue d with
      | .wait => s
      | .done t => t.onHart d fun h => h.count true
      | .trap t cause tval => t.onHart d fun h => (h.trap false cause tval).count false

/-- MGMT_CORE_INSTRUCTION (R242). -/
def execMgmtCoreInstruction (die : Nat) (s : State) : Host.Outcome State Fault Refusal := dieEvent die (s.hartStep die)

end Sys2Proof.Machine
end

