-- ==== Sys2Proof/Machine/Requests.lean ====
section
/-! DEFINITION. SUBMIT (12_scheduling R236), RMREQ and RMSTAT (10_fabric R215, R216). -/

namespace Sys2Proof.Machine

/-- Every earlier store of a context is seen on its die (R169, R236). -/
def State.storesSeen (s : State) (c : CtxId) : Bool :=
  s.mem.writes.all fun w => w.src != .ctx c || w.allDone || w.appliedAt c.die

/-- The channels of a translated record serve it now (R33). -/
def State.recordServed (s : State) (c : CtxId) (va : Word) : Bool :=
  match s.xlateRun (s.tlbOf c.coreId false) (s.worldOf c.coreId) none xRead va 64 with
  | .error _ => true
  | .ok xs => (List.range 64).all fun i => s.mem.serves (runCell xs i).1

/-- SUBMIT (R236): it holds issue until the context's earlier stores are seen, and reads the record. -/
def execSubmit (g : Guard) (w : Bool) (d : GReg) (a : Src) (s : State) : Host.Outcome State Fault Refusal :=
  plainRun g s fun c => do
    let va ← s.readSrc c a
    s.useDestG c w d
    must (va.toNat % 64 = 0) .align va
    if s.storesSeen c && s.recordServed c va then
      return s.access c (.submit (if w then .none else destG d)) (s.accHere c (s.deps c [srcKey a])) va false
    else .error (.hold .fence)

/-- RMREQ (R215): it needs MODE.RCAP. -/
def execRmreq (g : Guard) (w : Bool) (d : GReg) (a : Src) (s : State) : Host.Outcome State Fault Refusal :=
  privRun (.rmreq g w d a) g s fun c => do
    let va ← s.readSrc c a
    s.useDestG c w d
    must (va.toNat % 64 = 0) .align va
    return s.access c (.rmreq (if w then .none else destG d)) (s.accHere c (s.deps c [srcKey a])) va false

/-- The status word of a tag for a world (R216): code 14 for an unknown tag. -/
def RmSt.find (x : RmSt) (tag world : Nat) : Word :=
  match x.status.find? fun q => q.1 == tag && q.2.1 == world with
  | some q => q.2.2
  | none => 14

/-- RMSTAT (R215). -/
def execRmstat (g : Guard) (w : Bool) (d : GReg) (a : Src) (s : State) : Host.Outcome State Fault Refusal :=
  plainRun g s fun c => do
    let tag ← s.readSrc c a
    s.useDestG c w d
    let v := (s.die c.die).rm.find (tag.toNat % 2 ^ 16) (s.worldOf c.coreId)
    return (s.resultG c w d v (s.deps c [srcKey a])).advance c false

end Sys2Proof.Machine
end

