-- ==== Sys2Proof/Machine/SieveOps.lean ====
section
/-! DEFINITION. What a Sieve computes (14_generation R263 to R272): penalties, rank order, weights and the choice. -/

namespace Sys2Proof.Machine

/-! ## Arithmetic -/

/-- The bits of an exact value rounded once to F32, to nearest with ties to even (R9). -/
def f32Near (x : Fl) : W32 := BitVec.ofNat 32 (f32.finish .rne false false x).bits

/-- The value of an F32 pattern. -/
def f32Val (b : W32) : Fl := f32.value b.toNat

/-- RoundNE of a quotient of a finite number and a positive finite one. -/
def f32Quot (x r : Fl) : W32 :=
  match x, r with
  | .num n m e, .num _ p d =>
    if p = 0 then f32Near .nan
    else
      let q := m * 2 ^ 64
      BitVec.ofNat 32 (f32.round .rne false n (q / p) (e - d - 64) (q % p != 0)).bits
  | .inf n, .num k _ _ => f32Near (.inf (n != k))
  | _, _ => f32Near .nan

/-- RoundNE of e^(−a/t) for a ≥ 0 and t > 0 (R271): computed to over two hundred bits. -/
def f32ExpNeg (a t : Fl) : W32 :=
  match a, t with
  | .num _ m e, .num _ p d =>
    if m = 0 then 0x3F800000
    else if p = 0 then 0
    else
      -- z = m·2^e / (p·2^d), in fixed point
      let k : Int := e - d + fixBits
      let z := if k < 0 then m / (p * 2 ^ (-k).toNat) else m * 2 ^ k.toNat / p
      if 200 * fixOne < z then 0
      else if z < 2 ^ 200 then BitVec.ofNat 32 (f32.near false false (2 ^ 80 - 1) (-80) true).bits
      else
        let n := z / fixLn2 + 1
        BitVec.ofNat 32 (f32.near false false (fixExp (n * fixLn2 - z)) (-(n : Int) - fixBits) true).bits
  | .inf _, .num .. => 0
  | _, _ => f32Near .nan

/-- RoundNE of a sum. -/
def f32Sum (a b : W32) : W32 := f32Near ((f32Val a).add .rne (f32Val b)).1

/-! ## The fields of a control token (R264) -/

/-- A field of a control token. -/
def ctlField (c : BitVec 512) (off n : Nat) : Nat := field512 c off n

/-- A flag of a control token: 0 MASK, 1 PEN, 2 LIST. -/
def ctlFlag (c : BitVec 512) (n : Nat) : Bool := (ctlField c 1 1).testBit n

/-- An F32 field. -/
def ctlF32 (c : BitVec 512) (off : Nat) : W32 := BitVec.ofNat 32 (ctlField c off 4)

/-- A positive finite F32. -/
def f32Pos (b : W32) : Bool := decide (0 < b.toNat ∧ b.toNat < 0x7F800000)

/-- A finite F32. -/
def f32Fin (b : W32) : Bool := b.toNat / 2 ^ 23 % 256 != 255

/-- The fields of a POSITION token are in range, and its reserved bits are zero (R264, R266). -/
def positionOk (c : BitVec 512) : Bool :=
  let v := ctlField c 8 4
  let k := ctlField c 12 2
  let p := ctlF32 c 20
  decide (ctlField c 1 1 < 8 ∧ ctlField c 2 1 ≤ 63 ∧ (ctlField c 3 1 ≤ 63 ∨ ctlField c 3 1 = 255)) &&
    decide (1 ≤ v ∧ v ≤ 1048576 ∧ 1 ≤ k ∧ k ≤ 256) && (!ctlFlag c 1 || decide (v ≤ 131072)) && ctlField c 14 2 == 0 &&
    (ctlF32 c 16 == 0 || f32Pos (ctlF32 c 16)) && f32Pos p && decide (p.toNat ≤ 0x3F800000) && ctlField c 27 1 == 0 &&
    f32Pos (ctlF32 c 28) && f32Fin (ctlF32 c 32) && f32Fin (ctlF32 c 36) && ctlField c 40 24 == 0

/-- A token of OP 2 to 4 has nothing but its OP and NODE (R264). -/
def plainOk (c : BitVec 512) : Bool := ctlField c 1 1 == 0 && decide (ctlField c 2 1 ≤ 63) && ctlField c 3 61 == 0

/-! ## The overlay and the counters (R269, R270) -/

/-- The counter region of a Sieve (R262). -/
def counterRegion (n : Nat) : Nat :=
  match n with
  | 0 => 0
  | 1 => 15
  | 2 => 16
  | _ => 31

/-- The path of a node: itself and its ancestors up to the root (R270). -/
def draftPath (o : List DraftNode) (n : Nat) : Nat → List DraftNode
  | 0 => []
  | k + 1 => match o.find? fun x => x.node == n with
    | none => []
    | some x => x :: draftPath o x.parent k

/-- The place of a main counter in the tiles of the counter region (R269). -/
def counterCell (i : Nat) : Nat := (32 + i / 8192) * 16384 + 2 * (i % 8192)

/-- A main counter. -/
def mainCount (tiles : Map Byte) (i : Nat) : Nat :=
  if i < 131072 then (Map.get tiles 0 (counterCell i)).toNat + (Map.get tiles 0 (counterCell i + 1)).toNat * 256 else 0

/-- Add 1 to a main counter, stopping at 65,535 (R270). -/
def bumpCount (tiles : Map Byte) (i : Nat) : Map Byte :=
  if 131072 ≤ i then tiles
  else
    let v := min 65535 (mainCount tiles i + 1)
    writeTiles tiles [(counterCell i, BitVec.ofNat 8 v), (counterCell i + 1, BitVec.ofNat 8 (v / 256))]

/-- count(i) for a position (R270). -/
def countOf (tiles : Map Byte) (path : List DraftNode) (i : Nat) : Nat :=
  mainCount tiles i + (path.filter fun x => x.dtok == i).length

/-! ## A logit (R267) -/

/-- The penalised value of a logit; none when it is discarded as a NaN. -/
def penalise (ctl : BitVec 512) (c : Nat) (x : W32) : Option W32 :=
  if c = 0 then some x
  else
    let r := f32Val (ctlF32 ctl 28)
    let xv := f32Val x
    let y1 := if Fl.lt (.num false 0 0) xv then f32Quot xv r
      else if Fl.lt xv (.num false 0 0) then f32Near (xv.mul r).1
      else x
    let fc := ((f32Val (ctlF32 ctl 32)).mul (Fl.ofInt c)).1
    let pen := (fc.add .rne (f32Val (ctlF32 ctl 36))).1
    let y := ((f32Val y1).add .rne pen.negate).1
    if y.isNan then none else some (f32Near y)

/-- A lane of a logit token as a candidate (R265, R267). -/
def candidate (p : Position) (tiles : Map Byte) (path : List DraftNode) (i : Nat) (x : W32) : Option (W32 × W32) :=
  let masked := ctlFlag p.ctl 0 && !((p.masks.getD (i / 512) 0).getLsbD (i % 512))
  if masked || ctlField p.ctl 8 4 ≤ i || (f32Val x).isNan then none
  else
    let y := if ctlFlag p.ctl 1 then penalise p.ctl (countOf tiles path i) x else some x
    y.map fun v => (v, BitVec.ofNat 32 i)

/-- A cell ranks before another (R263). -/
def ranksFirst (a b : W32 × W32) : Bool :=
  (f32Val b.1).lt (f32Val a.1) || (!(f32Val a.1).lt (f32Val b.1) && decide (a.2.toNat < b.2.toNat))

/-- Insert a candidate in rank order and keep K cells (R268). -/
def rankInsert (cells : List (W32 × W32)) (k : Nat) (x : W32 × W32) : List (W32 × W32) :=
  (cells.takeWhile (fun c => !ranksFirst x c) ++ x :: cells.dropWhile fun c => !ranksFirst x c).take k

/-- The front filter lets a value through (R268). -/
def passesFilter (theta : W32) (y : W32) : Bool := (f32Val theta).lt (f32Val y)

/-! ## The choice (R271) -/

/-- What a segment ends in. -/
structure Choice where
  index  : W32
  value  : W32
  weight : W32
  total  : W32
  cut    : W32
  ncand  : Nat
  ncut   : Nat
  flags  : Nat
  deriving DecidableEq, Repr

/-- A position with no candidate, or a bad one: its values are zero (R272). -/
def Choice.empty (flags : Nat) : Choice :=
  { index := 0xFFFFFFFF, value := 0, weight := 0, total := 0, cut := 0, ncand := 0, ncut := 0, flags := flags }

/-- The running sums of a list of weights, each rounded (R271). -/
def runningSums : W32 → List W32 → List W32
  | _, [] => []
  | acc, w :: ws =>
    let c := f32Sum acc w
    c :: runningSums c ws

/-- The choice among the cells of a position (R271). -/
def chooseCell (ctl : BitVec 512) (cells : List (W32 × W32)) : Choice :=
  match cells with
  | [] => Choice.empty 1
  | (x0, i0) :: _ =>
    let n := cells.length
    if ctlF32 ctl 16 = 0 then
      { index := i0, value := x0, weight := 0x3F800000, total := 0x3F800000, cut := 0x3F800000, ncand := n, ncut := 1, flags := 0 }
    else
      let t := f32Val (ctlF32 ctl 16)
      match f32Val x0 with
      | .inf _ | .nan => Choice.empty 5
      | .num .. =>
        let ws := cells.map fun c => f32ExpNeg (((f32Val x0).add .rne (f32Val c.1).negate).1) t
        let cs := match ws with
          | [] => []
          | w :: rest => w :: runningSums w rest
        let s := cs.getLastD 0
        let bound := ((f32Val (ctlF32 ctl 20)).mul (f32Val s)).1
        let m := (cs.findIdx? fun c => !(f32Val c).lt bound).getD (n - 1)
        let scut := cs.getD m 0
        let u := ((Fl.num false (ctlField ctl 24 3) (-24)).mul (f32Val scut)).1
        let j := ((cs.take (m + 1)).findIdx? fun c => u.lt (f32Val c)).getD 0
        let cell := cells.getD j (0, 0)
        { index := cell.2, value := cell.1, weight := ws.getD j 0, total := s, cut := scut, ncand := n, ncut := m + 1, flags := 0 }

/-- The result token (R272). -/
def Choice.token (c : Choice) (node : Nat) : Token :=
  let bs := leBytes c.index.toNat 4 ++ leBytes c.value.toNat 4 ++ leBytes c.weight.toNat 4 ++ leBytes c.total.toNat 4 ++
    leBytes c.cut.toNat 4 ++ leBytes c.ncand 2 ++ leBytes c.ncut 2 ++ leBytes node 1 ++ leBytes c.flags 1
  { kind := .data, val := BitVec.ofNat 512 (leNat bs), clock := none }

/-- The tokens of the sorted list: eight pairs each, padded with (−∞, 0xFFFF_FFFF) (R272). -/
def listTokens (cells : List (W32 × W32)) : List Token :=
  (List.range ((cells.length + 7) / 8)).map fun t =>
    let ps := (List.range 8).map fun i => cells.getD (8 * t + i) (0xFF800000, 0xFFFFFFFF)
    { kind := .data, val := BitVec.ofNat 512 (leNat (ps.flatMap cellBytes)), clock := none }

end Sys2Proof.Machine
end

