-- ==== Sys2Proof/Machine/Sieves.lean ====
section
/-! DEFINITION. The events of a Sieve (14_generation R262 to R272). -/

namespace Sys2Proof.Machine

/-- A Sieve of a compute die. -/
def sieveEvent (d n : Nat) (t : State) : Host.Outcome State Fault Refusal :=
  if d < 4 && n < 4 then .next t else .fault .noSuchPart

/-- The token at the head of an input of a Sieve. -/
def State.sieveHead (s : State) (d n port : Nat) : Option Token := (s.inOf (.sieve d n port)).buf.head?

/-- The Sieve reads its inputs: its unit runs and no CLEAR is in progress (R269). -/
def SieveSt.reads (x : SieveSt) : Bool := x.run && !x.ended && x.clearing.isNone

/-- The Sieve takes the next control token: no position is open, and its tokens have left it (R270). -/
def SieveSt.takesControl (x : SieveSt) : Bool := x.reads && x.pos.isNone && x.pend.isEmpty

/-- EOS is at the head of the logit input. -/
def State.logitsEnd (s : State) (d n : Nat) : Bool := (s.sieveHead d n 0).any fun t => t.kind == .eos

/-- The Sieve takes the next control token: at EOS on i0 with no position open, i2 is discarded instead (R272). -/
def State.sieveTakes (s : State) (d n : Nat) : Bool := (s.sieve d n).takesControl && !s.logitsEnd d n

/-- STREAM-PROTO for a Sieve (R266). -/
def State.sieveProto (s : State) (d n : Nat) : State := s.notify d (.report .streamProto (544 + n))

/-- Tiles 32 to 47 of the counter region all have role BUF (R266). -/
def State.countersBuf (s : State) (d n : Nat) : Bool :=
  (List.range 16).all fun i => roleOf (s.region d (counterRegion n)).active (32 + i) == 1

/-- A POSITION token is bad (R266). -/
def State.positionBad (s : State) (d n : Nat) (c : BitVec 512) : Bool :=
  let o := (s.sieve d n).overlay
  let node := ctlField c 2 1
  let parent := ctlField c 3 1
  let known (k : Nat) : Bool := o.any fun x => x.node == k
  !positionOk c || (ctlFlag c 0 && !(s.inOf (.sieve d n 1)).bound) || (ctlFlag c 1 && !s.countersBuf d n) ||
    (parent != 255 && !known parent) || parent == node || known node

/-- SIEVE_POSITION: a control token opens a position; its node is recorded before the segment is read (R264, R270). A
token whose OP names nothing is bad, and opens none. -/
def State.sievePosition (s : State) (d n : Nat) : State :=
  match s.sieveHead d n 2 with
  | none => s
  | some t =>
    let op := ctlField t.val 0 1
    if !s.sieveTakes d n || t.kind = .eos || t.kind = .marker || (t.kind = .data && 2 ≤ op && op ≤ 4) then s
    else
      let s' := s.takeIn (.sieve d n 2)
      if t.kind ≠ .data || op ≠ 1 then s'.sieveProto d n
      else
        let bad := s.positionBad d n t.val
        let p : Position := { ctl := t.val, bad := bad, seg := 0, masks := [], fin := false }
        let node : DraftNode := { node := ctlField t.val 2 1, parent := ctlField t.val 3 1, dtok := ctlField t.val 4 4 }
        s'.onSieve d n fun x =>
          { x with pos := some p, cells := [], queue := [], pen := x.pen || (ctlFlag t.val 1 && !bad), overlay := if bad then x.overlay else x.overlay ++ [node] }

/-- SIEVE_POSITION (R264). -/
def execSievePosition (die sieve : Nat) (s : State) : Host.Outcome State Fault Refusal :=
  sieveEvent die sieve (s.sievePosition die sieve)

/-- A control token of OP 2 to 4 that is next (R264). -/
def State.plainControl (s : State) (d n op : Nat) (f : BitVec 512 → State → State) : State :=
  match s.sieveHead d n 2 with
  | none => s
  | some t =>
    if !s.sieveTakes d n || t.kind ≠ .data || ctlField t.val 0 1 ≠ op then s
    else
      let s' := s.takeIn (.sieve d n 2)
      if plainOk t.val then f t.val s' else s'.sieveProto d n

/-- SIEVE_COMMIT: the tokens of a draft path are counted, and the overlay is cleared (R270). -/
def State.sieveCommit (s : State) (d n : Nat) : State :=
  s.plainControl d n 2 fun c t =>
    let path := draftPath (t.sieve d n).overlay (ctlField c 2 1) 64
    let ids := (path.filter fun x => x.dtok != 0xFFFFFFFF).map fun x => x.dtok
    (t.onRegion d (counterRegion n) fun r => { r with tiles := ids.foldl bumpCount r.tiles }).onSieve d n fun x =>
      { x with overlay := [] }

/-- SIEVE_COMMIT (R270). -/
def execSieveCommit (die sieve : Nat) (s : State) : Host.Outcome State Fault Refusal :=
  sieveEvent die sieve (s.sieveCommit die sieve)

/-- SIEVE_DISCARD: the overlay is cleared (R270). -/
def execSieveDiscard (die sieve : Nat) (s : State) : Host.Outcome State Fault Refusal :=
  sieveEvent die sieve (s.plainControl die sieve 3 fun _ t => t.onSieve die sieve fun x => { x with overlay := [] })

/-- SIEVE_CLEAR: the zeroing of the main counters begins (R269). -/
def execSieveClear (die sieve : Nat) (s : State) : Host.Outcome State Fault Refusal :=
  sieveEvent die sieve (s.plainControl die sieve 4 fun _ t =>
    t.onSieve die sieve fun x => { x with clearing := some (s.die die).cyc })

/-- SIEVE_CLEAR_DONE: after 8,192 cycles every main counter is zero (R269). -/
def State.sieveCleared (s : State) (d n : Nat) : State :=
  match (s.sieve d n).clearing with
  | none => s
  | some t =>
    if (s.die d).cyc < t + 8192 then s
    else
      (s.onRegion d (counterRegion n) fun r =>
        { r with tiles := Map.dropIf r.tiles fun a => decide (32 * 16384 ≤ a ∧ a < 48 * 16384) }).onSieve d n fun x =>
          { x with clearing := none }

/-- SIEVE_CLEAR_DONE (R269). -/
def execSieveClearDone (die sieve : Nat) (s : State) : Host.Outcome State Fault Refusal :=
  sieveEvent die sieve (s.sieveCleared die sieve)

/-- Mask tokens of a position (R265). -/
def Position.maskNeed (p : Position) : Nat := if ctlFlag p.ctl 0 then (ctlField p.ctl 8 4 + 511) / 512 else 0

/-- SIEVE_LOGIT_TOKEN: sixteen logits are masked, penalised and filtered into the insertion queue, when it has room for
those that pass (R265, R267, R268); a bad position discards them (R266). -/
def State.sieveLogit (s : State) (d n : Nat) : State :=
  let x := s.sieve d n
  match x.pos, s.sieveHead d n 0 with
  | some p, some t =>
    if !x.reads || p.fin || t.kind ≠ .data then s
    else if p.bad then (s.takeIn (.sieve d n 0)).onSieve d n fun y => { y with pos := some { p with seg := p.seg + 1 } }
    else if 16 * p.seg < ctlField p.ctl 8 4 && ctlFlag p.ctl 0 && p.masks.length ≤ 16 * p.seg / 512 then s
    else
      let tiles := (s.region d (counterRegion n)).tiles
      let path := draftPath x.overlay (ctlField p.ctl 2 1) 64
      let cands := (List.range 16).filterMap fun j => candidate p tiles path (16 * p.seg + j) (t.val.extractLsb' (32 * j) 32)
      let pass := cands.filter fun c => passesFilter (x.theta (ctlField p.ctl 12 2)) c.1
      if 64 < x.queue.length + pass.length then s
      else (s.takeIn (.sieve d n 0)).onSieve d n fun y =>
        { y with queue := y.queue ++ pass, pos := some { p with seg := p.seg + 1 } }
  | _, _ => s

/-- SIEVE_LOGIT_TOKEN (R267). -/
def execSieveLogitToken (die sieve : Nat) (s : State) : Host.Outcome State Fault Refusal :=
  sieveEvent die sieve (s.sieveLogit die sieve)

/-- The open position turns out bad: its node is not recorded (R266). -/
def SieveSt.spoil (x : SieveSt) (p : Position) : SieveSt :=
  { x with pos := some { p with bad := true }, cells := [], queue := [],
           overlay := x.overlay.filter fun o => o.node != ctlField p.ctl 2 1 }

/-- SIEVE_MASK_TOKEN: a mask token of the open position is read; a steer or EOS in its place makes the position bad
(R265, R266). -/
def State.sieveMask (s : State) (d n : Nat) : State :=
  let x := s.sieve d n
  match x.pos, s.sieveHead d n 1 with
  | some p, some t =>
    if !x.reads || p.maskNeed ≤ p.masks.length then s
    else match t.kind with
      | .data => (s.takeIn (.sieve d n 1)).onSieve d n fun y => { y with pos := some { p with masks := p.masks ++ [t.val] } }
      | .steer => if p.bad then s else (s.takeIn (.sieve d n 1)).onSieve d n fun y => y.spoil p
      | .eos => if p.bad then s else s.onSieve d n fun y => y.spoil p
      | .marker => s
  | _, _ => s

/-- SIEVE_MASK_TOKEN (R265). -/
def execSieveMaskToken (die sieve : Nat) (s : State) : Host.Outcome State Fault Refusal :=
  sieveEvent die sieve (s.sieveMask die sieve)

/-- SIEVE_INSERT: the oldest survivor enters the cells (R268). -/
def State.sieveInsert (s : State) (d n : Nat) : State :=
  let x := s.sieve d n
  match x.pos, x.queue with
  | some p, c :: rest =>
    s.onSieve d n fun y => { y with cells := rankInsert y.cells (ctlField p.ctl 12 2) c, queue := rest }
  | _, _ => s

/-- SIEVE_INSERT (R268). -/
def execSieveInsert (die sieve : Nat) (s : State) : Host.Outcome State Fault Refusal :=
  sieveEvent die sieve (s.sieveInsert die sieve)

/-- Tokens that wait enter the output buffer as far as it has room (R151). -/
def State.sieveFlush (s : State) (d n : Nat) : State :=
  let x := s.sieve d n
  let p : PortRef := .sieve d n 0
  let room := 4 - (s.outOf p).buf.length
  let out := if (s.outOf p).bound then x.pend.take room else []
  let keep := if (s.outOf p).bound then x.pend.drop room else []
  (s.onOutOf p fun y => { y with buf := y.buf ++ out }).onSieve d n fun y => { y with pend := keep }

/-- The segment of the open position has ended: a steer is consumed, an EOS stays (R265). -/
def State.endSegment (s : State) (d n : Nat) (p : Position) : Option State :=
  if p.fin then some s
  else match s.sieveHead d n 0 with
    | none => none
    | some t => match t.kind with
      | .steer => some (s.takeIn (.sieve d n 0))
      | .eos => some s
      | .data | .marker => none

/-- The tokens of a position: its list, if asked for, and its result (R272). -/
def resultTokens (p : Position) (cells : List (W32 × W32)) : List Token :=
  let node := ctlField p.ctl 2 1
  if p.bad then [(Choice.empty 2).token node]
  else (if ctlFlag p.ctl 2 then listTokens cells else []) ++ [(chooseCell p.ctl cells).token node]

/-- The mask tokens that have arrived for a bad position are discarded (R266). -/
def State.dropMasks (s : State) (d n : Nat) : Nat → State
  | 0 => s
  | k + 1 => if (s.sieveHead d n 1).any fun t => t.kind == .data then (s.takeIn (.sieve d n 1)).dropMasks d n k else s

/-- SIEVE_SEGMENT_END: the segment ends; when every survivor has been inserted and every mask token read, the cells
drain and the result leaves (R265, R271, R272). -/
def State.sieveSegmentEnd (s : State) (d n : Nat) : State :=
  let x := s.sieve d n
  if !x.reads then s
  else if !x.pend.isEmpty then s.sieveFlush d n
  else match x.pos with
    | none => s
    | some p => match s.endSegment d n p with
      | none => s
      | some t =>
        if !p.bad && (!x.queue.isEmpty || p.masks.length < p.maskNeed) then
          t.onSieve d n fun y => { y with pos := some { p with fin := true } }
        else
          let t := t.onSieve d n fun y => { y with pend := resultTokens p x.cells, pos := none }
          let t := if p.bad then (t.dropMasks d n (p.maskNeed - p.masks.length)).sieveProto d n else t
          t.sieveFlush d n

/-- SIEVE_SEGMENT_END (R271). -/
def execSieveSegmentEnd (die sieve : Nat) (s : State) : Host.Outcome State Fault Refusal :=
  sieveEvent die sieve (s.sieveSegmentEnd die sieve)

/-- Discard the tokens of an input up to its EOS (R272). -/
def State.sieveDrain (s : State) (d n port : Nat) : Nat → State
  | 0 => s
  | k + 1 => match s.sieveHead d n port with
    | none => s
    | some t => if t.kind = .eos || t.kind = .marker then s else (s.takeIn (.sieve d n port)).sieveDrain d n port k

/-- An input is unbound or at its EOS. -/
def State.sieveDry (s : State) (d n port : Nat) : Bool :=
  !(s.inOf (.sieve d n port)).bound || match s.sieveHead d n port with
    | some t => t.kind == .eos
    | none => false

/-- SIEVE_EOS: at EOS on i0 the other inputs are discarded up to their EOS, and EOS leaves on o0 (R272). -/
def State.sieveEos (s : State) (d n : Nat) : State :=
  let x := s.sieve d n
  if !x.takesControl || !s.logitsEnd d n then s
  else
    let s := (s.sieveDrain d n 1 64).sieveDrain d n 2 64
    let p : PortRef := .sieve d n 0
    if !s.sieveDry d n 1 || !s.sieveDry d n 2 || ((s.outOf p).bound && 4 ≤ (s.outOf p).buf.length) then s
    else
      let eos : Token := { kind := .eos, val := 0, clock := none }
      let s := if (s.outOf p).bound then s.onOutOf p fun y => { y with buf := y.buf ++ [eos] } else s
      s.onSieve d n fun y => { y with ended := true }

/-- SIEVE_EOS (R272). -/
def execSieveEos (die sieve : Nat) (s : State) : Host.Outcome State Fault Refusal :=
  sieveEvent die sieve (s.sieveEos die sieve)

end Sys2Proof.Machine
end

