-- ==== Sys2Proof/Machine/Dispatch.lean ====
section
/-! DEFINITION. The dispatcher: one arm per constructor of `Instr`, each a direct call of the meaning of
that instruction or event. -/

namespace Sys2Proof.Machine

/-- What one instruction or event does. -/
def exec (i : Instr) (s : State) : Host.Outcome State Fault Refusal :=
  match i with
  | .add x => Sys2Proof.Machine.execAdd x s
  | .sub x => Sys2Proof.Machine.execSub x s
  | .and x => Sys2Proof.Machine.execAnd x s
  | .andn x => Sys2Proof.Machine.execAndn x s
  | .or x => Sys2Proof.Machine.execOr x s
  | .xor x => Sys2Proof.Machine.execXor x s
  | .shl x => Sys2Proof.Machine.execShl x s
  | .shr x => Sys2Proof.Machine.execShr x s
  | .sar x => Sys2Proof.Machine.execSar x s
  | .min x => Sys2Proof.Machine.execMin x s
  | .max x => Sys2Proof.Machine.execMax x s
  | .minu x => Sys2Proof.Machine.execMinu x s
  | .maxu x => Sys2Proof.Machine.execMaxu x s
  | .mul x => Sys2Proof.Machine.execMul x s
  | .mulh x => Sys2Proof.Machine.execMulh x s
  | .mulhu x => Sys2Proof.Machine.execMulhu x s
  | .div x => Sys2Proof.Machine.execDiv x s
  | .divu x => Sys2Proof.Machine.execDivu x s
  | .rem x => Sys2Proof.Machine.execRem x s
  | .remu x => Sys2Proof.Machine.execRemu x s
  | .clz x => Sys2Proof.Machine.execClz x s
  | .ctz x => Sys2Proof.Machine.execCtz x s
  | .popc x => Sys2Proof.Machine.execPopc x s
  | .ext x => Sys2Proof.Machine.execExt x s
  | .extu x => Sys2Proof.Machine.execExtu x s
  | .ins x => Sys2Proof.Machine.execIns x s
  | .sel x => Sys2Proof.Machine.execSel x s
  | .mov x => Sys2Proof.Machine.execMov x s
  | .movhi x => Sys2Proof.Machine.execMovhi x s
  | .cmp x => Sys2Proof.Machine.execCmp x s
  | .pand x => Sys2Proof.Machine.execPand x s
  | .por x => Sys2Proof.Machine.execPor x s
  | .pxor x => Sys2Proof.Machine.execPxor x s
  | .pnot guard d a => Sys2Proof.Machine.execPnot guard d a s
  | .pmovGToK guard d a => Sys2Proof.Machine.execPmovGToK guard d a s
  | .pmovKToG guard w d a => Sys2Proof.Machine.execPmovKToG guard w d a s
  | .br guard disp => Sys2Proof.Machine.execBr guard disp s
  | .brx guard a => Sys2Proof.Machine.execBrx guard a s
  | .call guard disp => Sys2Proof.Machine.execCall guard disp s
  | .callx guard a => Sys2Proof.Machine.execCallx guard a s
  | .ret guard a => Sys2Proof.Machine.execRet guard a s
  | .lpsetReg guard z a disp => Sys2Proof.Machine.execLpsetReg guard z a disp s
  | .lpsetImm guard z count disp => Sys2Proof.Machine.execLpsetImm guard z count disp s
  | .lpclr guard z => Sys2Proof.Machine.execLpclr guard z s
  | .lpget x => Sys2Proof.Machine.execLpget x s
  | .lprst x => Sys2Proof.Machine.execLprst x s
  | .ld guard size q w d addr => Sys2Proof.Machine.execLd guard size q w d addr s
  | .st guard size q d addr => Sys2Proof.Machine.execSt guard size q d addr s
  | .vld guard q w d addr => Sys2Proof.Machine.execVld guard q w d addr s
  | .vst guard ns d addr => Sys2Proof.Machine.execVst guard ns d addr s
  | .tld guard m addr => Sys2Proof.Machine.execTld guard m addr s
  | .tst guard ns m addr => Sys2Proof.Machine.execTst guard ns m addr s
  | .ldg guard size c nt w d addr => Sys2Proof.Machine.execLdg guard size c nt w d addr s
  | .stg guard size c nt d addr => Sys2Proof.Machine.execStg guard size c nt d addr s
  | .vldg guard c nt w d addr => Sys2Proof.Machine.execVldg guard c nt w d addr s
  | .vstg guard c nt d addr => Sys2Proof.Machine.execVstg guard c nt d addr s
  | .pref guard nt addr => Sys2Proof.Machine.execPref guard nt addr s
  | .amo guard op w32 c nt w d a b imm => Sys2Proof.Machine.execAmo guard op w32 c nt w d a b imm s
  | .amoh guard op w32 w d addr => Sys2Proof.Machine.execAmoh guard op w32 w d addr s
  | .halloc guard w d a level rl => Sys2Proof.Machine.execHalloc guard w d a level rl s
  | .hfree guard a => Sys2Proof.Machine.execHfree guard a s
  | .hinfo guard w d a => Sys2Proof.Machine.execHinfo guard w d a s
  | .feset guard d addr => Sys2Proof.Machine.execFeset guard d addr s
  | .feclr guard d addr => Sys2Proof.Machine.execFeclr guard d addr s
  | .fetst guard w d addr => Sys2Proof.Machine.execFetst guard w d addr s
  | .fence guard scope kind => Sys2Proof.Machine.execFence guard scope kind s
  | .qfence guard mask => Sys2Proof.Machine.execQfence guard mask s
  | .ifence guard => Sys2Proof.Machine.execIfence guard s
  | .srd guard w d port e => Sys2Proof.Machine.execSrd guard w d port e s
  | .speek guard w d port e kind nb => Sys2Proof.Machine.execSpeek guard w d port e kind nb s
  | .swr guard port a => Sys2Proof.Machine.execSwr guard port a s
  | .seos guard port => Sys2Proof.Machine.execSeos guard port s
  | .ssteer guard port a => Sys2Proof.Machine.execSsteer guard port a s
  | .vsrd guard w d port e => Sys2Proof.Machine.execVsrd guard w d port e s
  | .vswr guard port a => Sys2Proof.Machine.execVswr guard port a s
  | .caprecv guard w d => Sys2Proof.Machine.execCaprecv guard w d s
  | .caphdr guard w d word => Sys2Proof.Machine.execCaphdr guard w d word s
  | .capnext guard w d k => Sys2Proof.Machine.execCapnext guard w d k s
  | .capins guard a iv => Sys2Proof.Machine.execCapins guard a iv s
  | .capdel guard iv n => Sys2Proof.Machine.execCapdel guard iv n s
  | .capsend guard => Sys2Proof.Machine.execCapsend guard s
  | .capnew guard a => Sys2Proof.Machine.execCapnew guard a s
  | .capend guard => Sys2Proof.Machine.execCapend guard s
  | .capflt guard a => Sys2Proof.Machine.execCapflt guard a s
  | .ewait guard e => Sys2Proof.Machine.execEwait guard e s
  | .estat guard w d e clr => Sys2Proof.Machine.execEstat guard w d e clr s
  | .ftset guard a n => Sys2Proof.Machine.execFtset guard a n s
  | .ftget guard w d n => Sys2Proof.Machine.execFtget guard w d n s
  | .ftidx guard v z base => Sys2Proof.Machine.execFtidx guard v z base s
  | .nop guard => Sys2Proof.Machine.execNop guard s
  | .fin guard => Sys2Proof.Machine.execFin guard s
  | .yield guard => Sys2Proof.Machine.execYield guard s
  | .wait guard w d a mask => Sys2Proof.Machine.execWait guard w d a mask s
  | .trap guard n => Sys2Proof.Machine.execTrap guard n s
  | .tret guard replay => Sys2Proof.Machine.execTret guard replay s
  | .mfc guard w d creg => Sys2Proof.Machine.execMfc guard w d creg s
  | .mtc guard creg a => Sys2Proof.Machine.execMtc guard creg a s
  | .bkpt guard => Sys2Proof.Machine.execBkpt guard s
  | .submit guard w d a => Sys2Proof.Machine.execSubmit guard w d a s
  | .cancel guard w d a level => Sys2Proof.Machine.execCancel guard w d a level s
  | .rmreq guard w d a => Sys2Proof.Machine.execRmreq guard w d a s
  | .rmstat guard w d a => Sys2Proof.Machine.execRmstat guard w d a s
  | .vadd h sat a b => Sys2Proof.Machine.execVadd h sat a b s
  | .vsub h sat a b => Sys2Proof.Machine.execVsub h sat a b s
  | .vmul h sat a b => Sys2Proof.Machine.execVmul h sat a b s
  | .vfma h a b c => Sys2Proof.Machine.execVfma h a b c s
  | .vmin h a b => Sys2Proof.Machine.execVmin h a b s
  | .vmax h a b => Sys2Proof.Machine.execVmax h a b s
  | .vabs h a => Sys2Proof.Machine.execVabs h a s
  | .vneg h a => Sys2Proof.Machine.execVneg h a s
  | .vdot k w d a b c => Sys2Proof.Machine.execVdot k w d a b c s
  | .vand h a b => Sys2Proof.Machine.execVand h a b s
  | .vor h a b => Sys2Proof.Machine.execVor h a b s
  | .vxor h a b => Sys2Proof.Machine.execVxor h a b s
  | .vnot h a => Sys2Proof.Machine.execVnot h a s
  | .vshl h a b => Sys2Proof.Machine.execVshl h a b s
  | .vshr h a b => Sys2Proof.Machine.execVshr h a b s
  | .vsar h a b => Sys2Proof.Machine.execVsar h a b s
  | .vcmp k t d cond a b => Sys2Proof.Machine.execVcmp k t d cond a b s
  | .vsel h a b sv neg => Sys2Proof.Machine.execVsel h a b sv neg s
  | .vcvt h src part a => Sys2Proof.Machine.execVcvt h src part a s
  | .vqnt h ct zp a b => Sys2Proof.Machine.execVqnt h ct zp a b s
  | .vdqnt h ct zp a b => Sys2Proof.Machine.execVdqnt h ct zp a b s
  | .vexpm k w d a => Sys2Proof.Machine.execVexpm k w d a s
  | .valign k w d dir a b => Sys2Proof.Machine.execValign k w d dir a b s
  | .vred h op a => Sys2Proof.Machine.execVred h op a s
  | .vscan h op a => Sys2Proof.Machine.execVscan h op a s
  | .vperm h a b => Sys2Proof.Machine.execVperm h a b s
  | .vbcast h a j => Sys2Proof.Machine.execVbcast h a j s
  | .vcomp h a sv => Sys2Proof.Machine.execVcomp h a sv s
  | .vexp2 h a => Sys2Proof.Machine.execVexp2 h a s
  | .vlog2 h a => Sys2Proof.Machine.execVlog2 h a s
  | .vrcp h a => Sys2Proof.Machine.execVrcp h a s
  | .vrsq h a => Sys2Proof.Machine.execVrsq h a s
  | .vtanh h a => Sys2Proof.Machine.execVtanh h a s
  | .tcfg m f32 rows cols => Sys2Proof.Machine.execTcfg m f32 rows cols s
  | .tzero m => Sys2Proof.Machine.execTzero m s
  | .trel m => Sys2Proof.Machine.execTrel m s
  | .ttrans m => Sys2Proof.Machine.execTtrans m s
  | .tdirty m => Sys2Proof.Machine.execTdirty m s
  | .vmov h a => Sys2Proof.Machine.execVmov h a s
  | .vins h a j => Sys2Proof.Machine.execVins h a j s
  | .vext w t d a j => Sys2Proof.Machine.execVext w t d a j s
  | .vli h imm => Sys2Proof.Machine.execVli h imm s
  | .lit e imm => Sys2Proof.Machine.execLit e imm s
  | .lith e imm => Sys2Proof.Machine.execLith e imm s
  | .dup e => Sys2Proof.Machine.execDup e s
  | .drop e => Sys2Proof.Machine.execDrop e s
  | .swap e => Sys2Proof.Machine.execSwap e s
  | .over e => Sys2Proof.Machine.execOver e s
  | .clrs e => Sys2Proof.Machine.execClrs e s
  | .pushg e g => Sys2Proof.Machine.execPushg e g s
  | .mma z f => Sys2Proof.Machine.execMma z f s
  | .mdrain z sv => Sys2Proof.Machine.execMdrain z sv s
  | .mroute => Sys2Proof.Machine.execMroute s
  | .maccld => Sys2Proof.Machine.execMaccld s
  | .cpy ch codec win => Sys2Proof.Machine.execCpy ch codec win s
  | .cpys codec win => Sys2Proof.Machine.execCpys codec win s
  | .cpyh => Sys2Proof.Machine.execCpyh s
  | .cpyp ch codec sl win => Sys2Proof.Machine.execCpyp ch codec sl win s
  | .cgath size => Sys2Proof.Machine.execCgath size s
  | .cstrm win => Sys2Proof.Machine.execCstrm win s
  | .csink => Sys2Proof.Machine.execCsink s
  | .cfill => Sys2Proof.Machine.execCfill s
  | .instructionFetchReturn c => Sys2Proof.Machine.execInstructionFetchReturn c s
  | .contextWake c => Sys2Proof.Machine.execContextWake c s
  | .contextOverdue c => Sys2Proof.Machine.execContextOverdue c s
  | .forceOutBackstop c => Sys2Proof.Machine.execForceOutBackstop c s
  | .issueHoldRelease c => Sys2Proof.Machine.execIssueHoldRelease c s
  | .dividerDone k => Sys2Proof.Machine.execDividerDone k s
  | .lateResultArrive c id => Sys2Proof.Machine.execLateResultArrive c id s
  | .loadDataReturn c home => Sys2Proof.Machine.execLoadDataReturn c home s
  | .storeAck id => Sys2Proof.Machine.execStoreAck id s
  | .homeWritePerform id part => Sys2Proof.Machine.execHomeWritePerform id part s
  | .amoHomePerform id => Sys2Proof.Machine.execAmoHomePerform id s
  | .causalWriteApply id die => Sys2Proof.Machine.execCausalWriteApply id die s
  | .plainWriteApply id part die => Sys2Proof.Machine.execPlainWriteApply id part die s
  | .pageFaultResolve id => Sys2Proof.Machine.execPageFaultResolve id s
  | .pageFaultDecline id => Sys2Proof.Machine.execPageFaultDecline id s
  | .dupWriteReplay id => Sys2Proof.Machine.execDupWriteReplay id s
  | .trapEntry c => Sys2Proof.Machine.execTrapEntry c s
  | .engineActivate k e => Sys2Proof.Machine.execEngineActivate k e s
  | .engineWriteLand k e home => Sys2Proof.Machine.execEngineWriteLand k e home s
  | .enginePortWrite k e home => Sys2Proof.Machine.execEnginePortWrite k e home s
  | .mdrainSteerTake k => Sys2Proof.Machine.execMdrainSteerTake k s
  | .csinkTokenTake k => Sys2Proof.Machine.execCsinkTokenTake k s
  | .chainPass c => Sys2Proof.Machine.execChainPass c s
  | .engineOpComplete k e => Sys2Proof.Machine.execEngineOpComplete k e s
  | .engineFault k e => Sys2Proof.Machine.execEngineFault k e s
  | .tokenSlotSend die router out => Sys2Proof.Machine.execTokenSlotSend die router out s
  | .tokenArrive die router inp circ => Sys2Proof.Machine.execTokenArrive die router inp circ s
  | .handlePortToken c port => Sys2Proof.Machine.execHandlePortToken c port s
  | .creditReturn n => Sys2Proof.Machine.execCreditReturn n s
  | .packetBeatSend die router out => Sys2Proof.Machine.execPacketBeatSend die router out s
  | .slotBankSwitch die => Sys2Proof.Machine.execSlotBankSwitch die s
  | .bridgeFlitSend die node => Sys2Proof.Machine.execBridgeFlitSend die node s
  | .bridgeFlitReceive die node f => Sys2Proof.Machine.execBridgeFlitReceive die node f s
  | .bridgeFlitAck die node => Sys2Proof.Machine.execBridgeFlitAck die node s
  | .laneSpare die node lane => Sys2Proof.Machine.execLaneSpare die node lane s
  | .phyRecalDone channel => Sys2Proof.Machine.execPhyRecalDone channel s
  | .spareCoreRemap die core => Sys2Proof.Machine.execSpareCoreRemap die core s
  | .hbmChannelRetire channel => Sys2Proof.Machine.execHbmChannelRetire channel s
  | .rmLoad die tag => Sys2Proof.Machine.execRmLoad die tag s
  | .rmLoadChunk die region => Sys2Proof.Machine.execRmLoadChunk die region s
  | .rmSwap die tag => Sys2Proof.Machine.execRmSwap die tag s
  | .rmQuiesce die tag => Sys2Proof.Machine.execRmQuiesce die tag s
  | .rmResume die tag => Sys2Proof.Machine.execRmResume die tag s
  | .rmClock die tag => Sys2Proof.Machine.execRmClock die tag s
  | .rmStatus die tag => Sys2Proof.Machine.execRmStatus die tag s
  | .regionIdle die region => Sys2Proof.Machine.execRegionIdle die region s
  | .rmTimeout die region => Sys2Proof.Machine.execRmTimeout die region s
  | .regionClockSettle die region => Sys2Proof.Machine.execRegionClockSettle die region s
  | .regionTokenAccept die region port => Sys2Proof.Machine.execRegionTokenAccept die region port s
  | .regionTokenEmit die region => Sys2Proof.Machine.execRegionTokenEmit die region s
  | .mtileToken die region node => Sys2Proof.Machine.execMtileToken die region node s
  | .capsuleReadoutEnd c => Sys2Proof.Machine.execCapsuleReadoutEnd c s
  | .capsuleRouterCheck n => Sys2Proof.Machine.execCapsuleRouterCheck n s
  | .capsuleArrive a => Sys2Proof.Machine.execCapsuleArrive a s
  | .capsuleReceiveDone c => Sys2Proof.Machine.execCapsuleReceiveDone c s
  | .capsuleEscape n => Sys2Proof.Machine.execCapsuleEscape n s
  | .capsuleSpillDone n => Sys2Proof.Machine.execCapsuleSpillDone n s
  | .capsuleUnspill die world => Sys2Proof.Machine.execCapsuleUnspill die world s
  | .capsinkDeliver die slot => Sys2Proof.Machine.execCapsinkDeliver die slot s
  | .capsinkHeaderAck die slot => Sys2Proof.Machine.execCapsinkHeaderAck die slot s
  | .sqwidxWrite n v => Sys2Proof.Machine.execSqwidxWrite n v s
  | .cqridxWrite n v => Sys2Proof.Machine.execCqridxWrite n v s
  | .sqJobOpen src id => Sys2Proof.Machine.execSqJobOpen src id s
  | .sqJobClose src => Sys2Proof.Machine.execSqJobClose src s
  | .sqPhase src id => Sys2Proof.Machine.execSqPhase src id s
  | .sqGraph src id => Sys2Proof.Machine.execSqGraph src id s
  | .sqLaunch src ids p => Sys2Proof.Machine.execSqLaunch src ids p s
  | .sqCancel src => Sys2Proof.Machine.execSqCancel src s
  | .cancelApply n => Sys2Proof.Machine.execCancelApply n s
  | .unitEndReport world launch unit => Sys2Proof.Machine.execUnitEndReport world launch unit s
  | .dispatchUnit die => Sys2Proof.Machine.execDispatchUnit die s
  | .startToken world launch => Sys2Proof.Machine.execStartToken world launch s
  | .xzBindqWrite die v bytes => Sys2Proof.Machine.execXzBindqWrite die v bytes s
  | .xzCntSelect die v => Sys2Proof.Machine.execXzCntSelect die v s
  | .xzWdogKick die => Sys2Proof.Machine.execXzWdogKick die s
  | .xzRmqWrite die v bytes => Sys2Proof.Machine.execXzRmqWrite die v bytes s
  | .fwStage die => Sys2Proof.Machine.execFwStage die s
  | .fwVerifyDone die => Sys2Proof.Machine.execFwVerifyDone die s
  | .fwCommit die => Sys2Proof.Machine.execFwCommit die s
  | .fwOk die => Sys2Proof.Machine.execFwOk die s
  | .fwOkTimeout die => Sys2Proof.Machine.execFwOkTimeout die s
  | .launchWatchdogExpire world launch => Sys2Proof.Machine.execLaunchWatchdogExpire world launch s
  | .heartbeatHalf die => Sys2Proof.Machine.execHeartbeatHalf die s
  | .heartbeatExpire die => Sys2Proof.Machine.execHeartbeatExpire die s
  | .romHeartbeatMiss die => Sys2Proof.Machine.execRomHeartbeatMiss die s
  | .dieSelftestTimeout die => Sys2Proof.Machine.execDieSelftestTimeout die s
  | .securityContactLost => Sys2Proof.Machine.execSecurityContactLost s
  | .mtimerInterrupt die => Sys2Proof.Machine.execMtimerInterrupt die s
  | .mgmtCoreInstruction die => Sys2Proof.Machine.execMgmtCoreInstruction die s
  | .slotResume die slot => Sys2Proof.Machine.execSlotResume die slot s
  | .slotRestart die slot => Sys2Proof.Machine.execSlotRestart die slot s
  | .slotCancel die slot => Sys2Proof.Machine.execSlotCancel die slot s
  | .slotCut die slot => Sys2Proof.Machine.execSlotCut die slot s
  | .slotRestore die slot => Sys2Proof.Machine.execSlotRestore die slot s
  | .markerArrive die slot port => Sys2Proof.Machine.execMarkerArrive die slot port s
  | .cutSave world launch => Sys2Proof.Machine.execCutSave world launch s
  | .tlbinvWrite die v => Sys2Proof.Machine.execTlbinvWrite die v s
  | .tlbinvDone die => Sys2Proof.Machine.execTlbinvDone die s
  | .seqGo die v world id => Sys2Proof.Machine.execSeqGo die v world id s
  | .seqStop die => Sys2Proof.Machine.execSeqStop die s
  | .seqBudgetCheck die id => Sys2Proof.Machine.execSeqBudgetCheck die id s
  | .seqDrain die id => Sys2Proof.Machine.execSeqDrain die id s
  | .worldMapWrite die part v => Sys2Proof.Machine.execWorldMapWrite die part v s
  | .worldZeroDone die part => Sys2Proof.Machine.execWorldZeroDone die part s
  | .keyload => Sys2Proof.Machine.execKeyload s
  | .revoke => Sys2Proof.Machine.execRevoke s
  | .revokeSweepDone => Sys2Proof.Machine.execRevokeSweepDone s
  | .sealBlob => Sys2Proof.Machine.execSealBlob s
  | .keystat => Sys2Proof.Machine.execKeystat s
  | .group => Sys2Proof.Machine.execGroup s
  | .groupLinkUp port pkg digest proof => Sys2Proof.Machine.execGroupLinkUp port pkg digest proof s
  | .getVersion => Sys2Proof.Machine.execGetVersion s
  | .getCapabilities => Sys2Proof.Machine.execGetCapabilities s
  | .negotiateAlgorithms => Sys2Proof.Machine.execNegotiateAlgorithms s
  | .getDigests => Sys2Proof.Machine.execGetDigests s
  | .getCertificate => Sys2Proof.Machine.execGetCertificate s
  | .challenge => Sys2Proof.Machine.execChallenge s
  | .getMeasurements => Sys2Proof.Machine.execGetMeasurements s
  | .spdmUnsupportedRequest => Sys2Proof.Machine.execSpdmUnsupportedRequest s
  | .sievePosition die sieve => Sys2Proof.Machine.execSievePosition die sieve s
  | .sieveCommit die sieve => Sys2Proof.Machine.execSieveCommit die sieve s
  | .sieveDiscard die sieve => Sys2Proof.Machine.execSieveDiscard die sieve s
  | .sieveClear die sieve => Sys2Proof.Machine.execSieveClear die sieve s
  | .sieveClearDone die sieve => Sys2Proof.Machine.execSieveClearDone die sieve s
  | .sieveLogitToken die sieve => Sys2Proof.Machine.execSieveLogitToken die sieve s
  | .sieveMaskToken die sieve => Sys2Proof.Machine.execSieveMaskToken die sieve s
  | .sieveInsert die sieve => Sys2Proof.Machine.execSieveInsert die sieve s
  | .sieveSegmentEnd die sieve => Sys2Proof.Machine.execSieveSegmentEnd die sieve s
  | .sieveEos die sieve => Sys2Proof.Machine.execSieveEos die sieve s
  | .powerWindow watts => Sys2Proof.Machine.execPowerWindow watts s
  | .pwrcapWrite v => Sys2Proof.Machine.execPwrcapWrite v s
  | .powerGood r => Sys2Proof.Machine.execPowerGood r s
  | .packageReset => Sys2Proof.Machine.execPackageReset s
  | .hostBar2Access fn off req => Sys2Proof.Machine.execHostBar2Access fn off req s
  | .registerWrite r v => Sys2Proof.Machine.execRegisterWrite r v s
  | .debugPortRead a => Sys2Proof.Machine.execDebugPortRead a s
  | .phyRecalibration channel => Sys2Proof.Machine.execPhyRecalibration channel s
  | .dieSelfCheckPass die => Sys2Proof.Machine.execDieSelfCheckPass die s

end Sys2Proof.Machine
end

