-- ==== Sys2Proof/Machine/Auto.lean ====
section
/-! DEFINITION. The model's own order of events when no agenda is given: the event that a waiting core is
waiting for, the first of a list that changes anything (a DESIGN CHOICE, log entry 9; the agenda gives every other
order). -/

namespace Sys2Proof.Machine

/-- The events of a context that may let its core go on. -/
def State.ctxEvents (s : State) (c : CtxId) : List Instr :=
  [.instructionFetchReturn c, .trapEntry c] ++
    ((s.ctx c).wait.lates.map fun l => Instr.lateResultArrive c l.id) ++
    [.loadDataReturn c true, .chainPass c, .capsuleReadoutEnd c, .capsuleReceiveDone c]

/-- The events of the engines of a core. -/
def engineEvents (k : CoreId) (e : Engine) : List Instr :=
  [.engineFault k e, .engineOpComplete k e, .engineWriteLand k e true, .enginePortWrite k e true, .engineActivate k e]

/-- The events of the writes that are on their way, in the order of their issue. -/
def State.writeEvents (s : State) : List Instr :=
  s.mem.writes.flatMap fun w =>
    (if w.amo.isSome then [Instr.amoHomePerform w.id]
     else (List.range w.parts.length).map fun i => Instr.homeWritePerform w.id i) ++
    (allDies.flatMap fun d => Instr.causalWriteApply w.id d :: (List.range w.parts.length).map fun i => .plainWriteApply w.id i d) ++
    [.storeAck w.id]

/-- The events in the order in which they are tried. -/
def State.autoEvents (s : State) : List Instr :=
  let k := s.cur.coreId
  ((List.range 4).flatMap fun n => s.ctxEvents (k.ctx n)) ++ [.dividerDone k, .mdrainSteerTake k, .csinkTokenTake k] ++
    engineEvents k .ce ++ engineEvents k .me ++ s.writeEvents ++
    (List.range 4).map fun n => Instr.issueHoldRelease (k.ctx n)

/-- The event changes the state. -/
def State.moves (s : State) (i : Instr) : Bool :=
  match exec i s with
  | .next t => t != s
  | .fault _ | .refused _ => false

/-- The event that a waiting core is waiting for. -/
def State.autoEvent (s : State) : Option Instr := s.autoEvents.find? s.moves

end Sys2Proof.Machine
end

