-- ==== Sys2Proof/Machine/Moves.lean ====
section
/-! DEFINITION. What the moves of the agenda do that are no rows of the instruction table (log entry 7): choices that the
spec leaves to the hardware, to firmware or to the host. -/

namespace Sys2Proof.Machine

/-- The matrix operation that runs reads a byte of scratch, or from 2^32 on of the Pantry, before the rest of its operands
(R176). -/
def State.sampleByte (s : State) (k : CoreId) (a : Nat) : State :=
  let x := s.core k
  let v := if a < 2 ^ 32 then Map.get x.scratch 0 a else Map.get x.pantry 0 (a - 2 ^ 32)
  s.onActive k .me fun op =>
    if (Map.find op.sampled a).isSome then op else { op with sampled := Map.put op.sampled a v.toNat }

/-- Bits of a granule or sector are upset. -/
def eccUpset (m : Map EccSt) (g : Nat) (single : Bool) : Map EccSt :=
  if single && (Map.find m g).isSome then m else Map.put m g (if single then .single else .bad)

/-- Bits of a sector are upset (R148): a single one can be corrected, unless the sector is worse already. -/
def State.upsetSector (s : State) (n : Nat) (single : Bool) : State :=
  s.onMem fun m => { m with ecc := eccUpset m.ecc n single }

/-- Bits of a granule of scratch or of the Pantry are upset (R148). -/
def State.upsetGranule (s : State) (k : CoreId) (pantry : Bool) (g : Nat) (single : Bool) : State :=
  s.onCore k fun x => if pantry then { x with pecc := eccUpset x.pecc g single } else { x with ecc := eccUpset x.ecc g single }

/-- The host writes its own memory. -/
def State.hostFill (s : State) (a : Nat) (data : List Byte) : State :=
  s.onMem fun m =>
    { m with bytes := ((data.zip (List.range data.length)).foldl (fun b x => putByte b (s.hostCell (a + x.2)) x.1) m.bytes) }

/-- The host reads a doubleword of BAR0 of a function. -/
def State.hostRegRead (s : State) (fn off : Nat) : State :=
  let v := if fn = 0 then s.bar0Read (off / 8 * 8) else s.vfRead (fn - 1) (off / 8 * 8)
  { s with dev := { s.dev with seen := leBytes v.toNat 8 } }

/-- A line leaves the L2 slice of a die (R139), with its bytes as the die saw them: the die reads a byte from its home again,
where the last write has been applied on the die, or may be applied there now (R427). -/
def State.dropCopies (s : State) (d l : Nat) : State :=
  let stays (a : Nat) (c : Copy) : Bool := c.own || match Map.find s.mem.lastW a with
    | none => false
    | some n => match s.write n with
      | none => false
      | some w => !(w.appliedAt d || (!w.causal && s.mayApply d w))
  s.onMem fun m => { m with copies := m.copies.filter fun (p : Nat × Copy) =>
    p.1 / 2 ^ 39 ≠ d || lineOf (p.1 % 2 ^ 39) ≠ l || stays (p.1 % 2 ^ 39) p.2 }.dropLine d l

/-- The address of a row of a copy, or of a sixteen of a stream's bytes. -/
def EngOp.ahead (op : EngOp) (row : Nat) : Option Word :=
  let args := match op.instr with
    | .cpyp _ _ sl _ => cpypArgs op sl
    | _ => op.args
  match op.instr with
  | .cpy .. | .cpys .. | .cpyp .. => if row < (args.getD 2 0).toNat then some (rowVa args row) else none
  | .cstrm _ | .csink => if 16 * row < (args.headD 0).toNat then some (args.getD 1 0 + BitVec.ofNat 64 (16 * row)) else none
  | _ => none

/-- The address generator of a copy engine walks the page of a row of the operation that runs, before its sectors are asked
for (R144): a walk that fails is met by the access itself. -/
def State.prefetchRow (s : State) (k : CoreId) (row : Nat) : State :=
  match (s.core k).ce.active with
  | none => s
  | some op =>
    match op.ahead row with
    | none => s
    | some va =>
      match s.walk (s.worldOf k) va with
      | .error _ => s
      | .ok e => s.onCore k fun x => { x with stlb := tlbAdd x.stlb (tlbSize true) e }

/-- Carry out what a core does when it may issue. -/
def State.runPlan (s : State) (p : IssuePlan) : Host.Outcome State Fault Refusal :=
  match p with
  | .idle => .next s
  | .other t => .next t
  | .exec i t => exec i t

/-- The size of the BAR2 of the physical function is one of 256 MiB to 512 GiB (R24). -/
def State.resizeBar2 (s : State) (log : Nat) : State :=
  if 28 ≤ log ∧ log ≤ 39 then { s with dev := { s.dev with bar2Log := log } } else s

/-- The event is one of the I/O die, the security core, the host or memory: it needs no compute die that runs. -/
def offDieEvent : Instr → Bool
  | .hostBar2Access .. | .registerWrite (.bar0 _ _) _ | .registerWrite (.vf _ _ _) _ | .debugPortRead _ | .powerWindow _
  | .pwrcapWrite _ | .powerGood _ | .packageReset | .securityContactLost | .keyload | .revoke | .revokeSweepDone | .sealBlob
  | .keystat | .group | .groupLinkUp .. | .getVersion | .getCapabilities | .negotiateAlgorithms | .getDigests
  | .getCertificate | .challenge | .getMeasurements | .spdmUnsupportedRequest | .homeWritePerform .. | .plainWriteApply ..
  | .storeAck _ => true
  | _ => false

/-- A move that happens while the compute dies are held (R26). -/
def Move.offDie : Move → Bool
  | .event i => offDieEvent i
  | .bootStep | .upset .. | .hostWrite .. | .hostReg .. | .resizeBar2 _ | .elapse .. => true
  | _ => false

/-- Carry out one move of the agenda; while the compute dies are held, those of theirs have no effect (R26). -/
def State.runMove (s : State) (m : Move) : Host.Outcome State Fault Refusal :=
  if s.dev.held && !m.offDie then .next s
  else
  match m with
  | .issue k => s.runPlan (s.plan k)
  | .event i => if i.isEvent then exec i s else .next s
  | .elapse d n => .next (s.elapse d n)
  | .evict k a => .next (s.onCore k fun x => { x with icache := Map.drop x.icache a })
  | .window c k => .next (s.fetchAhead c k)
  | .sample k _ a => .next (s.sampleByte k a)
  | .upset n single => .next (s.upsetSector n single)
  | .upsetCore k p g single => .next (s.upsetGranule k p g single)
  | .hostWrite a data => .next (s.hostFill a data)
  | .hostReg fn off => .next (s.hostRegRead fn off)
  | .relay d => .next (s.relay d)
  | .setRoot w pa => .next { s with roots := Map.put s.roots w pa }
  | .loadPart c home k => .next (s.loadPart c home k)
  | .dropCopies d l => .next (s.dropCopies d l)
  | .prefetch k row => .next (s.prefetchRow k row)
  | .bootStep => .next s.bootStep
  | .measure n bs => .next (s.measure n bs)
  | .remapStart c => .next (s.beginRemap c.die c.core)
  | .retireRegion d n => .next (if d < 4 && n < 32 then s.retirePart d (128 + n) else s)
  | .laneRecal d n l => .next (s.laneRecal d n l)
  | .laneDone d n => .next (s.laneDone d n)
  | .resizeBar2 n => .next (s.resizeBar2 n)
  | .traffic d r o k w => .next (s.traffic d r o k w)
  | .farAllow p i => .next (s.farAllow p i)
  | .awayDone w l => .next (s.awayDone w l)
  | .setPlace p none => .next { s with far := Map.drop s.far p.toNat }
  | .setPlace p (some w) => .next { s with far := Map.put s.far p.toNat w }

end Sys2Proof.Machine
end

