-- ==== Sys2Proof/Machine/Step.lean ====
section
/-! DEFINITION. One step of the package: the next move of the agenda; with an empty agenda, one cycle of the
core of `cur`, or the event that lets it go on. -/

namespace Sys2Proof.Machine

/-- A step with an empty agenda: one cycle passes on the die of `cur`, and its core issues; a core that can do
nothing waits for the event that `autoEvent` names. While the compute dies are held, bring-up goes on (R26). -/
def State.defaultStep (s : State) : Host.Outcome State Fault Refusal :=
  let s := s.elapse s.cur.die 1
  if s.dev.held then .next s.bootStep
  else
  match s.plan s.cur.coreId with
  | .idle =>
    match s.autoEvent with
    | some e => exec e s
    | none => .next s
  | .other t => .next t
  | .exec i t => exec i t

/-- One step. -/
def step (s : State) : Host.Outcome State Fault Refusal :=
  match s.agenda with
  | [] => s.defaultStep
  | m :: rest => { s with agenda := rest }.runMove m

/-- The state with an instruction word placed where the next step fetches. -/
def State.withFetchWord (s : State) (nbits w : Nat) : State :=
  s.placeWord s.cur (BitVec.ofNat 64 (w % 2 ^ nbits))

end Sys2Proof.Machine
end

