-- ==== Sys2Proof/Safety.lean ====
section
/-! DEFINITION. The terms in which statements speak: steps that complete, what an instruction leaves as it was, and
where an instruction that completes goes on. -/

namespace Sys2Proof

/-- A step that neither stops by a fault nor is refused. -/
def SafeStep (s : Machine.State) : Prop := ∃ t, Machine.step s = Host.Outcome.next t

/-- The guard of an instruction of Format A, B, C or M (R75); SEL reads its guard fields as its selector. -/
def Instr.guardOf : Instr → Option Guard
  | .add x | .sub x | .and x | .andn x | .or x | .xor x | .shl x | .shr x | .sar x | .min x | .max x | .minu x
  | .maxu x | .mul x | .mulh x | .mulhu x | .div x | .divu x | .rem x | .remu x | .clz x | .ctz x | .popc x
  | .ext x | .extu x | .ins x | .mov x | .movhi x | .cmp x | .pand x | .por x | .pxor x | .lpget x | .lprst x => some x.guard
  | .pnot g _ _ | .pmovGToK g _ _ | .pmovKToG g _ _ _ | .br g _ | .brx g _ | .call g _ | .callx g _ | .ret g _
  | .lpsetReg g _ _ _ | .lpsetImm g _ _ _ | .lpclr g _ | .ld g _ _ _ _ _ | .st g _ _ _ _ | .vld g _ _ _ _
  | .vst g _ _ _ | .tld g _ _ | .tst g _ _ _ | .ldg g _ _ _ _ _ _ | .stg g _ _ _ _ _ | .vldg g _ _ _ _ _
  | .vstg g _ _ _ _ | .pref g _ _ | .amo g _ _ _ _ _ _ _ _ _ | .amoh g _ _ _ _ _ | .halloc g _ _ _ _ _ | .hfree g _
  | .hinfo g _ _ _ | .feset g _ _ | .feclr g _ _ | .fetst g _ _ _ | .fence g _ _ | .qfence g _ | .ifence g
  | .srd g _ _ _ _ | .speek g _ _ _ _ _ _ | .swr g _ _ | .seos g _ | .ssteer g _ _ | .vsrd g _ _ _ _ | .vswr g _ _
  | .caprecv g _ _ | .caphdr g _ _ _ | .capnext g _ _ _ | .capins g _ _ | .capdel g _ _ | .capsend g | .capnew g _
  | .capend g | .capflt g _ | .ewait g _ | .estat g _ _ _ _ | .ftset g _ _ | .ftget g _ _ _ | .ftidx g _ _ _
  | .nop g | .fin g | .yield g | .wait g _ _ _ _ | .trap g _ | .tret g _ | .mfc g _ _ _ | .mtc g _ _ | .bkpt g
  | .submit g _ _ _ | .cancel g _ _ _ _ | .rmreq g _ _ _ | .rmstat g _ _ _ => some g
  | _ => none

/-- The instructions that are switch points whatever their guard (R56, R253); a branch is one only when it is taken. -/
def Instr.isSwitch : Instr → Bool
  | .ld _ _ q _ _ _ => q != .plain
  | .vld _ q _ _ _ => q != .plain
  | .st _ _ q _ _ => q == .ew
  | .ldg .. | .vldg .. | .srd .. | .speek .. | .swr .. | .seos .. | .vsrd .. | .vswr .. | .ssteer .. | .ewait ..
  | .wait .. | .yield .. | .caprecv .. | .fin .. | .tret .. => true
  | _ => false

/-- The engine a launch word is for (R94, R95). -/
def Instr.launchEngine : Instr → Option Engine
  | .mma .. | .mdrain .. | .mroute | .maccld => some .me
  | .cpy .. | .cpys .. | .cpyh | .cpyp .. | .cgath .. | .cstrm .. | .csink | .cfill => some .ce
  | _ => none

namespace Machine

/-- An instruction or event completes in a next state with a property. -/
def Ends (i : Instr) (s : State) (P : State → Prop) : Prop := ∃ t, exec i s = Host.Outcome.next t ∧ P t

/-! ## What stays as it was -/

/-- A core but for which context holds issue (R55). -/
def CoreSt.still (x : CoreSt) : CoreSt := { x with holder := none, last := 0 }

/-- A context but for its issue count (R57). -/
def CtxSt.still (x : CtxSt) : CtxSt := { x with wait := { x.wait with overdue := false, issueStart := 0 } }

/-- Every byte of global memory reads as it did, at every die (R139, R190). -/
def SameMemory (s t : State) : Prop :=
  ∀ d home key a, t.memBytes d home key a 1 = s.memBytes d home key a 1

/-- Outside a context only issue may pass: the dies, the memory, the network, the keys, the work and every other part
of the package are as they were, and the cores and the other contexts but for who holds issue. -/
structure Outside (c : CtxId) (s t : State) : Prop where
  rest   : t = { s with ctxs := t.ctxs, cores := t.cores }
  cores  : ∀ k, (t.core k).still = (s.core k).still
  others : ∀ e, e ≠ c → (t.ctx e).still = (s.ctx e).still
  bytes  : SameMemory s t

/-- The context itself, but for its registers, its program counter and its issue: control registers, engine status and
stacks, chain, held capsule, unit, results and traps that wait, and what orders its accesses. -/
structure Kept (c : CtxId) (s t : State) : Prop where
  ctl    : (t.ctx c).ctl = (s.ctx c).ctl
  mest   : (t.ctx c).mest = (s.ctx c).mest
  cest   : (t.ctx c).cest = (s.ctx c).cest
  chain  : (t.ctx c).chain = (s.ctx c).chain
  held   : (t.ctx c).held = (s.ctx c).held
  cap    : (t.ctx c).cap = (s.ctx c).cap
  sent   : (t.ctx c).sent = (s.ctx c).sent
  unit   : (t.ctx c).unit = (s.ctx c).unit
  stackM : (t.ctx c).regs.me = (s.ctx c).regs.me
  stackC : (t.ctx c).regs.ce = (s.ctx c).regs.ce
  lates  : (t.ctx c).wait.lates = (s.ctx c).wait.lates
  traps  : (t.ctx c).wait.traps = (s.ctx c).wait.traps
  load   : (t.ctx c).wait.load = (s.ctx c).wait.load
  replay : (t.ctx c).wait.replay = (s.ctx c).wait.replay
  stop   : (t.ctx c).wait.stop = (s.ctx c).wait.stop
  order  : { (t.ctx c).order with dep := [] } = { (s.ctx c).order with dep := [] }

/-- The general registers are as they were. -/
def KeepsG (c : CtxId) (s t : State) : Prop := ∀ r, (t.ctx c).regs.getG r = (s.ctx c).regs.getG r
/-- The predicate registers are as they were. -/
def KeepsK (c : CtxId) (s t : State) : Prop := ∀ r, (t.ctx c).regs.getK r = (s.ctx c).regs.getK r
/-- The vector registers are as they were. -/
def KeepsV (c : CtxId) (s t : State) : Prop := ∀ r, (t.ctx c).regs.getV r = (s.ctx c).regs.getV r
/-- The loop registers are as they were. -/
def KeepsZ (c : CtxId) (s t : State) : Prop := ∀ z, (t.ctx c).regs.getZ z = (s.ctx c).regs.getZ z

/-- The registers that instructions name, the control registers and the engine stacks are as they were. -/
def SameRegs (c : CtxId) (s t : State) : Prop :=
  KeepsG c s t ∧ KeepsK c s t ∧ KeepsV c s t ∧ (t.ctx c).ctl = (s.ctx c).ctl ∧
    (t.ctx c).regs.me = (s.ctx c).regs.me ∧ (t.ctx c).regs.ce = (s.ctx c).regs.ce

/-- A byte of global memory at its home (R139). -/
def State.homeByte (s : State) (a : Nat) : Byte := (s.mem.atHome a).val

/-- Every byte at its home is as it was, but for the bytes of a set of addresses. -/
def HomeSame (s t : State) (but : Nat → Prop) : Prop := ∀ a, ¬but a → t.homeByte a = s.homeByte a

/-- The writes on their way, but for whether one may still give way to an older one (R427). -/
def State.onWay (s : State) : List MemWrite := s.mem.writes.map fun w => { w with fixed := false }

/-- Memory is as it was, but for whether a write on its way may still give way to an older one (R427). -/
def MemKept (s t : State) : Prop := { t.mem with writes := [] } = { s.mem with writes := [] } ∧ t.onWay = s.onWay

/-! ## Where an instruction goes on -/

/-- Latches that are all invalid (R56). -/
def stale : Vector Latch 4 := Vector.replicate 4 Latch.invalid

/-- The loop test at the end of an instruction (R65): the loop registers after it, and the address to loop back to. In
S mode no loop is tested. -/
def State.loopEnd (s : State) (c : CtxId) : Regs × Option Word :=
  if (s.ctx c).ctl.s then ((s.ctx c).regs, none) else (s.ctx c).regs.loopTest (s.pc c)

/-- The instruction is complete (R65, R74): the program counter is at the next address or at the start of the loop that
ends here, the loop registers are as the loop test leaves them, and the latches are those given, or all invalid after a
loop back (R56); the context waits for nothing. -/
structure GoesOn (c : CtxId) (s t : State) (next : Word) (l : Vector Latch 4) : Prop where
  pc    : t.pc c = (s.loopEnd c).2.getD next
  z     : ∀ z, (t.ctx c).regs.getZ z = (s.loopEnd c).1.getZ z
  l     : (t.ctx c).regs.l = if (s.loopEnd c).2.isSome then stale else l
  park  : (t.ctx c).wait.park = none
  hold  : (t.ctx c).wait.hold = none

/-- The latches after a push (R59). -/
def pushed (c : CtxId) (s : State) (x : Latch) : Vector Latch 4 := ((s.ctx c).regs.push x).l

/-- An engine word is complete (R65, R86): inside its carrier the program counter is at the next word; after the last
word the loop test is made at the carrier's address. -/
structure WordGoesOn (c : CtxId) (s t : State) : Prop where
  inside : (s.ctx c).regs.wordNext.toNat % 8 ≠ 0 → t.pc c = (s.ctx c).regs.wordNext ∧ KeepsZ c s t ∧
    (t.ctx c).regs.l = (s.ctx c).regs.l
  last   : (s.ctx c).regs.wordNext.toNat % 8 = 0 →
    let q := (s.setPc c (wordAddr (s.pc c))).loopEnd c
    t.pc c = q.2.getD (s.ctx c).regs.wordNext ∧ (∀ z, (t.ctx c).regs.getZ z = q.1.getZ z) ∧
      (t.ctx c).regs.l = if q.2.isSome then stale else (s.ctx c).regs.l

/-- The instruction only goes on to the next word. -/
structure Passes (c : CtxId) (s t : State) : Prop where
  outside : Outside c s t
  kept    : Kept c s t
  g       : KeepsG c s t
  k       : KeepsK c s t
  v       : KeepsV c s t
  goes    : GoesOn c s t (s.pc c + 8) (s.ctx c).regs.l

/-- The instruction gives a scalar result (R59): to its destination register unless W is set or it is g0 (R58), and to
latch l0; nothing else changes. -/
structure GivesG (c : CtxId) (s t : State) (w : Bool) (d : GReg) (x : Word) : Prop where
  outside : Outside c s t
  kept    : Kept c s t
  g       : ∀ r, (t.ctx c).regs.getG r = if w = false ∧ r = d ∧ d ≠ 0 then x else (s.ctx c).regs.getG r
  k       : KeepsK c s t
  v       : KeepsV c s t
  goes    : GoesOn c s t (s.pc c + 8) (pushed c s (Latch.scalar x))

/-- The instruction gives a vector result (R59): to its destination register unless W is set, and to latch l0. -/
structure GivesV (c : CtxId) (s t : State) (w : Bool) (d : VReg) (x : Vec) : Prop where
  outside : Outside c s t
  kept    : Kept c s t
  g       : KeepsG c s t
  k       : KeepsK c s t
  v       : ∀ r, (t.ctx c).regs.getV r = if w = false ∧ r = d then x else (s.ctx c).regs.getV r
  goes    : GoesOn c s t (s.pc c + 8) (pushed c s (Latch.vector x))

/-- The instruction gives a predicate result (R315): to its destination register unless it is k0 (R58), and to no
latch. -/
structure GivesK (c : CtxId) (s t : State) (d : KReg) (x : Word) : Prop where
  outside : Outside c s t
  kept    : Kept c s t
  g       : KeepsG c s t
  k       : ∀ r, (t.ctx c).regs.getK r = if r = d ∧ d ≠ 0 then x else (s.ctx c).regs.getK r
  v       : KeepsV c s t
  goes    : GoesOn c s t (s.pc c + 8) (s.ctx c).regs.l

/-! ## Vector instructions -/

/-- The operands of a Format V instruction can be read and its destination written, and the slices it names can be
touched (R76, R82, R391), no restore of theirs meeting an error of scratch (R148): they are these operands and this
destination. -/
structure VecReady (s : State) (w : Bool) (d : VDst) (srcs : List (VSrc × Nat)) (args : List VArg) (dst : VDest) : Prop where
  read   : srcs.mapM (fun a => s.vsrc s.cur a.1 a.2) = .ok args
  dest   : s.vdst s.cur w d = .ok dst
  slices : s.argsOk s.cur args = .ok ()
  into   : ∀ r, dst = .slice r → ∃ cells, s.sliceOk s.cur r = .ok cells
  clean  : s.restoreReads s.cur (args ++ match dst with
    | .slice r => [.slice r]
    | .v _ | .g _ => []) = .ok s

/-- The value of the operand with a number. -/
def vecArg (s : State) (args : List VArg) (n : Nat) : Vec := (s.argVals s.cur args).2.getD n 0

/-- The state in which the slices of a Format V instruction have been touched (R62, R391). -/
def vecTouched (s : State) (args : List VArg) (dst : VDest) : State :=
  match dst with
  | .slice r => (s.argVals s.cur args).1.touch s.cur r.m.toNat
  | .v _ | .g _ => (s.argVals s.cur args).1

/-- Lane `i` is active under a mask register (R84). -/
def active (s : State) (k : KReg) (i : Nat) : Bool := ((s.ctx s.cur).regs.getK k).getLsbD i

/-- The lanes that the active lanes of a type get, and no others. -/
def onActive (s : State) (k : KReg) (n : Nat) (f : Nat → Nat) (i : Nat) : Option Nat :=
  if i < n && active s k i then some (f i) else none

/-- A scalar result: lane 0, and zero in every other lane (R391). -/
def onlyLane0 (v i : Nat) : Option Nat := if i = 0 then some v else some 0

/-- A Format V instruction is complete (R59, R84, R391). `lane` gives the lanes that it writes; a vector register and a
slice keep every other lane, a general register takes lane 0. Nothing else changes but the tiles it touches, the event
counts, and what they fire. -/
structure VecEnds (s t : State) (w : Bool) (args : List VArg) (dst : VDest) (ty : DTy) (lane : Nat → Option Nat) : Prop where
  toV : ∀ x, dst = .v x → ∃ v : Vec,
    (∀ i, i < 512 / ty.w → laneAt ty.w v i = (lane i).getD (laneAt ty.w ((s.ctx s.cur).regs.getV x) i) % 2 ^ ty.w) ∧
    (w = false → (t.ctx s.cur).regs.getV x = v) ∧ GoesOn s.cur s t (s.pc s.cur + 8) (pushed s.cur s (Latch.vector v))
  toG : ∀ x, dst = .g x →
    let v : Word := match lane 0 with
      | some b => BitVec.ofInt 64 (intOf ty.sgn ty.w (b % 2 ^ ty.w))
      | none => (s.ctx s.cur).regs.getG x
    (w = false → x ≠ 0 → (t.ctx s.cur).regs.getG x = v) ∧ GoesOn s.cur s t (s.pc s.cur + 8) (pushed s.cur s (Latch.scalar v))
  toSlice : ∀ x, dst = .slice x →
    let q := ((vecTouched s args dst).core s.cur.coreId).tile x.m.toNat
    ∀ cells, sliceCells q.shape x.dir x.i = some cells → ∃ v : Vec,
      (∀ i, i < 16 → laneAt 32 v i =
        if i < cells.length then (lane i).getD (laneAt 32 (q.readSlice cells) i) % 2 ^ 32 else 0) ∧
      (t.core s.cur.coreId).tile x.m.toNat = q.writeSlice cells v ∧
      GoesOn s.cur s t (s.pc s.cur + 8) (pushed s.cur s (Latch.vector v))
  v : ∀ r, (∀ x, dst = .v x → w = true ∨ r ≠ x) → (t.ctx s.cur).regs.getV r = (s.ctx s.cur).regs.getV r
  g : ∀ r, (∀ x, dst = .g x → w = true ∨ r ≠ x) → (t.ctx s.cur).regs.getG r = (s.ctx s.cur).regs.getG r
  k : KeepsK s.cur s t
  tiles : ∀ n, (∀ x, dst = .slice x → n ≠ x.m.toNat) →
    (t.core s.cur.coreId).tile n = ((vecTouched s args dst).core s.cur.coreId).tile n
  core : ({ (t.core s.cur.coreId).still with tiles := [] } : CoreSt) =
    { ((vecTouched s args dst).core s.cur.coreId).still with tiles := [] }
  cores : ∀ k, k ≠ s.cur.coreId → (t.core k).still = (s.core k).still
  others : ∀ e, e ≠ s.cur → (t.ctx e).still = (s.ctx e).still
  ctl : (s.ctx s.cur).ctl =
    let k := (s.ctx s.cur).ctl
    { (t.ctx s.cur).ctl with evcnt := k.evcnt, evpos := k.evpos, fired := k.fired }
  mem : t.mem = s.mem
  net : t.net = s.net

/-- The instruction counts no event and fires nothing; one with an active lane advances the window (R125). -/
def Quiet (s t : State) (any : Bool) : Prop :=
  (t.ctx s.cur).wait.traps = (s.ctx s.cur).wait.traps ∧ t.dies = s.dies ∧
  ((s.ctx s.cur).ctl.evlen = 0 → (t.ctx s.cur).ctl.evcnt = (s.ctx s.cur).ctl.evcnt ∧
    (t.ctx s.cur).ctl.evpos = (s.ctx s.cur).ctl.evpos + if any then 1 else 0)

/-- Some lane of a type is active. -/
def anyActive (s : State) (k : KReg) (n : Nat) : Bool := (List.range n).any (active s k)

/-! ## Work -/

/-- A state in which, from one with a property, every object that is over has completed (R37, R234). -/
def Settles (P : State → Prop) (t : State) : Prop := ∃ u : State, t = u.settle ∧ P u

/-- An entry has been posted to a host queue (R234): with nothing held back and room in the ring its bytes are at the
write index, the index moves on with the phase bit, and the queue's vector is sent, or is pending while it is masked (R24);
without room it waits. -/
def Posted (n : Nat) (e : CqEntry) (s t : State) : Prop :=
  let q := s.queue n
  let w := (q.cqw + 1) % q.cqSize
  (q.held = [] → q.room = true →
    t.getHost (q.cqbase.toNat + 32 * q.cqw) 32 = e.bytes q.phase ∧
      (s.dev.unmasked.contains (64 * s.msiFn q.world + q.vec) = true → t.work.msi = s.work.msi ++ [(s.msiFn q.world, q.vec)]) ∧
      (s.dev.unmasked.contains (64 * s.msiFn q.world + q.vec) = false →
        t.work.msi = s.work.msi ∧ 64 * s.msiFn q.world + q.vec ∈ t.dev.pba) ∧
      t.queue n = { q with cqw := w, unread := q.unread + 1, phase := if w = 0 then !q.phase else q.phase }) ∧
  (q.room = false → t.queue n = { q with held := q.held ++ [e] } ∧ t.mem = s.mem)

/-- The response of the security core stands in the mailbox, and MBST shows it (R282). -/
def Answered (cls : Nat) (body : List Byte) (t : State) : Prop :=
  t.mailBytes 0x8000 (8 + body.length) = leBytes cls 1 ++ [0, 0, 0] ++ leBytes body.length 4 ++ body ∧
    t.sec.busy = false ∧ t.sec.ready = true

end Machine

end Sys2Proof
end

