-- ==== Sys2Proof/Certificates/Slice0/Obligations.lean ====
section
/-! DEFINITION. The statements for the provers. -/

section

open Sys2Proof Sys2Proof.Machine

/-! ## Scalar instructions -/

/-- The two-source instructions (R294, R295, R301, R352, R361, R363, R374, R384, R409): the result of each in the 64-bit
form; in the 32-bit form it works on bits [31:0] of each source and its result is sign-extended from bit 31. Nothing
else changes. An immediate is the sign-extended imm29. The words that R295, R301, R352, R363 and R384 write out stand for
these instructions. -/
def Obligations.ScalarArithmetic : Prop :=
  (∀ (s : State) (x : AluArgs) (a b : Word), x.w32 = false →
     s.guardTrue s.cur x.guard = true → s.readSrc s.cur x.a = .ok a → s.readSrc2 s.cur x.b = .ok b →
     s.useDestG s.cur x.w x.d = .ok () →
     let gives (i : Instr) (v : Word) : Prop := Ends i s fun t => GivesG s.cur s t x.w x.d v
     let n := b.toNat % 64
     gives (.add x) (a + b) ∧ gives (.sub x) (a - b) ∧ gives (.and x) (a &&& b) ∧ gives (.andn x) (a &&& ~~~b) ∧
     gives (.or x) (a ||| b) ∧ gives (.xor x) (a ^^^ b) ∧
     gives (.shl x) (a <<< n) ∧ gives (.shr x) (a >>> n) ∧ gives (.sar x) (a.sshiftRight n) ∧
     gives (.min x) (if a.toInt ≤ b.toInt then a else b) ∧ gives (.max x) (if b.toInt ≤ a.toInt then a else b) ∧
     gives (.minu x) (if a.toNat ≤ b.toNat then a else b) ∧ gives (.maxu x) (if b.toNat ≤ a.toNat then a else b) ∧
     gives (.mul x) (a * b) ∧
     gives (.mulh x) ((a.signExtend 128 * b.signExtend 128).extractLsb' 64 64) ∧
     gives (.mulhu x) ((a.zeroExtend 128 * b.zeroExtend 128).extractLsb' 64 64)) ∧
  (∀ (s : State) (x : AluArgs) (a b : Word), x.w32 = true →
     s.guardTrue s.cur x.guard = true → s.readSrc s.cur x.a = .ok a → s.readSrc2 s.cur x.b = .ok b →
     s.useDestG s.cur x.w x.d = .ok () →
     let gives (i : Instr) (v : BitVec 32) : Prop := Ends i s fun t => GivesG s.cur s t x.w x.d (v.signExtend 64)
     let lo := a.extractLsb' 0 32
     let hi := b.extractLsb' 0 32
     let n := b.toNat % 32
     gives (.add x) (lo + hi) ∧ gives (.sub x) (lo - hi) ∧ gives (.and x) (lo &&& hi) ∧ gives (.andn x) (lo &&& ~~~hi) ∧
     gives (.or x) (lo ||| hi) ∧ gives (.xor x) (lo ^^^ hi) ∧
     gives (.shl x) (lo <<< n) ∧ gives (.shr x) (lo >>> n) ∧ gives (.sar x) (lo.sshiftRight n) ∧
     gives (.min x) (if lo.toInt ≤ hi.toInt then lo else hi) ∧ gives (.max x) (if hi.toInt ≤ lo.toInt then lo else hi) ∧
     gives (.minu x) (if lo.toNat ≤ hi.toNat then lo else hi) ∧ gives (.maxu x) (if hi.toNat ≤ lo.toNat then lo else hi) ∧
     gives (.mul x) (lo * hi) ∧
     gives (.mulh x) ((lo.signExtend 64 * hi.signExtend 64).extractLsb' 32 32) ∧
     gives (.mulhu x) ((lo.zeroExtend 64 * hi.zeroExtend 64).extractLsb' 32 32)) ∧
  (∀ (s : State) (n : BitVec 29), s.readSrc2 s.cur (.imm n) = .ok (n.signExtend 64)) ∧
  (let g4 : Src := .g 4
   let g5 : Src2 := .reg (.g 5)
   let word (w : Word) (i : Instr) : Prop := decode w 0 = .ok i ∧ encode i = some w
   word 0x040610102000000C (.add ⟨⟨3, false⟩, false, false, 4, .g 1, .imm 12⟩) ∧
   word 0x04200C4140000000 (.and ⟨⟨0, false⟩, false, false, 3, g4, g5⟩) ∧
   word 0x06500C40200000FF (.andn ⟨⟨0, false⟩, true, false, 3, g4, .imm 0xFF⟩) ∧
   word 0x04300C4140000000 (.or ⟨⟨0, false⟩, false, false, 3, g4, g5⟩) ∧
   word 0x04100C4140000000 (.sub ⟨⟨0, false⟩, false, false, 3, g4, g5⟩) ∧
   word 0x06900C403FFFFFFB (.min ⟨⟨0, false⟩, true, false, 3, g4, .imm (-5)⟩) ∧
   word 0x04A00C4140000000 (.max ⟨⟨0, false⟩, false, false, 3, g4, g5⟩) ∧
   word 0x04B00C4140000000 (.minu ⟨⟨0, false⟩, false, false, 3, g4, g5⟩) ∧
   word 0x04C00C4140000000 (.maxu ⟨⟨0, false⟩, false, false, 3, g4, g5⟩))

/-- CLZ, CTZ and POPC (R313, R324, R367) count the zero bits above the highest 1, those below the lowest, and the 1 bits
of the form's width. EXT, EXTU and INS (R332) take or insert the field of `w` bits from bit `pos`; the encoding keeps the
field within the form (R331). -/
def Obligations.BitCountsAndFields : Prop :=
  (∀ (s : State) (x : UnArgs) (a : Word),
     s.guardTrue s.cur x.guard = true → s.readSrc s.cur x.a = .ok a → s.useDestG s.cur x.w x.d = .ok () →
     let n := if x.w32 then 32 else 64
     let gives (i : Instr) (p : Nat → Prop) : Prop :=
       ∃ m, m ≤ n ∧ p m ∧ Ends i s fun t => GivesG s.cur s t x.w x.d (BitVec.ofNat 64 m)
     gives (.clz x) (fun m => (∀ j, n - m ≤ j → j < n → a.getLsbD j = false) ∧ (m < n → a.getLsbD (n - m - 1) = true)) ∧
     gives (.ctz x) (fun m => (∀ j, j < m → a.getLsbD j = false) ∧ (m < n → a.getLsbD m = true)) ∧
     gives (.popc x) (fun m => m = ((List.range n).filter fun j => a.getLsbD j).length)) ∧
  (decode 0x0550087000000000 0 = .ok (.ctz ⟨⟨0, false⟩, false, false, 2, .g 7⟩) ∧
   encode (.ctz ⟨⟨0, false⟩, false, false, 2, .g 7⟩) = some 0x0550087000000000 ∧
   decode 0x0740087000000000 0 = .ok (.clz ⟨⟨0, false⟩, true, false, 2, .g 7⟩) ∧
   encode (.clz ⟨⟨0, false⟩, true, false, 2, .g 7⟩) = some 0x0740087000000000 ∧
   decode 0x0560087000000000 0 = .ok (.popc ⟨⟨0, false⟩, false, false, 2, .g 7⟩) ∧
   encode (.popc ⟨⟨0, false⟩, false, false, 2, .g 7⟩) = some 0x0560087000000000) ∧
  (∀ (s : State) (x : FieldArgs) (a d : Word),
     let n := if x.w32 then 32 else 64
     let pos := x.pos.toNat
     let w := x.wm1.toNat + 1
     pos + w ≤ n → s.guardTrue s.cur x.guard = true → s.readSrc s.cur x.a = .ok a → s.readG s.cur x.d = .ok d →
     let form (v : Word) : Word := if x.w32 then (v.extractLsb' 0 32).signExtend 64 else v
     let gives (i : Instr) (v : Word) : Prop := Ends i s fun t => GivesG s.cur s t x.w x.d (form v)
     gives (.ext x) ((a.extractLsb' pos w).signExtend 64) ∧
     gives (.extu x) ((a.extractLsb' pos w).zeroExtend 64) ∧
     ∃ r : Word, gives (.ins x) r ∧
       ∀ j, j < n → r.getLsbD j = if pos ≤ j ∧ j < pos + w then a.getLsbD (j - pos) else d.getLsbD j)

/-- SEL, MOV, MOVHI and PMOV from a predicate register (R375, R358, R359, R366). SEL executes whatever its selector
(R75). -/
def Obligations.MovesAndSelection : Prop :=
  (∀ (s : State) (x : AluArgs) (a b : Word), s.readSrc s.cur x.a = .ok a → s.readSrc2 s.cur x.b = .ok b →
    s.useDestG s.cur x.w x.d = .ok () →
    let v := if s.guardTrue s.cur x.guard then a else b
    Ends (.sel x) s fun t => GivesG s.cur s t x.w x.d (if x.w32 then (v.extractLsb' 0 32).signExtend 64 else v)) ∧
  (∀ (s : State) (x : MovArgs) (b : Word), s.guardTrue s.cur x.guard = true → s.readSrc2 s.cur x.b = .ok b →
    s.useDestG s.cur x.w x.d = .ok () →
    Ends (.mov x) s fun t => GivesG s.cur s t x.w x.d (if x.w32 then (b.extractLsb' 0 32).signExtend 64 else b)) ∧
  (∀ (s : State) (x : MovHiArgs) (a : Word), s.guardTrue s.cur x.guard = true → s.readSrc s.cur x.a = .ok a →
    s.useDestG s.cur x.w x.d = .ok () →
    Ends (.movhi x) s fun t => GivesG s.cur s t x.w x.d (BitVec.ofNat 64 (x.imm.toNat * 2 ^ 35 + a.toNat % 2 ^ 35))) ∧
  (∀ (s : State) (g : Guard) (w : Bool) (d : GReg) (a : KReg), s.guardTrue s.cur g = true →
    s.useDestG s.cur w d = .ok () →
    Ends (.pmovKToG g w d a) s fun t => GivesG s.cur s t w d ((s.ctx s.cur).regs.getK a))

/-- CMP, the predicate operations and PMOV to a predicate register (R315, R366): a compare writes all ones or zero, the
others work on 64 bits; a write to k0 is discarded (R58). -/
def Obligations.PredicateResults : Prop :=
  (∀ (s : State) (x : CmpArgs) (a b : Word), s.guardTrue s.cur x.guard = true → s.readSrc s.cur x.a = .ok a →
    s.readSrc2 s.cur x.b = .ok b →
    let holds : Prop :=
      if x.w32 then
        let lo := a.extractLsb' 0 32
        let hi := b.extractLsb' 0 32
        match x.cond with
        | .eq => lo = hi | .ne => lo ≠ hi | .lt => lo.toInt < hi.toInt | .ge => hi.toInt ≤ lo.toInt
        | .ltu => lo.toNat < hi.toNat | .geu => hi.toNat ≤ lo.toNat | .tst => lo &&& hi ≠ 0 | .ntst => lo &&& hi = 0
      else
        match x.cond with
        | .eq => a = b | .ne => a ≠ b | .lt => a.toInt < b.toInt | .ge => b.toInt ≤ a.toInt
        | .ltu => a.toNat < b.toNat | .geu => b.toNat ≤ a.toNat | .tst => a &&& b ≠ 0 | .ntst => a &&& b = 0
    ∃ v : Word, (holds → v = BitVec.allOnes 64) ∧ (¬holds → v = 0) ∧
      Ends (.cmp x) s fun t => GivesK s.cur s t x.d v) ∧
  (∀ (s : State) (x : PredArgs), s.guardTrue s.cur x.guard = true →
    let a := (s.ctx s.cur).regs.getK x.a
    let b := (s.ctx s.cur).regs.getK x.b
    (Ends (.pand x) s fun t => GivesK s.cur s t x.d (a &&& b)) ∧ (Ends (.por x) s fun t => GivesK s.cur s t x.d (a ||| b)) ∧
    (Ends (.pxor x) s fun t => GivesK s.cur s t x.d (a ^^^ b))) ∧
  (∀ (s : State) (g : Guard) (d a : KReg), s.guardTrue s.cur g = true →
    Ends (.pnot g d a) s fun t => GivesK s.cur s t d (~~~(s.ctx s.cur).regs.getK a)) ∧
  (∀ (s : State) (g : Guard) (d : KReg) (a : Src) (v : Word), s.guardTrue s.cur g = true → s.readSrc s.cur a = .ok v →
    Ends (.pmovGToK g d a) s fun t => GivesK s.cur s t d v)

/-- DIV, DIVU, REM and REMU (R325, R326, R371): a divide that finds the core's divider free takes it; its result, the
quotient or remainder with the corner values of R325 and R371, is outstanding for its destination and for the value
pushed into l0. DIVIDER_DONE lands it in its register and in each latch that waits for it, and the divider is free. -/
def Obligations.Division : Prop :=
  (∀ (s : State) (x : AluArgs) (a b : Word),
     s.guardTrue s.cur x.guard = true → s.readSrc s.cur x.a = .ok a → s.readSrc2 s.cur x.b = .ok b →
     s.useDestG s.cur x.w x.d = .ok () → (s.core s.cur.coreId).divider = none →
     let form (f : (n : Nat) → BitVec n → BitVec n → BitVec n) : Word :=
       if x.w32 then (f 32 (a.extractLsb' 0 32) (b.extractLsb' 0 32)).signExtend 64 else f 64 a b
     let gives (i : Instr) (v : Word) : Prop := Ends i s fun t =>
       (t.ctx s.cur).wait.lates = (s.ctx s.cur).wait.lates ++
         [{ id := s.fresh, d := if x.w then .none else destG x.d, src := .divide v, value := none }] ∧
       (t.core s.cur.coreId).still = { (s.core s.cur.coreId).still with divider := some s.fresh } ∧
       (∀ k, k ≠ s.cur.coreId → t.core k = s.core k) ∧ t.fresh = s.fresh + 1 ∧
       t = { s with ctxs := t.ctxs, cores := t.cores, fresh := t.fresh } ∧ SameMemory s t ∧
       KeepsG s.cur s t ∧ KeepsK s.cur s t ∧ KeepsV s.cur s t ∧ (t.ctx s.cur).ctl = (s.ctx s.cur).ctl ∧
       (∀ e, e ≠ s.cur → (t.ctx e).still = (s.ctx e).still) ∧
       GoesOn s.cur s t (s.pc s.cur + 8) (pushed s.cur s { val := 0, isVec := false, valid := true, pend := some s.fresh })
     gives (.div x) (form fun n a b => if b = 0 then BitVec.allOnes n else BitVec.ofInt n (a.toInt.tdiv b.toInt)) ∧
     gives (.divu x) (form fun n a b => if b = 0 then BitVec.allOnes n else BitVec.ofNat n (a.toNat / b.toNat)) ∧
     gives (.rem x) (form fun n a b =>
       if b = 0 then a else BitVec.ofInt n (a.toInt - b.toInt * a.toInt.tdiv b.toInt)) ∧
     gives (.remu x) (form fun n a b => if b = 0 then a else BitVec.ofNat n (a.toNat - b.toNat * (a.toNat / b.toNat)))) ∧
  (∀ (s : State) (k : CoreId) (c : CtxId) (l : Late) (q : Word), k.die < 4 → k.core < 128 →
     s.dividing k = some (c, l) → l.src = .divide q →
     Ends (.dividerDone k) s fun t =>
       (t.core k).divider = none ∧ (∀ j, { t.core j with divider := none } = { s.core j with divider := none }) ∧
       (∀ r, (t.ctx c).regs.getG r = if l.d = .g r ∧ r ≠ 0 then q else (s.ctx c).regs.getG r) ∧
       (∀ j, (t.ctx c).regs.getL j = if ((s.ctx c).regs.getL j).pend = some l.id
         then { (s.ctx c).regs.getL j with val := q.zeroExtend 512, pend := none } else (s.ctx c).regs.getL j) ∧
       (t.ctx c).wait.lates = ((s.ctx c).wait.lates.filter fun x => x.id ≠ l.id) ∧
       KeepsK c s t ∧ KeepsV c s t ∧ KeepsZ c s t ∧ t.pc c = s.pc c ∧ (t.ctx c).ctl = (s.ctx c).ctl ∧
       (∀ e, e ≠ c → t.ctx e = s.ctx e) ∧ t = { s with ctxs := t.ctxs, cores := t.cores } ∧ SameMemory s t)

/-! ## Sources, guards, branches, loops -/

/-- What a source gives (R58, R59, R77): g0 is zero, a latch gives its low 64 bits, an immediate is sign-extended, and an
instruction that names an invalid latch takes LATCH-STALE before any state changes, when no waiting trap comes first
(R250). With a false guard (R75) an
instruction changes nothing and goes on; a kind that is a switch point still invalidates the latches. This is said of
every instruction that has a guard, when no waiting trap comes first. An instruction that the mode may not execute
raises PRIV whatever its guard (R70, R76). -/
def Obligations.SourcesAndFalseGuard : Prop :=
  (∀ (s : State) (c : CtxId),
     (∀ r : GReg, s.isPending c (destG r) = false → s.trapOn c (destG r) = false →
       s.readSrc c (.g r) = .ok (if r = 0 then 0 else (s.ctx c).regs.g[r.toNat])) ∧
     (∀ r : LReg, (s.ctx c).wait.traps = [] → ((s.ctx c).regs.l[r.toNat]).valid = true → ((s.ctx c).regs.l[r.toNat]).pend = none →
       s.readSrc c (.l r) = .ok (((s.ctx c).regs.l[r.toNat]).val.extractLsb' 0 64)) ∧
     (∀ v : BitVec 29, s.readSrc2 c (.imm v) = .ok (v.signExtend 64)) ∧
     (∀ (x : AluArgs) (r : LReg), c = s.cur → (s.ctx c).wait.traps = [] → s.guardTrue c x.guard = true → x.a = .l r →
       ((s.ctx c).regs.l[r.toNat]).valid = false →
       ∀ i ∈ [Instr.add x, .sub x, .and x, .andn x, .or x, .xor x, .shl x, .shr x, .sar x, .min x, .max x, .minu x, .maxu x,
         .mul x, .mulh x, .mulhu x, .div x, .divu x, .rem x, .remu x],
         exec i s = .next (s.raisePrecise c .latchStale 0))) ∧
  (∀ (s : State) (i : Instr) (g : Guard), i.guardOf = some g → s.guardTrue s.cur g = false →
     (s.ctx s.cur).wait.traps = [] → s.privOk s.cur i = true →
     Ends i s fun t => Outside s.cur s t ∧ Kept s.cur s t ∧ KeepsG s.cur s t ∧ KeepsK s.cur s t ∧ KeepsV s.cur s t ∧
       GoesOn s.cur s t (s.pc s.cur + 8) (if i.isSwitch then stale else (s.ctx s.cur).regs.l)) ∧
  (∀ (s : State) (i : Instr), (s.ctx s.cur).wait.traps = [] → s.privOk s.cur i = false →
     exec i s = .next (s.raisePrecise s.cur .priv 0))

/-- BR, BRX, CALL, CALLX and RET (R65, R74, R303, R304, R372): a taken branch goes to its target, invalidates the latches
and, in U mode, deactivates each active loop whose range does not contain the target; CALL and CALLX write PC + 8 to g31
and push it. A branch to an address that is no multiple of 8 raises ALIGN at the branch and is not taken. -/
def Obligations.Branches : Prop :=
  (∀ (s : State) (g : Guard) (a : GReg) (disp : BitVec 36) (v : Word),
     let c := s.cur
     let rel := s.pc c + BitVec.ofInt 64 (8 * disp.toInt)
     s.guardTrue c g = true → (s.ctx c).wait.traps = [] → s.readG c a = .ok v → v.toNat % 8 = 0 →
     s.useReg c (.g 31) = .ok () → (s.pc c).toNat % 8 = 0 →
     let goes (i : Instr) (target : Word) (link : Bool) : Prop := Ends i s fun t =>
       Outside c s t ∧ Kept c s t ∧ KeepsK c s t ∧ KeepsV c s t ∧ t.pc c = target ∧
       (∀ r, (t.ctx c).regs.getG r = if link = true ∧ r = 31 then s.pc c + 8 else (s.ctx c).regs.getG r) ∧
       (t.ctx c).regs.l = (if link then #v[Latch.scalar (s.pc c + 8), Latch.invalid, Latch.invalid, Latch.invalid] else stale) ∧
       (∀ z, (t.ctx c).regs.getZ z =
         let x := (s.ctx c).regs.getZ z
         if (s.ctx c).ctl.s = false ∧ x.active = true ∧ ¬(x.start.toNat ≤ target.toNat ∧ target.toNat ≤ x.fin.toNat)
         then { x with active := false } else x)
     goes (.br g disp) rel false ∧ goes (.brx g a) v false ∧ goes (.call g disp) rel true ∧ goes (.callx g a) v true ∧
       goes (.ret g a) v false) ∧
  (∀ (s : State) (g : Guard) (a : GReg) (v : Word),
     s.guardTrue s.cur g = true → (s.ctx s.cur).wait.traps = [] → s.readG s.cur a = .ok v → v.toNat % 8 ≠ 0 →
     s.useReg s.cur (.g 31) = .ok () →
     exec (.brx g a) s = .next (s.raisePrecise s.cur .align v) ∧ exec (.callx g a) s = .next (s.raisePrecise s.cur .align v) ∧
       exec (.ret g a) s = .next (s.raisePrecise s.cur .align v))

/-- The loop test at the end of an instruction (R65): z1 first, then z0; a loop that ends here and has more than one
round left loops back, and stops the test; otherwise it becomes inactive. -/
def Obligations.LoopTest : Prop :=
  ∀ (s : State) (c : CtxId), (s.ctx c).ctl.s = false →
    let r := (s.ctx c).regs
    let here (x : LoopReg) : Prop := x.active = true ∧ x.fin = s.pc c
    let again (x : LoopReg) : LoopReg := { x with remaining := x.remaining - 1 }
    let last (x : LoopReg) : LoopReg := { x with remaining := 0, active := false }
    let z0 := r.getZ false
    let z1 := r.getZ true
    let q := s.loopEnd c
    (here z1 ∧ 1 < z1.remaining.toNat → q.2 = some z1.start ∧ q.1.getZ true = again z1 ∧ q.1.getZ false = z0) ∧
    (¬(here z1 ∧ 1 < z1.remaining.toNat) →
      q.1.getZ true = (if z1.active && z1.fin == s.pc c then last z1 else z1) ∧
      (here z0 ∧ 1 < z0.remaining.toNat → q.2 = some z0.start ∧ q.1.getZ false = again z0) ∧
      (¬(here z0 ∧ 1 < z0.remaining.toNat) → q.2 = none ∧
        q.1.getZ false = if z0.active && z0.fin == s.pc c then last z0 else z0))

/-- LPSET, LPCLR, LPGET and LPRST (R348, R349, R350): what each leaves in its loop register or reads from it. LPSET with a
count of 0 leaves the loop inactive and goes on after its end, or at the start of the other loop when that one ends at
the same address and has rounds left. -/
def Obligations.LoopInstructions : Prop :=
  (∀ (s : State) (g : Guard) (z : Bool) (a : GReg) (disp : BitVec 36) (n : Word), s.guardTrue s.cur g = true →
     let c := s.cur
     let fin := s.pc c + (disp.signExtend 64 <<< 3)
     let x := (s.ctx c).regs.getZ z
     let sets (i : Instr) (y : LoopReg) : Prop := Ends i s fun t =>
       let u := s.onRegs c fun r => r.setZ z y
       Outside c s t ∧ Kept c s t ∧ KeepsG c s t ∧ KeepsK c s t ∧ KeepsV c s t ∧
         GoesOn c u t (s.pc c + 8) (s.ctx c).regs.l
     let armed (count : Word) : LoopReg :=
       { start := s.pc c + 8, fin := fin, initial := count.extractLsb' 0 32, remaining := count.extractLsb' 0 32, active := true }
     let nests : Prop :=
       let y := (s.ctx c).regs.getZ (!z)
       y.active = false ∨ (if z then fin.toNat ≤ y.fin.toNat else y.fin.toNat ≤ fin.toNat)
     (s.readG c a = .ok n → 0 < n.toNat → n.toNat < 2 ^ 32 → nests → sets (.lpsetReg g z a disp) (armed n)) ∧
     (∀ count : BitVec 5, 0 < count.toNat → nests → sets (.lpsetImm g z count disp) (armed (count.zeroExtend 64))) ∧
     sets (.lpclr g z) { x with active := false } ∧
     (s.readG c a = .ok n → sets (.lprst ⟨g, z, a, .cnt⟩) { x with initial := n.extractLsb' 32 32, remaining := n.extractLsb' 0 32 }) ∧
     (s.readG c a = .ok n → n.getLsbD 1 = false → n.getLsbD 2 = false →
       sets (.lprst ⟨g, z, a, .start⟩) { x with start := n &&& ~~~7, active := n.getLsbD 0 }) ∧
     (s.readG c a = .ok n → n.toNat % 8 = 0 → sets (.lprst ⟨g, z, a, .fin⟩) { x with fin := n }) ∧
     (s.useDestG c false a = .ok () →
       (Ends (.lpget ⟨g, z, a, .cnt⟩) s fun t => GivesG c s t false a (x.initial ++ x.remaining)) ∧
       (Ends (.lpget ⟨g, z, a, .start⟩) s fun t => GivesG c s t false a (x.start ||| if x.active then 1 else 0)) ∧
       (Ends (.lpget ⟨g, z, a, .fin⟩) s fun t => GivesG c s t false a x.fin))) ∧
  (∀ (s : State) (g : Guard) (z : Bool) (disp : BitVec 36), s.guardTrue s.cur g = true → (s.ctx s.cur).wait.traps = [] →
     let c := s.cur
     let fin := s.pc c + (disp.signExtend 64 <<< 3)
     let y := (s.ctx c).regs.getZ (!z)
     (y.active = false ∨ if z then fin.toNat ≤ y.fin.toNat else y.fin.toNat ≤ fin.toNat) → 0 < disp.toInt →
     y.fin ≠ s.pc c →
     let back : Prop := (s.ctx c).ctl.s = false ∧ y.active = true ∧ y.fin = fin ∧ 1 < y.remaining.toNat
     Ends (.lpsetImm g z 0 disp) s fun t =>
       Outside c s t ∧ KeepsG c s t ∧ KeepsK c s t ∧ KeepsV c s t ∧ (t.ctx c).regs.l = stale ∧
       ((t.ctx c).regs.getZ z).active = false ∧ ((t.ctx c).regs.getZ z).remaining = 0 ∧
       (back → t.pc c = y.start ∧ (t.ctx c).regs.getZ (!z) = { y with remaining := y.remaining - 1 }) ∧
       (¬back → t.pc c = fin + 8))

/-! ## Traps and system instructions -/

/-- A precise fault with nothing that delays it and no capsule held (R247, R248, R249, R255): while a record is held the
unit halts with DBL-FAULT; otherwise the record is written, with FREC1 and FREC3 the instruction's address, and the unit
enters its handler in S mode, or freezes when TRAPV.EN is 0. The general, predicate, vector and loop registers keep
their values, and the latches are invalid after an entry. -/
def Obligations.PreciseFault : Prop :=
  ∀ (s : State) (c : CtxId) (code : FCode) (addr : Word),
    (s.ctx c).wait.traps = [] → (s.ctx c).wait.lates = [] → (s.ctx c).wait.load = none → (s.ctx c).cap = none →
    let k := (s.ctx c).ctl
    let t := s.raisePrecise c code addr
    let rec' : Vector Word 4 := #v[BitVec.ofNat 64 (0xA0000000 + code.num), s.pc c, addr, s.pc c &&& ~~~1]
    KeepsG c s t ∧ KeepsK c s t ∧ KeepsV c s t ∧ KeepsZ c s t ∧ t.mem = s.mem ∧
    (k.frec[0].getLsbD 31 = true → (t.slot c.die c.slot).state = 4 ∧ (t.slot c.die c.slot).code = 0x60 ∧
      (t.ctx c).ctl = k ∧ t.pc c = s.pc c) ∧
    (k.frec[0].getLsbD 31 = false → k.trapv.getLsbD 0 = true →
      (t.ctx c).ctl = { k with frec := rec', ps := k.s, s := true } ∧ t.pc c = (k.trapv &&& ~~~7) ∧
      (t.ctx c).regs.l = stale ∧ t.dies = s.dies ∧ t.cores = s.cores) ∧
    (k.frec[0].getLsbD 31 = false → k.trapv.getLsbD 0 = false →
      (t.slot c.die c.slot).state = 3 ∧ (t.slot c.die c.slot).code = code.num ∧ (t.slot c.die c.slot).frecimg = rec' ∧
      (t.ctx c).ctl = { k with frec := rec' } ∧ t.pc c = s.pc c ∧ (t.ctx c).regs.l = stale)

/-- TRAP, BKPT and TRET (R249, R253). In U mode with TRAPV.EN set and no record held TRAP and BKPT enter the handler: KIND 1
with the number n, or KIND 2 with code 0; FREC1 is the instruction's address and FREC3 the address after it; no capsule
is sent. In S mode TRAP freezes the node, and writes the record only when none is held; BKPT is a double fault and halts
it. TRET clears FREC0.V and FREC0.R, restores the mode before the trap, goes on at FREC3 and invalidates the latches; the
loop registers stay (R65). -/
def Obligations.TrapsAndReturn : Prop :=
  ((∀ (s : State) (g : Guard) (n : BitVec 8), s.guardTrue s.cur g = true →
      let c := s.cur
      let k := (s.ctx c).ctl
      (s.ctx c).wait.traps = [] → (s.ctx c).wait.lates = [] → (s.ctx c).wait.load = none →
      k.s = false → k.frec[0].getLsbD 31 = false → k.trapv.getLsbD 0 = true →
      let enters (i : Instr) (w0 : Nat) : Prop := Ends i s fun t =>
        (t.ctx c).ctl = { k with frec := #v[BitVec.ofNat 64 w0, s.pc c, 0, (s.pc c + 8) &&& ~~~1], ps := false, s := true } ∧
        t.pc c = (k.trapv &&& ~~~7) ∧ (t.ctx c).regs.l = stale ∧ KeepsG c s t ∧ KeepsK c s t ∧ KeepsV c s t ∧ KeepsZ c s t ∧
        (t.ctx c).cap = (s.ctx c).cap ∧ t = { s with ctxs := t.ctxs } ∧ (∀ e, e ≠ c → t.ctx e = s.ctx e) ∧ SameMemory s t
      enters (.trap g n) (0xA0000100 + n.toNat) ∧ enters (.bkpt g) 0xA0000200) ∧
   (∀ (s : State) (g : Guard) (n : BitVec 8), s.guardTrue s.cur g = true →
      let c := s.cur
      let k := (s.ctx c).ctl
      (s.ctx c).wait.traps = [] → (s.ctx c).wait.lates = [] → k.s = true →
      (Ends (.trap g n) s fun t => (t.slot c.die c.slot).state = 3 ∧ KeepsG c s t ∧ t.pc c = s.pc c ∧ t.mem = s.mem ∧
        (t.ctx c).ctl.frec = if k.frec[0].getLsbD 31 then k.frec else
          #v[BitVec.ofNat 64 (0xA0000100 + n.toNat), s.pc c, 0, (s.pc c + 8) &&& ~~~1]) ∧
      (Ends (.bkpt g) s fun t => (t.slot c.die c.slot).state = 4 ∧ (t.slot c.die c.slot).code = 0x60 ∧
        (t.ctx c).ctl = k ∧ KeepsG c s t ∧ t.pc c = s.pc c ∧ t.mem = s.mem))) ∧
  (∀ (s : State) (g : Guard), s.guardTrue s.cur g = true →
     let c := s.cur
     let k := (s.ctx c).ctl
     (s.ctx c).wait.traps = [] → k.s = true →
     Ends (.tret g false) s fun t =>
       (t.ctx c).ctl = { k with frec := k.frec.set 0 (k.frec[0] &&& ~~~0xC0000000), s := k.ps } ∧
       t.pc c = k.frec[3] ∧ (t.ctx c).regs.l = stale ∧ KeepsG c s t ∧ KeepsK c s t ∧ KeepsV c s t ∧ KeepsZ c s t ∧
       (t.ctx c).cap = (s.ctx c).cap ∧ Outside c s t)

/-- MFC and MTC (R71 to R73, R248, R253, R354, R355): the value of each control register, and the fields that a write
changes. In U mode MFC and MTC of TRAPV and FREC, MTC of MODE, and TRET raise PRIV. -/
def Obligations.ControlRegisters : Prop :=
  (∀ (s : State) (g : Guard) (w : Bool) (d : GReg), s.guardTrue s.cur g = true → s.useDestG s.cur w d = .ok () →
     let c := s.cur
     let k := (s.ctx c).ctl
     let reads (r : Creg) (v : Word) : Prop := Ends (.mfc g w d r) s fun t => GivesG c s t w d v
     let bit (b : Bool) (n : Nat) : Nat := if b then 2 ^ n else 0
     reads .cyc (BitVec.ofNat 64 (s.die c.die).cyc) ∧
     reads .mode (BitVec.ofNat 64 (bit k.s 0 + bit k.ps 1 + bit k.rcap 8 + bit k.precise 9)) ∧
     reads .fpmode (BitVec.ofNat 64 (k.rm.toNat + bit k.satf 2)) ∧
     reads .tsaveh (k.tsaveh.zeroExtend 64) ∧ reads .ftbind (k.ftbind.zeroExtend 64) ∧
     (∀ n, reads (.evcnt n) ((k.evcnt[n.toNat]).zeroExtend 64)) ∧
     (∀ n, reads (.evth n) ((k.evth[n.toNat]).zeroExtend 64)) ∧
     reads .evwin (BitVec.ofNat 64 (k.evpos.toNat * 2 ^ 32 + k.evlen.toNat)) ∧
     reads .evact (BitVec.ofNat 64 (k.fired.toNat * 256 + k.host.toNat)) ∧
     reads .world (BitVec.ofNat 64 (s.worldOf c.coreId % 8)) ∧
     reads .tshape (s.tshape c) ∧
     reads .cid (BitVec.ofNat 64 (s.physCore c.coreId % 256 * 2 ^ 19 + s.pkg % 256 * 2 ^ 11 + c.die % 4 * 2 ^ 9 +
       c.core % 128 * 4 + c.ctx % 4)) ∧
     (k.s = true → reads .trapv k.trapv ∧ ∀ n, reads (.frec n) k.frec[n.toNat])) ∧
  (∀ (s : State) (g : Guard) (a : Src) (v : Word), s.guardTrue s.cur g = true → s.readSrc s.cur a = .ok v →
     let c := s.cur
     let k := (s.ctx c).ctl
     let writes (r : Creg) (k' : Ctl) : Prop := Ends (.mtc g r a) s fun t =>
       (t.ctx c).ctl = k' ∧ KeepsG c s t ∧ KeepsK c s t ∧ KeepsV c s t ∧ Outside c s t
     writes .cid k ∧ writes .cyc k ∧ writes .tshape k ∧ writes .world k ∧
     writes .fpmode { k with satf := v.getLsbD 2, rm := v.extractLsb' 0 2 } ∧
     writes .tsaveh { k with tsaveh := v.extractLsb' 0 8 } ∧
     writes .ftbind { k with ftbind := v.extractLsb' 0 16 &&& 0x811F } ∧
     (∀ n, writes (.evcnt n) { k with evcnt := k.evcnt.set n.toNat (v.extractLsb' 0 32) }) ∧
     (∀ n, writes (.evth n) { k with evth := k.evth.set n.toNat (v.extractLsb' 0 32) }) ∧
     writes .evwin { k with evlen := v.extractLsb' 0 32 } ∧
     (k.s = false → writes .evact k) ∧
     (k.s = true →
       writes .evact { k with host := v.extractLsb' 0 8, fired := k.fired &&& ~~~(v.extractLsb' 8 8) } ∧
       writes .mode { k with s := v.getLsbD 0, ps := v.getLsbD 1 } ∧
       writes .trapv { k with trapv := v &&& ~~~6 } ∧
       writes (.frec 1) { k with frec := k.frec.set 1 v } ∧ writes (.frec 2) { k with frec := k.frec.set 2 v } ∧
       writes (.frec 3) { k with frec := k.frec.set 3 (v &&& ~~~1) })) ∧
  (∀ (s : State) (g : Guard) (w : Bool) (d : GReg) (a : Src) (n : BitVec 2) (r : Bool), s.guardTrue s.cur g = true →
     (s.ctx s.cur).wait.traps = [] → (s.ctx s.cur).ctl.s = false →
     ∀ i ∈ [Instr.mfc g w d .trapv, .mfc g w d (.frec n), .mtc g .trapv a, .mtc g (.frec n) a, .mtc g .mode a, .tret g r],
       exec i s = .next (s.raisePrecise s.cur .priv 0))

/-- NOP, YIELD, WAIT and END (R47, R48, R328, R362, R408, R410): NOP only goes on; YIELD invalidates the latches; a WAIT
that finds a condition of its mask true at its first issue gives the conditions that hold among those it names and the
engine and capsule bits. END with nothing outstanding leaves: the slot is free, its handles are gone, memory is
unchanged. -/
def Obligations.NopYieldWaitEnd : Prop :=
  (∀ (s : State) (g : Guard) (w : Bool) (d : GReg) (a : Src) (mask : BitVec 19) (n : Word), s.guardTrue s.cur g = true →
     let c := s.cur
     (s.ctx c).wait.traps = [] →
     (Ends (.nop g) s fun t => Passes c s t) ∧
     (Ends (.yield g) s fun t => Outside c s t ∧ Kept c s t ∧ KeepsG c s t ∧ KeepsK c s t ∧ KeepsV c s t ∧
       GoesOn c s t (s.pc c + 8) stale) ∧
     (s.readSrc c a = .ok n → s.captured c = none → s.useDestG c w d = .ok () →
       (∀ p, p < 16 → mask.getLsbD p = true → (s.inPhys c p).isSome = true) → s.waitBits c &&& mask ≠ 0 →
       Ends (.wait g w d a mask) s fun t =>
         let v : Word := (s.waitBits c &&& (mask ||| 0x70000)).zeroExtend 64
         Outside c s t ∧ Kept c s t ∧ KeepsK c s t ∧ KeepsV c s t ∧
         (∀ r, (t.ctx c).regs.getG r = if w = false ∧ r = d ∧ d ≠ 0 then v else (s.ctx c).regs.getG r) ∧
         GoesOn c s t (s.pc c + 8) #v[Latch.scalar v, Latch.invalid, Latch.invalid, Latch.invalid])) ∧
  (∀ (s : State) (g : Guard) (u : UnitRef), s.guardTrue s.cur g = true →
     let c := s.cur
     (s.ctx c).wait.traps = [] → (s.ctx c).unit = some u → (s.ctx c).cap = none → s.endQueues c = true → u.pending = 0 →
     (∀ p ∈ u.ports, (s.inPort c.coreId p.2.1).closed = false ∧ (s.inPort c.coreId p.2.1).eos = true ∧
       (s.inPort c.coreId p.2.1).buf = []) →
     (∀ p ∈ u.outs, (s.outPort c.coreId p.2.1).eos = true) →
     Ends (.fin g) s fun t => (t.ctx c).unit = none ∧ (t.slot c.die c.slot).state = 0 ∧ (t.slot c.die c.slot).bound = none ∧
       (∀ h ∈ (t.core c.coreId).handles, h.2.owner ≠ c.ctx) ∧ KeepsG c s t ∧ KeepsK c s t ∧ KeepsV c s t ∧ t.mem = s.mem)

/-! ## Global memory -/

/-- LDG, VLDG and LOAD_DATA_RETURN (R56, R89, R344, R404): a load whose pages translate issues and waits for its data,
with the latches invalid and nothing written; the bytes that the die sees, or the home for a load it serves, then land
extended in the destination and in latch l0, and the context goes on. The sectors read carry good codes. -/
def Obligations.GlobalLoads : Prop :=
  (∀ (s : State) (g : Guard) (cq nt w : Bool) (x : GloAddr) (va : Word), s.guardTrue s.cur g = true →
     let c := s.cur
     (s.ctx c).wait.traps = [] → s.gloAddr c x = .ok va →
     let issues (i : Instr) (n : Nat) (k : AccKind) : Prop :=
       ∀ xs, s.xlateRun (s.tlbOf c.coreId false) (s.worldOf c.coreId) none xRead va n = .ok xs →
       Ends i s fun t => KeepsG c s t ∧ KeepsK c s t ∧ KeepsV c s t ∧ KeepsZ c s t ∧ (t.ctx c).ctl = (s.ctx c).ctl ∧
         t.pc c = s.pc c ∧ (t.ctx c).regs.l = stale ∧ (t.ctx c).wait.park = some .load ∧
         (∃ r, (t.ctx c).wait.load = some r ∧ r.kind = k ∧ r.va = va ∧ r.pc = s.pc c ∧ r.replay = false ∧
           r.cells.map (fun p => p.1) = (List.range n).map fun i => (runCell xs i).1) ∧
         HomeSame s t fun a => ∃ p ∈ xs, a = p.2.entry.loc
     (∀ (size : LdSize) (d : GReg), s.useDestG c w d = .ok () →
       issues (.ldg g size cq nt w d x) (ldBytes size)
         (.load (ldBytes size) (ldSigned size) false cq nt (if w then .none else destG d))) ∧
     (∀ d : VReg, s.useDestV c w d = .ok () →
       issues (.vldg g cq nt w d x) 64 (.load 64 false true cq nt (if w then .none else .v d)))) ∧
  (∀ (s : State) (c : CtxId) (home : Bool) (r : LoadReq) (n : Nat) (signed vec cq nt : Bool) (d : Dest),
     c.die < 4 → c.core < 128 → c.ctx < 4 → (s.ctx c).wait.load = some r → s.loadReady c home r (List.range n) = true →
     r.kind = .load n signed vec cq nt d → r.replay = false → r.early = [] → r.cells.length = n → (∀ p ∈ r.cells, Map.find s.mem.ecc (sectorOf p.1) = none) →
     let bytes := r.cells.map fun p =>
       s.byteAs (fun a => if home || p.2.2 then (s.mem.atHome a).val else (s.mem.view c.die a).val) p.2.1 p.1
     Ends (.loadDataReturn c home) s fun t =>
       (t.ctx c).wait.load = none ∧ KeepsK c s t ∧ (t.ctx c).ctl = (s.ctx c).ctl ∧
       HomeSame s t (fun _ => False) ∧
       (vec = false → ∀ x : GReg, (t.ctx c).regs.getG x =
         if d = .g x ∧ x ≠ 0 then extendLoad n signed (leNat bytes) else (s.ctx c).regs.getG x) ∧
       (vec = false → KeepsV c s t ∧ GoesOn c s t (s.pc c + 8) (pushed c s (Latch.scalar (extendLoad n signed (leNat bytes))))) ∧
       (vec = true → ∀ x : VReg, (t.ctx c).regs.getV x =
         if d = .v x then BitVec.ofNat 512 (leNat bytes) else (s.ctx c).regs.getV x) ∧
       (vec = true → KeepsG c s t ∧ GoesOn c s t (s.pc c + 8) (pushed c s (Latch.vector (BitVec.ofNat 512 (leNat bytes))))))

/-- STG, VSTG and STORE_ACK (R48, R198, R201, R382, R404): a store without .C whose pages translate sends one write of its
bytes, cut into its atomic parts, counts as awaiting its acknowledgement, and goes on; no byte of memory has changed but
a page entry's A and D bits. The acknowledgement of a write that its home has performed whole lowers the count. -/
def Obligations.GlobalStores : Prop :=
  (∀ (s : State) (g : Guard) (nt : Bool) (x : GloAddr) (va : Word), s.guardTrue s.cur g = true →
     let c := s.cur
     s.gloAddr c x = .ok va →
     let issues (i : Instr) (dep : Nat) (data : List Byte) : Prop :=
       ∀ xs, s.xlateRun (s.tlbOf c.coreId false) (s.worldOf c.coreId) none xWrite va data.length = .ok xs →
       s.mayIssue c false (s.deps c (dep :: gloKeys x)) = true →
       Ends i s fun t => KeepsG c s t ∧ KeepsK c s t ∧ KeepsV c s t ∧ (t.ctx c).ctl = (s.ctx c).ctl ∧
         GoesOn c s t (s.pc c + 8) (s.ctx c).regs.l ∧
         (∃ w, t.onWay = s.onWay ++ [w] ∧ w.id = s.fresh ∧ w.src = .ctx c ∧ w.die = c.die ∧ w.causal = false ∧
           w.acked = false ∧ w.va = va ∧
           w.parts = writeParts va.toNat ((List.range data.length).map fun i => runCell xs i) data) ∧
         (t.ctx c).unit = (s.ctx c).unit.map (fun u => { u with pending := u.pending + 1 }) ∧
         HomeSame s t fun a => ∃ p ∈ xs, a = p.2.entry.loc
     (∀ (size : StSize) (d : GReg) (v : Word), s.readG c d = .ok v →
       issues (.stg g size false nt d x) (depG d) (leBytes v.toNat (stBytes size))) ∧
     (∀ (d : VReg) (v : Vec), s.readV c d = .ok v → issues (.vstg g false nt d x) (depV d) (leBytes v.toNat 64))) ∧
  (∀ (s : State) (id : Nat) (w : MemWrite) (c : CtxId), s.write id = some w → w.src = .ctx c → w.amo = none →
     w.allDone = true → w.acked = false →
     Ends (.storeAck id) s fun t =>
       (t.ctx c).unit = (s.ctx c).unit.map (fun u => { u with pending := u.pending - 1 }) ∧
       (∀ u, t.write id = some u → u.acked = true) ∧ (∀ e, SameRegs e s t) ∧ HomeSame s t (fun _ => False) ∧
       t.cores = s.cores ∧ t.dies = s.dies)

/-- PREF returns nothing and goes on, whether or not its page translates (R368). FENCE, QFENCE, IFENCE and EWAIT whose
condition holds (R170, R197, R335, R339, R370) go on; the registers and memory are as they were, but that a fence may count
on where writes have been applied (R427); IFENCE empties the
core's instruction cache, and EWAIT invalidates the latches. -/
def Obligations.PrefetchAndFences : Prop :=
  (∀ (s : State) (g : Guard) (nt : Bool) (x : GloAddr) (va : Word), s.guardTrue s.cur g = true →
     s.gloAddr s.cur x = .ok va →
     Ends (.pref g nt x) s fun t => SameRegs s.cur s t ∧ (t.ctx s.cur).wait.traps = (s.ctx s.cur).wait.traps ∧
       GoesOn s.cur s t (s.pc s.cur + 8) (s.ctx s.cur).regs.l ∧ SameMemory s t ∧ t.dies = s.dies) ∧
  (∀ (s : State) (g : Guard), s.guardTrue s.cur g = true →
     let c := s.cur
     (s.ctx c).wait.traps = [] →
     let goes (i : Instr) (l : Vector Latch 4) : Prop := Ends i s fun t =>
       SameRegs c s t ∧ GoesOn c s t (s.pc c + 8) l ∧ MemKept s t ∧ t.dies = s.dies ∧
       (∀ k, (t.core k).handles = (s.core k).handles ∧ (t.core k).scratch = (s.core k).scratch ∧
         (t.core k).icache = if i = .ifence g ∧ k = c.coreId then [] else (s.core k).icache)
     (∀ sc kind, s.fenceReady c sc kind = true → goes (.fence g sc kind) (s.ctx c).regs.l) ∧
     (∀ mask : BitVec 4, (mask.getLsbD 0 = true → s.fenceReady c .pkg .full = true) →
       (mask.getLsbD 1 = true → s.pendCount c .me = 0) → (mask.getLsbD 2 = true → s.pendCount c .ce = 0) →
       (mask.getLsbD 3 = true → (s.ctx c).sent = []) → goes (.qfence g mask) (s.ctx c).regs.l) ∧
     goes (.ifence g) (s.ctx c).regs.l ∧
     (∀ e, s.pendCount c e = 0 → goes (.ewait g e) stale))

/-- AMO (R198, R293, R297): an aligned atomic whose page translates is sent to its home as one request with its operands,
its result is late for its destination and for latch l0, and the context goes on. An atomic at a misaligned address
raises ALIGN. -/
def Obligations.AtomicIssues : Prop :=
  ∀ (s : State) (g : Guard) (op : AmoOp) (w32 nt w : Bool) (d : GReg) (a : Src) (b : Option Src) (imm : BitVec 24)
    (base v din : Word), s.guardTrue s.cur g = true →
    let c := s.cur
    let va := base + imm.signExtend 64
    let size := if w32 then 4 else 8
    let i : Instr := .amo g op w32 false nt w d a b imm
    s.readSrc c a = .ok base → s.readIdx c b = .ok v → s.readG c d = .ok din →
    (va.toNat % size ≠ 0 → exec i s = .next (s.raisePrecise c .align va)) ∧
    (∀ xs, va.toNat % size = 0 →
      s.xlateRun (s.tlbOf c.coreId false) (s.worldOf c.coreId) none xWrite va size = .ok xs →
      s.mayIssue c false (s.deps c (srcKey a :: idxKeys b ++ if op = .cas then [depG d] else [])) = true →
      cellHost (runCell xs 0).1 = false →
      Ends i s fun t => KeepsG c s t ∧ KeepsK c s t ∧ KeepsV c s t ∧ (t.ctx c).ctl = (s.ctx c).ctl ∧
        GoesOn c s t (s.pc c + 8) (pushed c s { val := 0, isVec := false, valid := true, pend := some (s.fresh + 1) }) ∧
        (t.ctx c).wait.lates = (s.ctx c).wait.lates ++
          [{ id := s.fresh + 1, d := if w then .none else destG d, src := .amo s.fresh, value := none }] ∧
        (∃ q m, t.onWay = s.onWay ++ [m] ∧ m.id = s.fresh ∧ m.src = .ctx c ∧ m.amo = some q ∧ q.op = op ∧
          q.size = size ∧ q.operand = v ∧ q.compare = din ∧ q.old = none) ∧
        HomeSame s t fun x => ∃ p ∈ xs, x = p.2.entry.loc)

/-- HOME_WRITE_PERFORM, CAUSAL_WRITE_APPLY and PLAIN_WRITE_APPLY (R33, R190, R191, R427): a part of a write whose orders
hold is performed at its home: its bytes, and no others, are in memory; its blocks hold its key, its frames are not
sealed, and its sectors carry good codes. A die applies a write that its homes have performed when its orders hold there;
its clock has reached the write's stamp when it is causal, and no byte at a home changes. -/
def Obligations.WritesPerformAndApply : Prop :=
  (∀ (s : State) (id i : Nat) (w : MemWrite) (p : WritePart),
     s.write id = some w → w.parts[i]? = some p → p.done = false → w.amo = none → s.mem.serves p.pa = true →
     s.mayApply (homeDie p.pa) w = true → p.poison = false →
     (∀ b ∈ blocksOf p.pa p.data.length, Map.find s.mem.keys b = p.key) →
     (∀ a, p.pa ≤ a → a < p.pa + p.data.length → Map.find s.mem.sealed (a / 4096) = none) →
     (∀ sec, Map.find s.mem.ecc sec = none) →
     Ends (.homeWritePerform id i) s fun t =>
       (∀ a, t.homeByte a = if p.pa ≤ a ∧ a < p.pa + p.data.length then p.data.getD (a - p.pa) 0 else s.homeByte a) ∧
       (∃ u q, t.write id = some u ∧ u.parts[i]? = some q ∧ q.done = true ∧ q.pa = p.pa ∧ q.data = p.data) ∧
       (∀ c, SameRegs c s t) ∧ t.cores = s.cores) ∧
  (∀ (s : State) (id e : Nat) (w : MemWrite), e < 5 → s.write id = some w → s.mayApply e w = true →
     (w.causal = true → w.allDone = true → w.appliedAt e = false →
       Ends (.causalWriteApply id e) s fun t => t.isApplied e id = true ∧ HomeSame s t (fun _ => False) ∧
         (t.vc e).get w.die = max ((s.vc e).get w.die) (w.stamp.get w.die) ∧ t.cores = s.cores ∧ t.ctxs = s.ctxs) ∧
     (∀ i p, w.causal = false → w.parts[i]? = some p → p.done = true → p.applied.contains e = false →
       Ends (.plainWriteApply id i e) s fun t => HomeSame s t (fun _ => False) ∧ t.dies = s.dies ∧ t.cores = s.cores ∧
         t.ctxs = s.ctxs ∧ ∀ u, t.write id = some u → ∃ q, u.parts[i]? = some q ∧ q.applied.contains e = true))

/-- AMO_HOME_PERFORM (R199, R296, R297): the home reads the old value and writes the new one in one step; the old value is
kept for the reply, and a CAS that finds another value writes nothing. The new value is the operation on the old value and
the operand in the width of the form. -/
def Obligations.AtomicPerforms : Prop :=
  (∀ (s : State) (id : Nat) (w : MemWrite) (q : AmoReq) (p : WritePart) (rest : List WritePart),
     s.write id = some w → w.amo = some q → w.parts = p :: rest → p.done = false → s.mem.serves p.pa = true →
     s.mayApply (homeDie p.pa) w = true → (∀ sec, Map.find s.mem.ecc sec = none) → (q.size = 4 ∨ q.size = 8) →
     p.poison = false →
     (∀ b ∈ blocksOf p.pa q.size, Map.find s.mem.keys b = p.key) →
     (∀ i, i < q.size → Map.find s.mem.sealed ((p.pa + i) / 4096) = none) →
     (∀ i, i < q.size → q.loc ≠ p.pa + i) →
     let old := leNat ((List.range q.size).map fun i => s.homeByte (p.pa + i))
     let new := amoBytes q.op q.size old q.operand q.compare
     Ends (.amoHomePerform id) s fun t =>
       (∃ u r, t.write id = some u ∧ u.amo = some r ∧ r.old = some (BitVec.ofNat 64 old)) ∧
       (∀ bs, new = some bs → ∀ i, i < q.size → t.homeByte (p.pa + i) = bs.getD i 0) ∧
       (new = none → HomeSame s t fun _ => False) ∧
       HomeSame s t (fun a => (p.pa ≤ a ∧ a < p.pa + q.size) ∨ a = q.loc) ∧ t.cores = s.cores ∧ ∀ c, SameRegs c s t) ∧
  (∀ (n : Nat) (old v cmp : BitVec n),
     amoResult .add n old v cmp = some (old + v) ∧
     amoResult .min n old v cmp = some (if old.toInt ≤ v.toInt then old else v) ∧
     amoResult .max n old v cmp = some (if v.toInt ≤ old.toInt then old else v) ∧
     amoResult .minu n old v cmp = some (if old.toNat ≤ v.toNat then old else v) ∧
     amoResult .maxu n old v cmp = some (if v.toNat ≤ old.toNat then old else v) ∧
     amoResult .and n old v cmp = some (old &&& v) ∧ amoResult .or n old v cmp = some (old ||| v) ∧
     amoResult .xor n old v cmp = some (old ^^^ v) ∧ amoResult .swp n old v cmp = some v ∧
     amoResult .cas n old v cmp = if old = cmp then some v else none)

/-- LATE_RESULT_ARRIVE (R293, R298, R306): the reply of an atomic, sign-extended from its size, or of a CANCEL lands in its
register and in each latch that waits for it; nothing else of the registers changes. PAGE_FAULT_RESOLVE,
PAGE_FAULT_DECLINE and DUP_WRITE_REPLAY (R146, R147, R250): a resolved fault is gone, and its access is made again; a
declined fault of a context with its precise bit set is delivered at its instruction. -/
def Obligations.LateResultsAndPageFaults : Prop :=
  (∀ (s : State) (c : CtxId) (id : Nat) (l : Late) (v : Word), c.die < 4 → c.core < 128 → c.ctx < 4 →
     ((s.ctx c).wait.lates.find? fun l => l.id == id) = some l →
     ((∃ n w q old, l.src = .amo n ∧ s.write n = some w ∧ w.amo = some q ∧ q.old = some old ∧
         v = extendLoad q.size true old.toNat) ∨
       (∃ level obj, l.src = .cancel level obj ∧ l.value = some v)) →
     Ends (.lateResultArrive c id) s fun t =>
       (∀ r, (t.ctx c).regs.getG r = if l.d = .g r ∧ r ≠ 0 then v else (s.ctx c).regs.getG r) ∧
       (∀ j, (t.ctx c).regs.getL j = if ((s.ctx c).regs.getL j).pend = some l.id
         then { (s.ctx c).regs.getL j with val := v.zeroExtend 512, pend := none } else (s.ctx c).regs.getL j) ∧
       (t.ctx c).wait.lates = ((s.ctx c).wait.lates.filter fun x => x.id ≠ l.id) ∧
       KeepsK c s t ∧ KeepsV c s t ∧ t.pc c = s.pc c ∧ (t.ctx c).ctl = (s.ctx c).ctl ∧ HomeSame s t (fun _ => False)) ∧
  (∀ (s : State) (id : Nat) (p : PageFault) (c : CtxId) (k : AccKind), Map.find s.mem.faults id = some p →
     p.who = .ctx c → p.kind = some k →
     let s' := (s.onMem fun m => { m with faults := Map.drop m.faults id }).onWait c fun w => { w with park := none }
     let f : AccFrom := { pc := p.pc, deps := p.deps, replay := p.replay }
     ((s.die c.die).sched.rom = false → exec (.pageFaultResolve id) s = .next (s'.access c k f p.va false)) ∧
     ((s.die c.die).sched.rom = false → p.dup = true → exec (.dupWriteReplay id) s = .next (s'.access c k f p.va true)) ∧
     (p.replay = false → (s.ctx c).ctl.precise = true → (s.ctx c).wait.traps = [] → (s.ctx c).wait.lates = [] →
       (s.ctx c).wait.load = none → (s.ctx c).cap = none → (s.ctx c).ctl.frec[0].getLsbD 31 = false →
       (s.ctx c).ctl.trapv.getLsbD 0 = true →
       Ends (.pageFaultDecline id) s fun t => Map.find t.mem.faults id = none ∧ (t.ctx c).ctl.s = true ∧
         (t.ctx c).ctl.frec = #v[BitVec.ofNat 64 (0xA0000000 + p.code.num), s.pc c, p.addr, s.pc c &&& ~~~1] ∧
         t.pc c = ((s.ctx c).ctl.trapv &&& ~~~7) ∧ KeepsG c s t ∧ HomeSame s t (fun _ => False)))

/-- SUBMIT, RMREQ, RMSTAT and CANCEL (R215, R216, R236, R305, R306) complete, for a readable address register and a
destination that may be written. RMSTAT gives the status word of a tag. RMREQ, which needs MODE.RCAP, and SUBMIT of a
record that translates, and for SUBMIT is served with every earlier store seen, queue the record and give its tag, or
give 0 when sixteen wait. CANCEL sends its request for the object named, or for the caller's own when the register holds
0, and its result is outstanding. -/
def Obligations.Requests : Prop :=
  ∀ (s : State) (g : Guard) (w : Bool) (d : GReg) (a : Src) (va : Word), s.guardTrue s.cur g = true →
    let c := s.cur
    s.readSrc c a = .ok va → s.useDestG c w d = .ok () →
    let gives (t : State) (v : Word) : Prop :=
      (∀ r, (t.ctx c).regs.getG r = if w = false ∧ r = d ∧ d ≠ 0 then v else (s.ctx c).regs.getG r) ∧
      KeepsK c s t ∧ KeepsV c s t ∧ (t.ctx c).ctl = (s.ctx c).ctl ∧ GoesOn c s t (s.pc c + 8) (pushed c s (Latch.scalar v))
    (∃ t, exec (.rmstat g w d a) s = .next t ∧
      GivesG c s t w d ((s.die c.die).rm.find (va.toNat % 65536) (s.worldOf c.coreId))) ∧
    ((s.ctx c).ctl.rcap = false → exec (.rmreq g w d a) s = .next (s.raisePrecise c .priv 0)) ∧
    (∀ level,
      let id := if va.toNat % 2 ^ 32 ≠ 0 then va.toNat % 2 ^ 32
        else s.ancestor (s.worldOf c.coreId) (((s.ctx c).unit.map fun u => u.launch).getD 0) level
      ∃ t, exec (.cancel g w d a level) s = .next t ∧
        (t.ctx c).wait.lates = (s.ctx c).wait.lates ++ [⟨s.fresh, if w then .none else destG d, .cancel level id, none⟩] ∧
        (∃ q, t.net = { s.net with cancels := s.net.cancels ++ [q] } ∧ q.src = some (c, s.fresh) ∧ q.level = level ∧
          q.id = id ∧ q.world = s.worldOf c.coreId ∧ q.user = !(s.ctx c).ctl.s ∧ q.decided = false) ∧
        KeepsG c s t ∧ KeepsK c s t ∧ KeepsV c s t ∧ (t.ctx c).ctl = (s.ctx c).ctl ∧ t.mem = s.mem ∧ t.dies = s.dies ∧
        GoesOn c s t (s.pc c + 8) (pushed c s { val := 0, isVec := false, valid := true, pend := some s.fresh })) ∧
    (∀ xs, va.toNat % 64 = 0 →
      s.xlateRun (s.tlbOf c.coreId false) (s.worldOf c.coreId) none xRead va 64 = .ok xs →
      let reads (t : State) : Prop := HomeSame s t fun x => ∃ p ∈ xs, x = p.2.entry.loc
      ((s.ctx c).ctl.rcap = true →
        let m := (s.die c.die).rm
        (m.queue.length < 16 → ∃ t, exec (.rmreq g w d a) s = .next t ∧ gives t (BitVec.ofNat 64 m.next) ∧ reads t ∧
          ∃ q, (t.die c.die).rm.queue = m.queue ++ [q] ∧ q.tag = m.next ∧ q.world = s.worldOf c.coreId ∧
            q.cells = (List.range 64).map fun i => runCell xs i) ∧
        (16 ≤ m.queue.length → ∃ t, exec (.rmreq g w d a) s = .next t ∧ gives t 0 ∧ reads t ∧ (t.die c.die).rm = m)) ∧
      (∀ u, (s.ctx c).unit = some u → s.storesSeen c = true → s.recordServed c va = true →
        (∀ i, i < 64 → Map.find s.mem.ecc (sectorOf (runCell xs i).1) = none) →
        let m := (s.die u.home).sched
        (m.submits.length < 16 →
          ∃ t, exec (.submit g w d a) s = .next t ∧ gives t (BitVec.ofNat 64 (1 + m.submitted % (2 ^ 32 - 1))) ∧ reads t ∧
            ∃ q, (t.die u.home).sched.submits = m.submits ++ [q] ∧ q.world = s.worldOf c.coreId ∧
              q.user = !(s.ctx c).ctl.s ∧ q.launch = u.launch ∧
              ∀ b, (∀ p ∈ xs, p.2.entry.loc + 8 ≤ b ∨ b < p.2.entry.loc) → ∀ i, i < 64 → b = (runCell xs i).1 →
                runAtHome xs = true → (runCell xs i).2 = none → q.entry.extractLsb' (8 * i) 8 = s.homeByte b) ∧
        (16 ≤ m.submits.length →
          ∃ t, exec (.submit g w d a) s = .next t ∧ gives t 0 ∧ reads t ∧ (t.die u.home).sched = m)))

/-! ## Scratch, handles and tiles -/

/-- The checks of a scratch access, in their order (R135): no such handle raises HINVAL; a Pantry handle SEAL-LD when it is
sealed and HLEVEL when it is not; a byte outside the rows HBOUND; a byte that is not aligned ALIGN; FREC's address word
holds the handle and the row. A load or store whose granules are not as it wants parks its context (R9, R136), and
changes no register, no byte of scratch and no full bit. -/
def Obligations.ScratchChecksAndWaits : Prop :=
  (∀ (s : State) (c : CtxId) (h row : Word) (byte : BitVec 24) (len align rows : Nat), 0 < align →
     let fa := BitVec.ofNat 64 (h.toNat * 2 ^ 32 + row.toNat % 2 ^ 32)
     let r := s.scrCheck c h row byte len align rows
     (s.handle c h.toNat = none → r = .error (.raise .hinval fa)) ∧
     ∀ x, s.handle c h.toNat = some x →
       (x.level1 = true → x.slot.isSome = true → r = .error (.raise .sealLd fa)) ∧
       (x.level1 = true → x.slot = none → r = .error (.raise .hlevel fa)) ∧
       (x.level1 = false →
         let inside : Prop := row.toNat + rows ≤ x.rows ∧ byte.toNat < 2 ^ 23 ∧ byte.toNat + len ≤ x.rowBytes
         (¬inside → r = .error (.raise .hbound fa)) ∧
         (inside → byte.toNat % align ≠ 0 → r = .error (.raise .align fa)) ∧
         (inside → byte.toNat % align = 0 → r = .ok x))) ∧
  (∀ (s : State) (g : Guard) (w : Bool) (x : ScrAddr) (h row : Word) (y : HandleSt), s.guardTrue s.cur g = true →
     let c := s.cur
     (s.ctx c).wait.traps = [] → s.scrSrcs c x = .ok (h, row) →
     let gs (n : Nat) := granulesOf y row.toNat x.imm.toNat n
     let waits (i : Instr) (n : Nat) (full : Bool) : Prop := Ends i s fun t =>
       (t.ctx c).wait.park = some (.scratch h.toNat row.toNat x.imm.toNat n full) ∧ t.pc c = s.pc c ∧ SameRegs c s t ∧
       (t.ctx c).regs.l = stale ∧ t.mem = s.mem ∧ ∀ k, (t.core k).still = (s.core k).still
     (∀ (size : LdSize) (d : GReg) (q : LdWait), q ≠ .plain → s.useDestG c w d = .ok () →
       s.scrCheck c h row x.imm (ldBytes size) (ldBytes size) 1 = .ok y →
       (s.core c.coreId).fullAre (gs (ldBytes size)) true = false → waits (.ld g size q w d x) (ldBytes size) true) ∧
     (∀ (size : StSize) (d : GReg) (v : Word), s.readG c d = .ok v →
       s.scrCheck c h row x.imm (stBytes size) (stBytes size) 1 = .ok y →
       (s.core c.coreId).fullAre (gs (stBytes size)) false = false → waits (.st g size .ew d x) (stBytes size) false))

/-- LD and VLD (R56, R136, R340, R341, R403): the bytes of the row, extended, are the result. With .FW or .FC and every
granule full the load is a switch point that leaves only its result in the latches, and .FC clears the full bits of
its granules and no other. No byte of scratch or of memory changes. -/
def Obligations.ScratchLoads : Prop :=
  ∀ (s : State) (g : Guard) (w : Bool) (x : ScrAddr) (h row : Word) (y : HandleSt), s.guardTrue s.cur g = true →
    let c := s.cur
    (s.ctx c).wait.traps = [] → s.scrSrcs c x = .ok (h, row) →
    let gs (n : Nat) := granulesOf y row.toNat x.imm.toNat n
    let read (n : Nat) : Nat := leNat ((s.core c.coreId).scratchBytes (y.addr row.toNat x.imm.toNat) n)
    let clean (n : Nat) : Prop := ∀ q ∈ gs n, Map.find (s.core c.coreId).ecc q = none
    let switches (i : Instr) (n : Nat) (clears : Bool) (p : State → Prop) (l : Latch) : Prop :=
      (s.core c.coreId).fullAre (gs n) true = true → Ends i s fun t =>
        p t ∧ KeepsK c s t ∧ (t.ctx c).ctl = (s.ctx c).ctl ∧
        GoesOn c s t (s.pc c + 8) #v[l, Latch.invalid, Latch.invalid, Latch.invalid] ∧
        t.mem = s.mem ∧ (t.core c.coreId).scratch = (s.core c.coreId).scratch ∧
        (∀ q, (Map.find (t.core c.coreId).full q).isSome =
          (!(clears && decide (q ∈ gs n)) && (Map.find (s.core c.coreId).full q).isSome))
    (∀ (size : LdSize) (d : GReg), s.useDestG c w d = .ok () →
      s.scrCheck c h row x.imm (ldBytes size) (ldBytes size) 1 = .ok y → clean (ldBytes size) →
      let v := extendLoad (ldBytes size) (ldSigned size) (read (ldBytes size))
      let writes (t : State) : Prop := KeepsV c s t ∧
        ∀ r, (t.ctx c).regs.getG r = if w = false ∧ r = d ∧ d ≠ 0 then v else (s.ctx c).regs.getG r
      (Ends (.ld g size .plain w d x) s fun t => GivesG c s t w d v) ∧
      switches (.ld g size .fw w d x) (ldBytes size) false writes (Latch.scalar v) ∧
      switches (.ld g size .fc w d x) (ldBytes size) true writes (Latch.scalar v)) ∧
    (∀ d : VReg, s.useDestV c w d = .ok () → s.scrCheck c h row x.imm 64 16 1 = .ok y → clean 64 →
      let v := BitVec.ofNat 512 (read 64)
      let writes (t : State) : Prop := KeepsG c s t ∧
        ∀ r, (t.ctx c).regs.getV r = if w = false ∧ r = d then v else (s.ctx c).regs.getV r
      (Ends (.vld g .plain w d x) s fun t => GivesV c s t w d v) ∧
      switches (.vld g .fw w d x) 64 false writes (Latch.vector v) ∧
      switches (.vld g .fc w d x) 64 true writes (Latch.vector v))

/-- ST and VST (R56, R136, R380, R381, R403): the stored bytes, and no others, are in scratch at the address of the row's
byte; the full bits of the granules are set unless .NS; ST.EW goes on when they are empty, and is a switch point. No
register changes and no byte of memory. -/
def Obligations.ScratchStores : Prop :=
  ∀ (s : State) (g : Guard) (x : ScrAddr) (h row : Word) (y : HandleSt), s.guardTrue s.cur g = true →
    let c := s.cur
    (s.ctx c).wait.traps = [] → s.scrSrcs c x = .ok (h, row) →
    let a := y.addr row.toNat x.imm.toNat
    let gs (n : Nat) := granulesOf y row.toNat x.imm.toNat n
    let stores (i : Instr) (bs : List Byte) (keep : Bool) (l : Vector Latch 4) : Prop := Ends i s fun t =>
      SameRegs c s t ∧ GoesOn c s t (s.pc c + 8) l ∧ t.mem = s.mem ∧ t.dies = s.dies ∧
      (∀ k, k ≠ c.coreId → (t.core k).still = (s.core k).still) ∧
      (t.core c.coreId).handles = (s.core c.coreId).handles ∧ (t.core c.coreId).pantry = (s.core c.coreId).pantry ∧
      (∀ b, Map.get (t.core c.coreId).scratch 0 b =
        if a ≤ b ∧ b < a + bs.length then bs.getD (b - a) 0 else Map.get (s.core c.coreId).scratch 0 b) ∧
      (∀ q, (Map.find (t.core c.coreId).full q).isSome =
        (!keep && decide (q ∈ gs bs.length) || (Map.find (s.core c.coreId).full q).isSome))
    (∀ (size : StSize) (d : GReg) (v : Word), s.readG c d = .ok v →
      s.scrCheck c h row x.imm (stBytes size) (stBytes size) 1 = .ok y →
      eccBlocks (s.core c.coreId).ecc (gs (stBytes size)) = false →
      let bs := leBytes v.toNat (stBytes size)
      stores (.st g size .plain d x) bs false (s.ctx c).regs.l ∧ stores (.st g size .ns d x) bs true (s.ctx c).regs.l ∧
      ((s.core c.coreId).fullAre (gs (stBytes size)) false = true → stores (.st g size .ew d x) bs false stale)) ∧
    (∀ (d : VReg) (v : Vec), s.readV c d = .ok v → s.scrCheck c h row x.imm 64 16 1 = .ok y →
      stores (.vst g false d x) (leBytes v.toNat 64) false (s.ctx c).regs.l ∧
      stores (.vst g true d x) (leBytes v.toNat 64) true (s.ctx c).regs.l)

/-- AMOH (R299, R300): the old value of the word or doubleword, sign-extended from its size, is the result, and the new
value of R297 is in scratch; a CAS takes its new value from the register after its destination. -/
def Obligations.ScratchAtomics : Prop :=
  ∀ (s : State) (g : Guard) (op : AmoOp) (w32 w : Bool) (d : GReg) (x : ScrAddr) (h row din next : Word) (y : HandleSt),
    s.guardTrue s.cur g = true →
    let c := s.cur
    let size := if w32 then 4 else 8
    s.scrSrcs c x = .ok (h, row) → s.readG c d = .ok din → s.readG c (d + 1) = .ok next →
    s.scrCheck c h row x.imm size size 1 = .ok y →
    (∀ q ∈ granulesOf y row.toNat x.imm.toNat size, Map.find (s.core c.coreId).ecc q = none) →
    let a := y.addr row.toNat x.imm.toNat
    let old := leNat ((s.core c.coreId).scratchBytes a size)
    let new := amoBytes op size old (if op = .cas then next else din) din
    Ends (.amoh g op w32 w d x) s fun t =>
      (∀ r, (t.ctx c).regs.getG r =
        if w = false ∧ r = d ∧ d ≠ 0 then extendLoad size true old else (s.ctx c).regs.getG r) ∧
      KeepsK c s t ∧ KeepsV c s t ∧ GoesOn c s t (s.pc c + 8) (pushed c s (Latch.scalar (extendLoad size true old))) ∧
      t.mem = s.mem ∧ (∀ b, Map.get (t.core c.coreId).scratch 0 b =
        match new with
        | some bs => if a ≤ b ∧ b < a + size then bs.getD (b - a) 0 else Map.get (s.core c.coreId).scratch 0 b
        | none => Map.get (s.core c.coreId).scratch 0 b) ∧
      (t.core c.coreId).full = (s.core c.coreId).full

/-- HALLOC, HFREE and HINFO (R132, R134, R338): HALLOC gives the lowest free number with the lowest space that fits, or 0
when there is no number or no space; HFREE frees the number at once, and its space reads as zero when no operation
names it; HINFO gives the shape, the level, the RL and sealed bits and the units. FESET, FECLR and FETST (R333, R334): the
full bits of the granules from the named one are set or cleared, and no other; FETST gives the full bit of one granule. -/
def Obligations.HandlesAndFullBits : Prop :=
  (∀ (s : State) (g : Guard) (w level rl : Bool) (d : GReg) (a : Src) (v : Word), s.guardTrue s.cur g = true →
     let c := s.cur
     let x := s.core c.coreId
     s.readSrc c a = .ok v → s.useDestG c w d = .ok () →
     let desc := v.extractLsb' 0 32
     (shapeOk level desc = true → v.toNat < 2 ^ 32 →
       (x.freeNumber = none ∨ x.fit level (shapeUnits level desc) = none →
         Ends (.halloc g w d a level rl) s fun t => GivesG c s t w d 0) ∧
       (∀ n b, x.freeNumber = some n → x.fit level (shapeUnits level desc) = some b →
         Ends (.halloc g w d a level rl) s fun t =>
           (∀ r, (t.ctx c).regs.getG r = if w = false ∧ r = d ∧ d ≠ 0 then BitVec.ofNat 64 n else (s.ctx c).regs.getG r) ∧
           KeepsK c s t ∧ KeepsV c s t ∧ t.mem = s.mem ∧ (t.core c.coreId).scratch = x.scratch ∧
           (∀ m, Map.find (t.core c.coreId).handles m =
             if m = n then some ⟨level, rl, desc, b, shapeUnits level desc, none, c.ctx⟩ else Map.find x.handles m))) ∧
     (∀ h, Map.find x.handles v.toNat = some h → h.owner = c.ctx → s.ringOn c.coreId v.toNat = false →
       Ends (.hfree g a) s fun t =>
         SameRegs c s t ∧ GoesOn c s t (s.pc c + 8) (s.ctx c).regs.l ∧ t.mem = s.mem ∧
         (∀ m, Map.find (t.core c.coreId).handles m = if m = v.toNat then none else Map.find x.handles m) ∧
         (x.opsOn v.toNat = [] → h.level1 = false →
           ∀ b, Map.get (t.core c.coreId).scratch 0 b =
             if h.base * 1024 ≤ b ∧ b < (h.base + h.units) * 1024 then 0 else Map.get x.scratch 0 b)) ∧
     (∀ h, s.handle c v.toNat = some h →
       let bit (b : Bool) (n : Nat) : Nat := if b then 2 ^ n else 0
       Ends (.hinfo g w d a) s fun t => GivesG c s t w d (BitVec.ofNat 64
         (h.desc.toNat + bit h.level1 32 + bit h.rl 33 + bit h.slot.isSome 34 + h.units % 65536 * 2 ^ 48)))) ∧
  (∀ (s : State) (g : Guard) (w : Bool) (d : GReg) (x : ScrAddr) (h row v : Word) (y : HandleSt),
     s.guardTrue s.cur g = true →
     let c := s.cur
     s.scrSrcs c x = .ok (h, row) → s.scrCheck c h row x.imm 1 1 1 = .ok y →
     let first := y.base * 64 + row.toNat * y.rb + x.imm.toNat / 16
     let n := v.toNat % 65536
     let sets (i : Instr) (b : Bool) : Prop := s.readG c d = .ok v → first + n ≤ y.base * 64 + y.rows * y.rb →
       Ends i s fun t => SameRegs c s t ∧ GoesOn c s t (s.pc c + 8) (s.ctx c).regs.l ∧ t.mem = s.mem ∧
         (t.core c.coreId).scratch = (s.core c.coreId).scratch ∧
         ∀ q, (Map.find (t.core c.coreId).full q).isSome =
           if first ≤ q ∧ q < first + n then b else (Map.find (s.core c.coreId).full q).isSome
     sets (.feset g d x) true ∧ sets (.feclr g d x) false ∧
     (s.useDestG c w d = .ok () → Ends (.fetst g w d x) s fun t => GivesG c s t w d
       (if (Map.find (s.core c.coreId).full (y.base * 64 + row.toNat * y.rb + x.imm.toNat / 16)).isSome then 1 else 0)))

/-- TCFG and the tile instructions on a tile that the context owns (R62, R386, R387): the shape, the elements and the dirty
bit that each leaves; TREL leaves the tile unconfigured and the context without a record. TLD (R389) takes each element
from its four bytes of the row and leaves the tile clean; TST (R390) writes each row's elements to scratch, and no other
byte. -/
def Obligations.Tiles : Prop :=
  (∀ (s : State) (m : MReg) (f32 : Bool) (rows : BitVec 4) (cols : BitVec 2),
     let c := s.cur
     let n := m.toNat
     let x := s.core c.coreId
     s.useReg c (.t m) = .ok () →
     let ends (i : Instr) (p : CoreSt → Prop) : Prop := Ends i s fun t =>
       SameRegs c s t ∧ GoesOn c s t (s.pc c + 8) (s.ctx c).regs.l ∧ t.mem = s.mem ∧ p (t.core c.coreId)
     (ends (.tcfg m f32 rows cols) fun y => (y.tile n).rows = rows.toNat + 1 ∧ (y.tile n).cols = 4 * (cols.toNat + 1) ∧
       (y.tile n).f32 = f32 ∧ (y.tile n).configured = true ∧ (y.tile n).dirty = false ∧ (y.tile n).owner = some c.ctx ∧
       (y.tile n).elems = Vector.replicate 256 0 ∧ y.tileRec c.ctx n = .owned) ∧
     (x.tileRec c.ctx n = .owned →
       (ends (.tzero m) fun y => (y.tile n).elems = Vector.replicate 256 0 ∧ (y.tile n).dirty = false ∧
         (y.tile n).shape = (x.tile n).shape ∧ y.scratch = x.scratch) ∧
       (ends (.tdirty m) fun y => y.tile n = { x.tile n with dirty := true } ∧ y.scratch = x.scratch) ∧
       (ends (.trel m) fun y => (y.tile n).configured = false ∧ (y.tile n).owner = none ∧ y.tileRec c.ctx n = .none ∧
         y.scratch = x.scratch) ∧
       ((x.tile n).rows = (x.tile n).cols →
         ends (.ttrans m) fun y => (y.tile n).dirty = true ∧ (y.tile n).shape = (x.tile n).shape ∧ y.scratch = x.scratch ∧
           ∀ i j, i < (x.tile n).rows → j < (x.tile n).rows → (x.tile n).rows ≤ 16 →
             (y.tile n).elem i j = (x.tile n).elem j i)) ∧
     (x.tileRec c.ctx n = .none → ∀ i ∈ [Instr.tzero m, .trel m, .ttrans m, .tdirty m],
       exec i s = .next (s.raisePrecise c .tileUncfg 0))) ∧
  (∀ (s : State) (g : Guard) (m : MReg) (x : ScrAddr) (h row : Word) (y : HandleSt), s.guardTrue s.cur g = true →
     let c := s.cur
     let z := s.core c.coreId
     let q := z.tile m.toNat
     s.useReg c (.t m) = .ok () → z.tileRec c.ctx m.toNat = .owned → s.scrSrcs c x = .ok (h, row) → q.rows ≤ 16 →
     q.cols ≤ 16 → s.scrCheck c h row x.imm (4 * q.cols) 16 q.rows = .ok y →
     let at' (i : Nat) : Nat := y.addr (row.toNat + i) x.imm.toNat
     ((∀ e ∈ tileGranules y q.shape row.toNat x.imm.toNat, Map.find z.ecc e = none) →
       Ends (.tld g m x) s fun t => SameRegs c s t ∧ GoesOn c s t (s.pc c + 8) (s.ctx c).regs.l ∧ t.mem = s.mem ∧
         (t.core c.coreId).scratch = z.scratch ∧ ((t.core c.coreId).tile m.toNat).dirty = false ∧
         ((t.core c.coreId).tile m.toNat).shape = q.shape ∧
         ∀ i j, i < q.rows → j < q.cols → ((t.core c.coreId).tile m.toNat).elem i j =
           BitVec.ofNat 32 (leNat (z.scratchBytes (at' i + 4 * j) 4))) ∧
     (∀ ns, Ends (.tst g ns m x) s fun t => SameRegs c s t ∧ GoesOn c s t (s.pc c + 8) (s.ctx c).regs.l ∧ t.mem = s.mem ∧
       (t.core c.coreId).tile m.toNat = q ∧
       (∀ b, (∀ i, i < q.rows → b < at' i ∨ at' i + 4 * q.cols ≤ b) →
         Map.get (t.core c.coreId).scratch 0 b = Map.get z.scratch 0 b) ∧
       (∀ i j, i < q.rows → j < q.cols → 4 * q.cols ≤ y.rowBytes →
         (t.core c.coreId).scratchBytes (at' i + 4 * j) 4 = leBytes (q.elem i j).toNat 4)))

/-! ## Engine words, the format table, streams and capsules -/

/-- The stack words (R92, R312, R327, R346, R364, R369): what each leaves on its engine's parameter stack, top first; a word
that needs more entries than there are raises ENG-UNF, and a push on a stack of eight ENG-OVF. FTSET, FTGET, FTIDX and
ESTAT (R67, R69, R170, R171, R336): an entry of the core's format table is written or read; FTIDX writes FTBIND; ESTAT
gives the engine's status word of the context, and its .CLR form clears FCODE after the read. -/
def Obligations.StackWordsAndTables : Prop :=
  ((∀ (s : State) (e : Engine),
      let c := s.cur
      let st := s.stack c e
      let ends (i : Instr) (l : List Word) : Prop := Ends i s fun t =>
        t.stack c e = l ∧ (∀ e', e' ≠ e → t.stack c e' = s.stack c e') ∧ KeepsG c s t ∧ KeepsK c s t ∧ KeepsV c s t ∧
        (t.ctx c).ctl = (s.ctx c).ctl ∧ WordGoesOn c s t ∧ t.mem = s.mem ∧ t.dies = s.dies ∧
        ∀ k, (t.core k).still = (s.core k).still
      (∀ imm, st.length < 8 → ends (.lit e imm) (imm.signExtend 64 :: st)) ∧
      (∀ imm x r, st = x :: r → r.length < 8 → ends (.lith e imm) (BitVec.ofNat 64 (x.toNat * 4096 + imm.toNat) :: r)) ∧
      (∀ x r, st = x :: r → r.length < 7 → ends (.dup e) (x :: x :: r)) ∧
      (∀ x r, st = x :: r → r.length ≤ 8 → ends (.drop e) r) ∧
      (∀ x y r, st = x :: y :: r → r.length < 7 → ends (.swap e) (y :: x :: r)) ∧
      (∀ x y r, st = x :: y :: r → r.length < 6 → ends (.over e) (y :: x :: y :: r)) ∧
      ends (.clrs e) [] ∧
      (∀ g v, s.readG c g = .ok v → st.length < 8 → ends (.pushg e g) (v :: st))) ∧
   (∀ (s : State) (e : Engine),
      let st := s.stack s.cur e
      (st = [] → ∀ imm, ∀ i ∈ [Instr.lith e imm, .dup e, .drop e], exec i s = .next (s.raisePrecise s.cur .engUnf 0)) ∧
      (st.length < 2 → ∀ i ∈ [Instr.swap e, .over e], exec i s = .next (s.raisePrecise s.cur .engUnf 0)) ∧
      (st.length = 8 → ∀ imm, ∀ i ∈ [Instr.lit e imm, .dup e, .over e], exec i s = .next (s.raisePrecise s.cur .engOvf 0)))) ∧
  (∀ (s : State) (g : Guard) (w : Bool) (d : GReg) (a : Src) (n base : BitVec 5) (v : Word), s.guardTrue s.cur g = true →
     let c := s.cur
     (s.readSrc c a = .ok v → Ends (.ftset g a n) s fun t =>
       SameRegs c s t ∧ GoesOn c s t (s.pc c + 8) (s.ctx c).regs.l ∧ t.mem = s.mem ∧
       ∀ m, (t.core c.coreId).entry m = if m = n.toNat then v else (s.core c.coreId).entry m) ∧
     (∀ vb z, Ends (.ftidx g vb z base) s fun t =>
       (t.ctx c).ctl = { (s.ctx c).ctl with
         ftbind := BitVec.ofNat 16 ((if vb then 0x8000 else 0) + (if z then 0x100 else 0) + base.toNat) } ∧
       KeepsG c s t ∧ KeepsK c s t ∧ KeepsV c s t ∧ Outside c s t ∧ GoesOn c s t (s.pc c + 8) (s.ctx c).regs.l) ∧
     (s.useDestG c w d = .ok () →
       (Ends (.ftget g w d n) s fun t => GivesG c s t w d ((s.core c.coreId).entry n.toNat)) ∧
       (∀ e, (Ends (.estat g w d e false) s fun t => GivesG c s t w d (s.engStatus c e)) ∧
         (Ends (.estat g w d e true) s fun t =>
           (∀ r, (t.ctx c).regs.getG r = if w = false ∧ r = d ∧ d ≠ 0 then s.engStatus c e else (s.ctx c).regs.getG r) ∧
           KeepsK c s t ∧ KeepsV c s t ∧ Outside c s t ∧
           (t.ctx c).mest = (if e = .me then { (s.ctx c).mest with fcode := 0 } else (s.ctx c).mest) ∧
           (t.ctx c).cest = (if e = .ce then { (s.ctx c).cest with fcode := 0 } else (s.ctx c).cest)))))

/-- A launch word (MMA, MDRAIN, MROUTE, MACCLD, CPY, CPYS, CPYH, CPYP, CGATH, CSTRM, CSINK, CFILL) with no waiting trap and a free shadow set, in a context with no chain (R93, R94, R95, R172, R185): it
pops its arguments and is captured in the shadow set with the format entry it names; arguments that the checks of R172
or R114 refuse raise ENG-ARG, and nothing is captured. No register changes and no byte of memory. -/
def Obligations.LaunchWords : Prop :=
  ∀ (s : State) (i : Instr) (e : Engine), i.launchEngine = some e →
    let c := s.cur
    let n := launchNeeds i
    let args := (s.stack c e).take n
    (s.ctx c).wait.traps = [] → n ≤ (s.stack c e).length → (s.ctx c).chain = none → (s.ctx c).held = none →
    s.shadowFree c.coreId e = true →
    (launchArgsOk i args = false → exec i s = .next (s.raisePrecise c .engArg 0)) ∧
    (∀ f, launchArgsOk i args = true → s.launchFmt c i args = some f →
      let entry := (s.core c.coreId).entry f
      (fmtSuits i args entry = false → exec i s = .next (s.raisePrecise c .engArg 0)) ∧
      (fmtSuits i args entry = true → Ends i s fun t =>
        (∃ op, (t.eng c.coreId e).shadow = some op ∧ op.instr = i ∧ op.args = args ∧ op.pc = s.pc c ∧ op.ctx = c.ctx ∧
          op.entry = entry ∧ op.id = s.fresh) ∧
        (t.eng c.coreId e).active = (s.eng c.coreId e).active ∧ t.stack c e = (s.stack c e).drop n ∧
        (t.ctx c).chain = (if launchChains i then some (.running s.fresh) else none) ∧
        KeepsG c s t ∧ KeepsK c s t ∧ KeepsV c s t ∧ (t.ctx c).ctl = (s.ctx c).ctl ∧ WordGoesOn c s t ∧ MemKept s t ∧
        (t.core c.coreId).scratch = (s.core c.coreId).scratch))

/-- SRD, SPEEK and VSRD (R56, R152, R153, R377, R407) with a token at the head of their port: a data or steer token's value
is the result, or with .K its kind; the predicate is cleared, and SRD and VSRD take the token and return a credit; at an
EOS the predicate is set and nothing is taken; without a predicate it raises STREAM-PROTO. SWR, SEOS, SSTEER and VSWR
(R151, R154, R156, R378): with room one token of their kind enters the output buffer with the clock it releases; with no
room the context parks and keeps the value it read. All are switch points. -/
def Obligations.Streams : Prop :=
  (∀ (s : State) (g : Guard) (w : Bool) (port : BitVec 4) (e : KReg) (p : Nat) (t0 : Token), s.guardTrue s.cur g = true →
     let c := s.cur
     (s.ctx c).wait.traps = [] → (s.inPort c.coreId p).head = some t0 →
     let only (l : Latch) : Vector Latch 4 := #v[l, Latch.invalid, Latch.invalid, Latch.invalid]
     let setsK (t : State) (b : Bool) : Prop :=
       ∀ r, (t.ctx c).regs.getK r = if r = e ∧ e ≠ 0 then (if b then BitVec.allOnes 64 else 0) else (s.ctx c).regs.getK r
     let same (t : State) : Prop := t.mem = s.mem ∧ t.dies = s.dies ∧ (t.ctx c).ctl = (s.ctx c).ctl ∧
       (t.core c.coreId).scratch = (s.core c.coreId).scratch
     let takes (t : State) : Prop := (t.inPort c.coreId p).buf = (s.inPort c.coreId p).buf.drop 1 ∧
       t.net.credits = s.net.credits ++ [⟨.core c.die c.core p, (s.inPort c.coreId p).circ, (s.inPort c.coreId p).launch⟩]
     let stays (t : State) : Prop := t.inPort c.coreId p = s.inPort c.coreId p ∧ t.net = s.net
     let v := t0.val.extractLsb' 0 64
     let kindOf : Word := if t0.kind = .steer then 3 else 0
     (∀ d : GReg, s.readPort c port.toNat false = .ok p → s.useDestG c w d = .ok () →
       let gives (i : Instr) (x : Word) (b : Bool) (moves : State → Prop) : Prop := Ends i s fun t =>
         (∀ r, (t.ctx c).regs.getG r = if w = false ∧ r = d ∧ d ≠ 0 then x else (s.ctx c).regs.getG r) ∧ KeepsV c s t ∧
         setsK t b ∧ same t ∧ moves t ∧ GoesOn c s t (s.pc c + 8) (only (Latch.scalar x))
       let stops (i : Instr) : Prop := Ends i s fun t => KeepsG c s t ∧ KeepsV c s t ∧ setsK t true ∧ same t ∧ stays t ∧
         GoesOn c s t (s.pc c + 8) stale
       (t0.kind = .data ∨ t0.kind = .steer → gives (.srd g w d port e) v false takes ∧
         ∀ nb, gives (.speek g w d port e false nb) v false stays ∧ gives (.speek g w d port e true nb) kindOf false stays) ∧
       (t0.kind = .eos → ∀ nb, gives (.speek g w d port e true nb) 1 true stays ∧
         (e ≠ 0 → stops (.srd g w d port e) ∧ stops (.speek g w d port e false nb)) ∧
         (e = 0 → exec (.srd g w d port e) s = .next (s.raisePrecise c .streamProto 0) ∧
           exec (.speek g w d port e false nb) s = .next (s.raisePrecise c .streamProto 0)))) ∧
     (∀ d : VReg, s.readPort c port.toNat true = .ok p → s.useDestV c w d = .ok () →
       (t0.kind = .data → Ends (.vsrd g w d port e) s fun t => KeepsG c s t ∧ setsK t false ∧ same t ∧ takes t ∧
         (∀ r, (t.ctx c).regs.getV r = if w = false ∧ r = d then t0.val else (s.ctx c).regs.getV r) ∧
         GoesOn c s t (s.pc c + 8) (only (Latch.vector t0.val))) ∧
       (t0.kind = .eos → e = 0 → exec (.vsrd g w d port e) s = .next (s.raisePrecise c .streamProto 0)) ∧
       (t0.kind = .eos → e ≠ 0 → Ends (.vsrd g w d port e) s fun t => KeepsG c s t ∧ KeepsV c s t ∧ setsK t true ∧ same t ∧
         stays t ∧ GoesOn c s t (s.pc c + 8) stale))) ∧
  (∀ (s : State) (g : Guard) (port : BitVec 4) (p : Nat), s.guardTrue s.cur g = true →
     let c := s.cur
     (s.ctx c).wait.traps = [] → s.captured c = none → s.mayRelease c = true →
     let writes (i : Instr) (vec : Bool) (kind : TokKind) (v : Vec) : Prop := s.writePort c port.toNat vec = .ok p →
       ((s.outPort c.coreId p).buf.length < 4 → Ends i s fun t =>
         SameRegs c s t ∧ GoesOn c s t (s.pc c + 8) stale ∧ t.mem = s.mem ∧ t.dies = s.dies ∧ t.net = s.net ∧
         (t.outPort c.coreId p).buf = (s.outPort c.coreId p).buf ++ [⟨kind, v, some (s.vc c.die)⟩] ∧
         (t.outPort c.coreId p).eos = ((s.outPort c.coreId p).eos || kind == .eos)) ∧
       (4 ≤ (s.outPort c.coreId p).buf.length → Ends i s fun t =>
         SameRegs c s t ∧ (t.ctx c).wait.park = some (.roomOut port.toNat) ∧ t.pc c = s.pc c ∧
         t.captured c = some (.value v) ∧ t.outPort c.coreId p = s.outPort c.coreId p ∧ t.mem = s.mem)
     (∀ a v, s.readSrc c a = .ok v → writes (.swr g port a) false .data (v.zeroExtend 512)) ∧
     writes (.seos g port) false .eos 0 ∧
     (∀ a v, s.readSrc c a = .ok v → v.toNat ≤ 15 → writes (.ssteer g port a) false .steer (v.zeroExtend 512)) ∧
     (∀ a v, s.readVPort c a = .ok v → writes (.vswr g port a) true .data v))

/-- CAPHDR, CAPNEXT, CAPINS and CAPDEL on a held capsule (R220, R225): a header word, the next hop or the end, and the
itinerary with hops put in or taken out; a context that holds no capsule raises HINVAL. CAPSEND, CAPEND and CAPFLT (R225,
R226), when the causal writes before them may be released: the send begins, to the next hop, the sink or the fault
place, and the capsule is held no more for the instructions; CAPFLT marks the header. -/
def Obligations.CapsuleHeadersAndSends : Prop :=
  (∀ (s : State) (g : Guard) (w : Bool) (d : GReg) (k : KReg) (a : Src) (i n : BitVec 4), s.guardTrue s.cur g = true →
     let c := s.cur
     ((s.ctx c).cap = none → ∀ x ∈ [Instr.caphdr g w d i, .capnext g w d k, .capdel g i n, .capsend g, .capend g],
       exec x s = .next (s.raisePrecise c .hinval 0)) ∧
     (∀ q, (s.ctx c).cap = some q → q.sending = none →
       let cur := capCur q.hdr
       let len := capNhop q.hdr
       let edits (x : Instr) (p : CapHdr → Prop) : Prop := Ends x s fun t =>
         SameRegs c s t ∧ GoesOn c s t (s.pc c + 8) (s.ctx c).regs.l ∧ t.mem = s.mem ∧ (∀ k, (t.core k).still = (s.core k).still) ∧
         ∃ q', (t.ctx c).cap = some q' ∧ q'.launch = q.launch ∧ q'.sending = none ∧ p q'.hdr
       (s.useDestG c w d = .ok () →
         (Ends (.caphdr g w d i) s fun t => GivesG c s t w d ((capWord q.hdr i.toNat).zeroExtend 64)) ∧
         (Ends (.capnext g w d k) s fun t =>
           let v : Word := if cur = len then 0 else (capHop q.hdr cur).zeroExtend 64
           (∀ r, (t.ctx c).regs.getG r = if w = false ∧ r = d ∧ d ≠ 0 then v else (s.ctx c).regs.getG r) ∧
           (∀ r, (t.ctx c).regs.getK r = if r = k ∧ k ≠ 0 then (if cur = len then 1 else 0) else (s.ctx c).regs.getK r) ∧
           KeepsV c s t ∧ Outside c s t ∧ (t.ctx c).cap = (s.ctx c).cap)) ∧
       (∀ v, s.readSrc c a = .ok v → len < 10 → cur ≤ i.toNat → i.toNat ≤ len → v.toNat < 2 ^ 29 →
         s.placeIn (capByte q.hdr 7) (v.extractLsb' 0 17) = true →
         edits (.capins g a i) fun h => capNhop h = len + 1 ∧ capHop h i.toNat = v.extractLsb' 0 32 ∧
           (∀ j, j < i.toNat → capHop h j = capHop q.hdr j) ∧
           (∀ j, i.toNat ≤ j → j < len → capHop h (j + 1) = capHop q.hdr j)) ∧
       (cur ≤ i.toNat → i.toNat + n.toNat ≤ len → len ≤ 10 → edits (.capdel g i n) fun h =>
           capNhop h = len - n.toNat ∧ (∀ j, j < i.toNat → capHop h j = capHop q.hdr j) ∧
           (∀ j, i.toNat ≤ j → j + n.toNat < len → capHop h j = capHop q.hdr (j + n.toNat))))) ∧
  (∀ (s : State) (g : Guard) (a : Src) (v : Word) (q : HeldCap), s.guardTrue s.cur g = true →
     let c := s.cur
     (s.ctx c).cap = some q → q.sending = none → s.mayRelease c = true → s.readSrc c a = .ok v →
     let sends (i : Instr) (h : CapHdr) (place : BitVec 17) (role : CapRole) : Prop := Ends i s fun t =>
       SameRegs c s t ∧ GoesOn c s t (s.pc c + 8) (s.ctx c).regs.l ∧ t.mem = s.mem ∧
       (t.ctx c).sent = s.fresh :: (s.ctx c).sent ∧ t.heldCap c = .error (.raise .hinval 0) ∧
       ∃ q' d, (t.ctx c).cap = some q' ∧ q'.hdr = h ∧ q'.sending = some d ∧ d.place = place ∧ d.role = role ∧
         d.id = s.fresh
     (capCur q.hdr ≠ capNhop q.hdr → s.placeIn (capByte q.hdr 7) ((capHop q.hdr (capCur q.hdr)).extractLsb' 0 17) = true →
       sends (.capsend g) q.hdr ((capHop q.hdr (capCur q.hdr)).extractLsb' 0 17) .hop) ∧
     sends (.capend g) q.hdr ((capWord q.hdr 4).extractLsb' 0 17) .sink ∧
     sends (.capflt g a) (capFaulted q.hdr (v.toNat % 256)) ((capWord q.hdr 5).extractLsb' 0 17) .fault)

/-- CAPRECV, CAPSULE_RECEIVE_DONE and CAPNEW (R225, R308) complete. CAPRECV, in a context that holds no capsule, takes the
oldest capsule of its world and parks while that moves; CAPSULE_RECEIVE_DONE, then and whenever a context is so parked,
leaves its header held and its data in the context's capsule space with full bits set, and gives the hop's operation and
flags, or the kind of a sink, of a faulted capsule, or of one whose place was retired. CAPNEW makes a capsule with zeros
for data from a template whose fields and places are in order, and raises CAP-FMT or CAP-PLACE for another. -/
def Obligations.CapsuleTakes : Prop :=
  (∀ (s : State) (c : CtxId) (w : Bool) (d : GReg) (k : Capsule),
    c.die < 4 → c.core < 128 → c.ctx < 4 → (s.ctx c).wait.park = some (.capMove w d) →
    ((s.core c.coreId).rxbuf.find? fun y => y.taken == some c.ctx) = some k → k.data.length ≤ 17408 →
    let flagged := capFlt k.hdr
    let retired := (capByte k.hdr 6).testBit 1
    let hop := capHop k.hdr (capCur k.hdr)
    let gives (v : Word) (h : CapHdr) : Prop := ∃ t, exec (.capsuleReceiveDone c) s = .next t ∧
      (∀ r, (t.ctx c).regs.getG r = if w = false ∧ r = d ∧ d ≠ 0 then v else (s.ctx c).regs.getG r) ∧
      KeepsK c s t ∧ KeepsV c s t ∧ (t.ctx c).ctl = (s.ctx c).ctl ∧
      GoesOn c s t (s.pc c + 8) (pushed c s (Latch.scalar v)) ∧
      (t.ctx c).cap = some { hdr := h, launch := k.launch, home := k.home, sending := none } ∧
      (∀ i, i < 17408 → Map.get (t.core c.coreId).scratch 0 (capBase c.ctx + i) = k.data.getD i 0) ∧
      (∀ i, i < 1088 → (Map.find (t.core c.coreId).full (capBase c.ctx / 16 + i)).isSome = decide (i < capSize k.hdr / 16)) ∧
      (∀ b, (b < capBase c.ctx ∨ capBase c.ctx + 17408 ≤ b) →
        Map.get (t.core c.coreId).scratch 0 b = Map.get (s.core c.coreId).scratch 0 b) ∧
      (∀ y, y ∈ (t.core c.coreId).rxbuf ↔ y ∈ (s.core c.coreId).rxbuf ∧ y.id ≠ k.id) ∧
      HomeSame s t (fun b => cellRemote b = true) ∧ (k.role = .hop → t.mem = s.mem)
    (flagged = true → gives 0x2000 k.hdr) ∧ (flagged = false → retired = true → gives 0x3000 k.hdr) ∧
    (flagged = false → retired = false → k.role = .sink → gives 0x1000 k.hdr) ∧
    (flagged = false → retired = false → k.role ≠ .sink →
      gives (BitVec.ofNat 64 (hop.toNat / 2 ^ 17 % 256 + hop.toNat / 2 ^ 25 % 16 * 256))
        (capSetByte k.hdr 4 (capCur k.hdr + 1)))) ∧
  (∀ (s : State) (g : Guard) (w : Bool) (d : GReg) (k : Capsule), s.guardTrue s.cur g = true →
    let c := s.cur
    (s.ctx c).wait.traps = [] → (s.ctx c).cap = none → s.useDestG c w d = .ok () →
    (s.core c.coreId).capFor (s.worldOf c.coreId) c.ctx = some k →
    ∃ t, exec (.caprecv g w d) s = .next t ∧ (t.ctx c).wait.park = some (.capMove w d) ∧ SameRegs c s t ∧
      t.pc c = s.pc c ∧ (t.ctx c).regs.l = stale ∧ t.mem = s.mem ∧
      (t.core c.coreId).rxbuf = ((s.core c.coreId).rxbuf.map fun y => if y.id = k.id then { y with taken := some c.ctx } else y) ∧
      (c.die < 4 → c.core < 128 → c.ctx < 4 →
        (∀ y ∈ (s.core c.coreId).rxbuf, y = k ∨ (y.id ≠ k.id ∧ y.taken ≠ some c.ctx)) →
        ∃ u, exec (.capsuleReceiveDone c) t = .next u ∧ (u.ctx c).wait.park = none ∧
          ∃ q, (u.ctx c).cap = some q ∧ q.sending = none ∧ q.launch = k.launch)) ∧
  (∀ (s : State) (g : Guard) (a : Src) (v : Word) (x : HandleSt), s.guardTrue s.cur g = true →
    let c := s.cur
    s.readSrc c a = .ok v → (s.ctx c).cap = none → v.toNat < 2 ^ 40 →
    s.scrCheck c ((v.extractLsb' 32 8).zeroExtend 64) ((v.extractLsb' 0 32).zeroExtend 64) 0 64 1 1 = .ok x →
    let row := v.toNat % 2 ^ 32
    (∀ q ∈ granulesOf x row 0 64, Map.find (s.core c.coreId).ecc q = none) →
    let t0 : CapHdr := BitVec.ofNat 512 (leNat ((s.core c.coreId).scratchBytes (x.addr row 0) 64))
    (capFmtOk t0 = false → exec (.capnew g a) s = .next (s.raisePrecise c .capFmt 0)) ∧
    (capFmtOk t0 = true → s.capPlacesOk t0 (s.worldOf c.coreId) = false →
      exec (.capnew g a) s = .next (s.raisePrecise c .capPlace 0)) ∧
    (capFmtOk t0 = true → s.capPlacesOk t0 (s.worldOf c.coreId) = true → ∃ t, exec (.capnew g a) s = .next t ∧
      SameRegs c s t ∧ GoesOn c s t (s.pc c + 8) (s.ctx c).regs.l ∧ t.mem = s.mem ∧
      (∃ q, (t.ctx c).cap = some q ∧ q.sending = none ∧ q.hdr = capSetByte t0 7 (s.worldOf c.coreId)) ∧
      (∀ i, i < 17408 → Map.get (t.core c.coreId).scratch 0 (capBase c.ctx + i) = 0) ∧
      (∀ i, i < 1088 → Map.find (t.core c.coreId).full (capBase c.ctx / 16 + i) = none) ∧
      (∀ b, (b < capBase c.ctx ∨ capBase c.ctx + 17408 ≤ b) →
        Map.get (t.core c.coreId).scratch 0 b = Map.get (s.core c.coreId).scratch 0 b)))

/-! ## Vector instructions -/

/-- The arithmetic group (R84, R110, R392, R393): on integers the exact result modulo 2^w, or clamped with .SAT; on floats
the exact result rounded once; VMIN, VMAX, VABS and VNEG with their rules for floats; VDOT. Integer forms without .SAT,
and VMIN, VMAX, VABS, VNEG and VDOT, count no event. -/
def Obligations.VectorArithmetic : Prop :=
  ∀ (s : State) (h : VHead) (args : List VArg) (dst : VDest),
    let w := h.t.bits
    let n := h.t.lanes
    let fm := tyFmt h.t
    let rm := roundOf (s.ctx s.cur).ctl.rm
    let lane (j i : Nat) : Nat := laneAt w (vecArg s args j) i
    let int (j i : Nat) : Int := intOf h.t.isSigned w (lane j i)
    let fl (j i : Nat) : Fl := fm.value (lane j i)
    let wrap (v : Int) : Nat := (v % (2 : Int) ^ w).toNat
    let lo : Int := if h.t.isSigned then -(2 : Int) ^ (w - 1) else 0
    let hi : Int := if h.t.isSigned then (2 : Int) ^ (w - 1) - 1 else (2 : Int) ^ w - 1
    let clamp (v : Int) : Nat := wrap (if v < lo then lo else if hi < v then hi else v)
    let round (v : Fl) : Nat := (fm.finish rm (s.ctx s.cur).ctl.satf false v).bits
    let gives (i : Instr) (quiet : Prop) (f : Nat → Nat) : Prop := Ends i s fun t =>
      VecEnds s t h.w args dst (DTy.ofTy h.t) (onActive s h.k n f) ∧ (quiet → Quiet s t (anyActive s h.k n))
    let minMax (isMin : Bool) (i : Nat) : Nat :=
      if h.t.isFloat then
        if (fl 0 i).isNan ∨ (fl 1 i).isNan then fm.nanBits
        else if (fl 0 i).lt (fl 1 i) then (if isMin then lane 0 i else lane 1 i)
        else if (fl 1 i).lt (fl 0 i) then (if isMin then lane 1 i else lane 0 i)
        else if fm.neg (lane 0 i) = isMin then lane 0 i else lane 1 i
      else if int 0 i ≤ int 1 i then (if isMin then lane 0 i else lane 1 i) else (if isMin then lane 1 i else lane 0 i)
    (∀ a b, VecReady s h.w h.d [(a, w), (b, w)] args dst →
      (h.t.isFloat = false →
        gives (.vadd h false a b) True (fun i => wrap (int 0 i + int 1 i)) ∧
        gives (.vsub h false a b) True (fun i => wrap (int 0 i - int 1 i)) ∧
        gives (.vmul h false a b) True (fun i => wrap (int 0 i * int 1 i)) ∧
        gives (.vadd h true a b) False (fun i => clamp (int 0 i + int 1 i)) ∧
        gives (.vsub h true a b) False (fun i => clamp (int 0 i - int 1 i)) ∧
        gives (.vmul h true a b) False (fun i => clamp (int 0 i * int 1 i))) ∧
      (h.t.isFloat = true →
        gives (.vadd h false a b) False (fun i => round ((fl 0 i).add rm (fl 1 i)).1) ∧
        gives (.vsub h false a b) False (fun i => round ((fl 0 i).add rm (fl 1 i).negate).1) ∧
        gives (.vmul h false a b) False (fun i => round ((fl 0 i).mul (fl 1 i)).1)) ∧
      gives (.vmin h a b) True (minMax true) ∧ gives (.vmax h a b) True (minMax false)) ∧
    (∀ a b c, VecReady s h.w h.d [(a, w), (b, w), (c, w)] args dst →
      gives (.vfma h a b c) (h.t.isFloat = false) fun i =>
        if h.t.isFloat then round (Fl.fma rm (fl 0 i) (fl 1 i) (fl 2 i)).1 else wrap (int 0 i * int 1 i + int 2 i)) ∧
    (∀ a, VecReady s h.w h.d [(a, w)] args dst →
      gives (.vabs h a) True (fun i => if h.t.isFloat then
          if (fl 0 i).isNan then fm.nanBits else lane 0 i % fm.signBit
        else wrap (int 0 i).natAbs) ∧
      gives (.vneg h a) True (fun i => if h.t.isFloat then
          if (fl 0 i).isNan then fm.nanBits else if fm.neg (lane 0 i) then lane 0 i - fm.signBit else lane 0 i + fm.signBit
        else wrap (-int 0 i))) ∧
    (∀ k wd d a b c, VecReady s wd d [(a, 8), (b, 8), (c, 32)] args dst →
      let prod (i j : Nat) : Int := intOf true 8 (laneAt 8 (vecArg s args 0) (4 * i + j)) *
        intOf true 8 (laneAt 8 (vecArg s args 1) (4 * i + j))
      Ends (.vdot k wd d a b c) s fun t => Quiet s t (anyActive s k 16) ∧
        VecEnds s t wd args dst ⟨32, true⟩ (onActive s k 16 fun i =>
          ((intOf true 32 (laneAt 32 (vecArg s args 2) i) + prod i 0 + prod i 1 + prod i 2 + prod i 3) % (2 : Int) ^ 32).toNat))

/-- The bitwise operations, shifts, moves and selection (R396, R398, R399, R400): the lanes each gives; none counts an
event. -/
def Obligations.VectorBitsAndMoves : Prop :=
  ∀ (s : State) (h : VHead) (args : List VArg) (dst : VDest),
    let w := h.t.bits
    let n := h.t.lanes
    let lane (j i : Nat) : Nat := laneAt w (vecArg s args j) i
    let bits (j i : Nat) : BitVec w := BitVec.ofNat w (lane j i)
    let gives (i : Instr) (f : Nat → Nat) : Prop := Ends i s fun t =>
      VecEnds s t h.w args dst (DTy.ofTy h.t) (onActive s h.k n f) ∧ Quiet s t (anyActive s h.k n)
    (∀ a b, VecReady s h.w h.d [(a, w), (b, w)] args dst →
      gives (.vand h a b) (fun i => (bits 0 i &&& bits 1 i).toNat) ∧ gives (.vor h a b) (fun i => (bits 0 i ||| bits 1 i).toNat) ∧
      gives (.vxor h a b) (fun i => (bits 0 i ^^^ bits 1 i).toNat) ∧
      gives (.vshl h a b) (fun i => (bits 0 i <<< (lane 1 i % w)).toNat) ∧
      gives (.vshr h a b) (fun i => (bits 0 i >>> (lane 1 i % w)).toNat) ∧
      gives (.vsar h a b) (fun i => ((bits 0 i).sshiftRight (lane 1 i % w)).toNat) ∧
      gives (.vperm h a b) (fun i => lane 0 (lane 1 i % n)) ∧
      ∀ k neg, gives (.vsel h a b k neg) fun i => if active s k i = neg then lane 1 i else lane 0 i) ∧
    (∀ a, VecReady s h.w h.d [(a, w)] args dst →
      gives (.vnot h a) (fun i => (~~~bits 0 i).toNat) ∧ gives (.vmov h a) (lane 0) ∧
      (∀ j, gives (.vbcast h a j) fun _ => lane 0 j.toNat) ∧
      (∀ k, gives (.vcomp h a k) fun i => (((List.range n).filter (active s k)).map (lane 0)).getD i 0) ∧
      ∀ j : BitVec 6, Ends (.vins h a j) s fun t => Quiet s t (anyActive s h.k n) ∧
        VecEnds s t h.w args dst (DTy.ofTy h.t) fun i => if i = j.toNat then onActive s h.k n (fun _ => lane 0 0) i else none) ∧
    (∀ wd d a j, VecReady s wd d [(a, w)] args dst → Ends (.vext wd h.t d a j) s fun t =>
      VecEnds s t wd args dst (DTy.ofTy h.t) (onlyLane0 (lane 0 j.toNat)) ∧ Quiet s t true) ∧
    (VecReady s h.w h.d [] args dst → ∀ imm : BitVec 11, gives (.vli h imm) fun _ =>
      if h.t.isFloat then ((tyFmt h.t).finish .rne false false (Fl.ofInt imm.toInt)).bits else (imm.toInt % (2 : Int) ^ w).toNat)

/-- VCMP (R397): the condition of each active lane goes to its bit of the predicate, an inactive lane keeps its bit, bits
above the lanes are zero; k0 is not written, no latch is pushed and no event counts. -/
def Obligations.VectorCompare : Prop :=
  ∀ (s : State) (k d : KReg) (t : ETy) (a b : VSrc) (x y : VArg),
    let w := t.bits
    let n := t.lanes
    s.vsrc s.cur a w = .ok x → s.vsrc s.cur b w = .ok y → s.argsOk s.cur [x, y] = .ok () →
    s.restoreReads s.cur [x, y] = .ok s →
    let lane (j i : Nat) : Nat := laneAt w (vecArg s [x, y] j) i
    let int (j i : Nat) : Int := intOf t.isSigned w (lane j i)
    let fl (j i : Nat) : Fl := (tyFmt t).value (lane j i)
    let gives (cond : VCond) (p : Nat → Prop) : Prop := Ends (.vcmp k t d cond a b) s fun u =>
      (∀ r i, i < 64 → (((u.ctx s.cur).regs.getK r).getLsbD i = true ↔
        if r = d ∧ d ≠ 0 then (i < n ∧ if active s k i then p i else ((s.ctx s.cur).regs.getK d).getLsbD i = true)
        else ((s.ctx s.cur).regs.getK r).getLsbD i = true)) ∧
      KeepsG s.cur s u ∧ KeepsV s.cur s u ∧ Quiet s u (anyActive s k n) ∧ u.mem = s.mem ∧
      GoesOn s.cur s u (s.pc s.cur + 8) (s.ctx s.cur).regs.l
    (t.isFloat = false →
      gives .eq (fun i => int 0 i = int 1 i) ∧ gives .ne (fun i => int 0 i ≠ int 1 i) ∧ gives .lt (fun i => int 0 i < int 1 i) ∧
      gives .le (fun i => int 0 i ≤ int 1 i) ∧ gives .gt (fun i => int 1 i < int 0 i) ∧ gives .ge (fun i => int 1 i ≤ int 0 i) ∧
      gives .tst (fun i => BitVec.ofNat w (lane 0 i) &&& BitVec.ofNat w (lane 1 i) ≠ 0)) ∧
    (t.isFloat = true →
      let nan (i : Nat) : Prop := (fl 0 i).isNan = true ∨ (fl 1 i).isNan = true
      gives .eq (fun i => ¬nan i ∧ ¬(fl 0 i).lt (fl 1 i) ∧ ¬(fl 1 i).lt (fl 0 i)) ∧
      gives .ne (fun i => nan i ∨ (fl 0 i).lt (fl 1 i) ∨ (fl 1 i).lt (fl 0 i)) ∧
      gives .lt (fun i => ¬nan i ∧ (fl 0 i).lt (fl 1 i)) ∧ gives .le (fun i => ¬nan i ∧ ¬(fl 1 i).lt (fl 0 i)) ∧
      gives .gt (fun i => ¬nan i ∧ (fl 1 i).lt (fl 0 i)) ∧ gives .ge (fun i => ¬nan i ∧ ¬(fl 0 i).lt (fl 1 i)) ∧
      gives .un nan)

/-- VCVT, VQNT, VDQNT, VEXPM and VALIGN (R112, R119, R394, R395, R401, R405): each completes with these lanes. -/
def Obligations.VectorConversions : Prop :=
  ∀ (s : State) (h : VHead) (args : List VArg) (dst : VDest),
    let w := h.t.bits
    let n := h.t.lanes
    let fm := tyFmt h.t
    let rm := roundOf (s.ctx s.cur).ctl.rm
    let satf := (s.ctx s.cur).ctl.satf
    let round (g : FFmt) (v : Fl) : Nat := (g.finish rm satf false v).bits
    let bits (m : Nat) (v : Int) : Nat := (v % (2 : Int) ^ m).toNat
    let ends (i : Instr) (wd : Bool) (ty : DTy) (lane : Nat → Option Nat) : Prop :=
      Ends i s fun t => VecEnds s t wd args dst ty lane
    let arg (m j i : Nat) : Nat := laneAt m (vecArg s args j) i
    (∀ src p a, VecReady s h.w h.d [(a, src.bits)] args dst →
      let ws := src.bits
      let m := 512 / max ws w
      let conv (b : Nat) : Nat :=
        if src.isFloat then
          if h.t.isFloat then round fm ((tyFmt src).value b)
          else bits w (flToInt rm h.t.isSigned w ((tyFmt src).value b)).1
        else if h.t.isFloat then round fm (Fl.ofInt (intOf src.isSigned ws b))
        else bits w (satInt h.t.isSigned w (intOf src.isSigned ws b)).1
      ends (.vcvt h src p a) h.w (DTy.ofTy h.t) fun i =>
        if ws ≤ w then onActive s h.k n (fun i => conv (arg ws 0 (p.toNat * m + i))) i
        else if p.toNat * m ≤ i ∧ i < p.toNat * m + m then onActive s h.k n (fun i => conv (arg ws 0 (i - p.toNat * m))) i
        else none) ∧
    (∀ ct zp a b,
      let cw := codeBits ct
      let z : Nat := if ct = .u4 ∧ 15 < zp.toNat then 15 else zp.toNat
      (VecReady s h.w h.d [(a, w), (b, 32)] args dst → ends (.vqnt h ct zp a b) h.w ⟨cw, codeSigned ct⟩ fun i =>
        if n ≤ i then some 0 else onActive s h.k n (fun i =>
          match ((fm.value (arg w 0 i)).mul (f32.value (arg 32 1 0))).1 with
          | .nan => z
          | .inf neg => bits cw (if neg then intMin (codeSigned ct) cw else intMax (codeSigned ct) cw)
          | .num neg m e => bits cw (satInt (codeSigned ct) cw (roundToInt rm neg m e + z)).1) i) ∧
      (VecReady s h.w h.d [(a, 8), (b, 32)] args dst → ends (.vdqnt h ct zp a b) h.w (DTy.ofTy h.t) (onActive s h.k n fun i =>
        round fm ((f32.value (arg 32 1 0)).mul (Fl.ofInt (intOf (codeSigned ct) cw (arg cw 0 i) - z))).1))) ∧
    (∀ k wd d a, VecReady s wd d [(a, 32)] args dst →
      Ends (.vexpm k wd d a) s fun t => ∃ e, VecEnds s t wd args dst ⟨32, false⟩ (onlyLane0 e) ∧ 1 ≤ e ∧
        (∀ i, i < 16 → active s k i = true → arg 32 0 i / 2 ^ 23 % 256 ≤ e) ∧
        (e = 1 ∨ ∃ i, i < 16 ∧ active s k i = true ∧ e = arg 32 0 i / 2 ^ 23 % 256)) ∧
    (∀ k wd d a b, VecReady s wd d [(a, 32), (b, 32)] args dst →
      let e (i : Nat) : Nat := max (arg 32 1 i % 256) 1
      let float (e : Nat) (v : Int) : Nat :=
        if e = 255 then f32.nanBits else (f32.finish .rne false false (.num (decide (v < 0)) v.natAbs ((e : Int) - 148))).bits
      ends (.valign k wd d .toi a b) wd ⟨32, true⟩ (onActive s k 16 fun i =>
        if e i = 255 then 0 else
          match f32.value (arg 32 0 i) with
          | .nan => 0
          | .inf neg => bits 32 (if neg then -(2 : Int) ^ 31 else (2 : Int) ^ 31 - 1)
          | .num neg m x => bits 32 (satInt true 32 (roundToInt .rne neg m (x + 148 - e i))).1) ∧
      ends (.valign k wd d .tof a b) wd ⟨32, false⟩ (onActive s k 16 fun i => float (e i) (intOf true 32 (arg 32 0 i))) ∧
      ends (.valign k wd d .tof64 a b) wd ⟨32, false⟩ fun i => if i < 8 then
        onActive s k 16 (fun i => float (e i) (intOf true 64 (arg 32 0 (2 * i + 1) * 2 ^ 32 + arg 32 0 (2 * i)))) i else none)

/-- VRED and VSCAN (R108, R391, R406), with a NaN of a lane taken as the canonical one: an integer sum of the active lanes
is exact modulo 2^32; any other reduction of no lane is the identity, of one lane that lane, and of two lanes one step on
them; a scan gives each active lane the step on the lane before. -/
def Obligations.VectorReductions : Prop :=
  ∀ (s : State) (h : VHead) (args : List VArg) (dst : VDest) (op : RedOp) (a : VSrc),
    let w := h.t.bits
    let n := h.t.lanes
    let raw (i : Nat) : Nat := laneAt w (vecArg s args 0) i
    let arg (i : Nat) : Nat :=
      if h.t.isFloat = true ∧ ((tyFmt h.t).value (raw i)).isNan = true then (tyFmt h.t).nanBits else raw i
    let on := (List.range n).filter (active s h.k)
    let step (x y : Nat) : Nat := (redStep (roundOf (s.ctx s.cur).ctl.rm) (s.ctx s.cur).ctl.satf h.t op x y).1
    let ends (i : Instr) (ty : DTy) (lane : Nat → Option Nat) : Prop :=
      Ends i s fun t => VecEnds s t h.w args dst ty lane
    let isSum : Prop := op = .add ∧ h.t.isFloat = false
    VecReady s h.w h.d [(a, w)] args dst →
    (isSum → ends (.vred h op a) ⟨32, true⟩ (onlyLane0
      (((on.map fun i => intOf h.t.isSigned w (arg i)).foldl (· + ·) 0) % (2 : Int) ^ 32).toNat)) ∧
    (¬isSum → ∃ v, ends (.vred h op a) (DTy.ofTy h.t) (onlyLane0 v) ∧ (on = [] → v = redIdentity h.t op) ∧
      (∀ i, on = [i] → v = arg i) ∧ (∀ i j, on = [i, j] → v = step (arg i) (arg j))) ∧
    (∃ r : Nat → Nat, ends (.vscan h op a) (DTy.ofTy h.t) (onActive s h.k n r) ∧
      ∀ i, i < n → active s h.k i = true →
        ((∀ j, j < i → active s h.k j = false) → r i = arg i) ∧
        (∀ j, j < i → active s h.k j = true → (∀ m, j < m → m < i → active s h.k m = false) → r i = step (r j) (arg i)))

/-- VEXP2, VLOG2, VRCP, VRSQ and VTANH (R123, R402): each completes with its function of each active lane; and the
special values of R123, in each format of Format V. -/
def Obligations.VectorSpecial : Prop :=
  (∀ (s : State) (h : VHead) (args : List VArg) (dst : VDest) (a : VSrc), VecReady s h.w h.d [(a, h.t.bits)] args dst →
    let f := tyFmt h.t
    let satf := (s.ctx s.cur).ctl.satf
    let ends (i : Instr) (g : Fl → FOut) : Prop := Ends i s fun t => VecEnds s t h.w args dst (DTy.ofTy h.t)
      (onActive s h.k h.t.lanes fun i => (g (f.value (laneAt h.t.bits (vecArg s args 0) i))).bits)
    ends (.vexp2 h a) (f.exp2 satf) ∧ ends (.vlog2 h a) (f.log2 satf) ∧ ends (.vrcp h a) (f.rcp satf) ∧
      ends (.vrsq h a) (f.rsq satf) ∧ ends (.vtanh h a) (f.tanh satf)) ∧
  ∀ (t : ETy) (satf : Bool), t.isFloat = true →
    let f := tyFmt t
    let zero (neg : Bool) : Fl := f.value (if neg then f.signBit else 0)
    let inf (neg : Bool) : Nat := (if neg then f.signBit else 0) + f.infBits
    let one (neg : Bool) : Nat := (if neg then f.signBit else 0) + f.bias * 2 ^ f.mb
    (∀ n, (f.exp2 satf (zero n)).bits = one false ∧ (f.log2 satf (zero n)).bits = inf true ∧
      (f.rcp satf (zero n)).bits = inf n ∧ (f.rcp satf (zero n)).ovf = true ∧
      (f.rsq satf (zero n)).bits = inf n ∧ (f.tanh satf (zero n)).bits = (if n then f.signBit else 0) ∧
      (f.rcp satf (.inf n)).bits = (if n then f.signBit else 0) ∧ (f.tanh satf (.inf n)).bits = one n) ∧
    (f.exp2 satf (.inf false)).bits = f.infBits ∧ (f.exp2 satf (.inf true)).bits = 0 ∧
    (f.log2 satf (.inf false)).bits = f.infBits ∧ (f.rsq satf (.inf false)).bits = 0 ∧
    (∀ x, x = .inf true ∨ (∃ m e, x = .num true m e ∧ m ≠ 0) →
      (f.log2 satf x).bits = f.nanBits ∧ (f.log2 satf x).inv = true ∧ (f.rsq satf x).bits = f.nanBits ∧ (f.rsq satf x).inv = true) ∧
    (∀ g ∈ [f.exp2, f.log2, f.rcp, f.rsq, f.tanh], (g satf .nan).bits = f.nanBits ∧ (g satf .nan).inv = false)

/-! ## Events of cores and engines -/

/-- INSTRUCTION_FETCH_RETURN, CONTEXT_WAKE, CONTEXT_OVERDUE, FORCE_OUT_BACKSTOP, ISSUE_HOLD_RELEASE and TRAP_ENTRY (R21,
R55, R57, R247): the fetched word is in the instruction cache; the woken context holds issue and its count restarts; a
context is overdue after 4,096 cycles, and after 5,120 it gives issue to another that is ready, or its count restarts; a
fence whose condition holds completes, unless it is forced out; the first waiting trap is taken, with END's address in
FREC1 while END waits (R329). The registers that instructions name, memory
and, but for a trap or a completed fence, the program counter stay. -/
def Obligations.IssueEvents : Prop :=
  ∀ (s : State) (c : CtxId), c.die < 4 → c.core < 128 → c.ctx < 4 →
    let k := c.coreId
    let steady (t : State) : Prop := SameRegs c s t ∧ t.pc c = s.pc c ∧ (t.ctx c).ctl = (s.ctx c).ctl
    (∀ a x, (s.ctx c).wait.fetch = some a → s.xlate (s.tlbOf k false) (s.worldOf k) none xFetch a = .ok x →
      s.mem.serves x.cell = true → Map.find s.mem.ecc (sectorOf x.cell) = none →
      Ends (.instructionFetchReturn c) s fun t => steady t ∧ (t.ctx c).wait.fetch = none ∧
        t.cached c a = some (BitVec.ofNat 64 (leNat ((s.fillTlb k false [(0, x)] 0x10).memBytes c.die x.atHome x.key x.cell 8))) ∧
        HomeSame s t fun b => b = x.entry.loc) ∧
    ((s.core k).holder = none → (s.ctx c).wait.park.isSome = true → s.nextReady k (s.core k).last = some c.ctx →
      Ends (.contextWake c) s fun t => steady t ∧ t.holds c = true ∧ (t.ctx c).wait.issueStart = (s.die c.die).cyc ∧
        t.mem = s.mem) ∧
    (s.holds c = true → 4096 ≤ (s.die c.die).cyc - (s.ctx c).wait.issueStart →
      Ends (.contextOverdue c) s fun t => steady t ∧ (t.ctx c).wait.overdue = true ∧ t.holds c = true ∧ t.mem = s.mem) ∧
    (s.holds c = true → 5120 ≤ (s.die c.die).cyc - (s.ctx c).wait.issueStart →
      Ends (.forceOutBackstop c) s fun t => steady t ∧ t.mem = s.mem ∧
        (s.otherReady c = true → (t.ctx c).regs.l = stale ∧
          ∃ n, n ≠ c.ctx ∧ (t.core k).holder = some n ∧ s.ready (k.ctx n) = true) ∧
        (s.otherReady c = false → t.holds c = true ∧ (t.ctx c).wait.overdue = false ∧
          (t.ctx c).wait.issueStart = (s.die c.die).cyc ∧ (t.ctx c).regs.l = (s.ctx c).regs.l)) ∧
    (∀ g sc kind, s.holds c = true → (s.ctx c).wait.hold.isSome = true → (s.ctx c).wait.fetch = none → s.running c = true →
      (s.ctx c).wait.traps = [] → s.heldInstr c = some (.fence g sc kind) → s.guardTrue c g = true →
      s.fenceReady c sc kind = true → (s.die c.die).cyc - (s.ctx c).wait.issueStart < 5120 →
      Ends (.issueHoldRelease c) s fun t => SameRegs c s t ∧ GoesOn c s t (s.pc c + 8) (s.ctx c).regs.l ∧ MemKept s t) ∧
    (∀ q rest, (s.ctx c).wait.traps = q :: rest → s.running c = true → s.trapReady c = true → (s.ctx c).wait.fetch = none →
      s.holds c = true → (s.ctx c).cap = none → (s.ctx c).ctl.frec[0].getLsbD 31 = false →
      (s.ctx c).ctl.trapv.getLsbD 0 = true →
      Ends (.trapEntry c) s fun t => (t.ctx c).ctl.s = true ∧ (t.ctx c).ctl.ps = (s.ctx c).ctl.s ∧
        (t.ctx c).ctl.frec[0].getLsbD 31 = true ∧ (t.ctx c).ctl.frec[0].toNat % 256 = q.code % 256 ∧
        (t.ctx c).ctl.frec[1] = ((s.ctx c).wait.trapPc q (s.pc c)).pc ∧ (t.ctx c).ctl.frec[2] = q.addr ∧
        (t.ctx c).ctl.frec[3] = (q.resume.getD (s.pc c)) &&& ~~~1 ∧ t.pc c = ((s.ctx c).ctl.trapv &&& ~~~7) ∧
        (t.ctx c).regs.l = stale ∧ (t.ctx c).wait.traps = rest ∧ (t.ctx c).wait.park = none ∧
        KeepsG c s t ∧ KeepsK c s t ∧ KeepsV c s t ∧ KeepsZ c s t ∧ t.mem = s.mem)

/-- The events of an engine (R93, R136, R154, R156, R168, R173, R178, R185, R309, R317, R322, R323). The shadow set becomes active; a granule of CFILL or of CPY lands whole and its full bit
is set; a token of CSTRM enters the output buffer; a steered drain takes its steer token and CSINK its data token,
and a credit returns; a passed word enters the matrix engine's shadow set or waits for it; a finished operation is
gone, and DONE rises; a failed one is gone, and FCODE and the waiting trap say so. No general, predicate or vector
register changes. A CSINK that has its maximum completes as log entry 39 says. -/
def Obligations.EngineEvents : Prop :=
  ∀ (s : State) (k : CoreId) (e : Engine), k.die < 4 → k.core < 128 →
    let kept (t : State) : Prop := ∀ c, KeepsG c s t ∧ KeepsK c s t ∧ KeepsV c s t ∧ t.pc c = s.pc c
    let stat (t : State) (c : CtxId) : EngStat := match e with
      | .me => (t.ctx c).mest
      | .ce => (t.ctx c).cest
    (∀ op, (s.eng k e).active = none → (s.eng k e).shadow = some op → s.passedWord k = none →
      s.returning k e = none →
      Ends (.engineActivate k e) s fun t => t.eng k e = ⟨none, some (s.beginOp k op)⟩ ∧ kept t ∧ t.mem = s.mem ∧
        (t.core k).scratch = (s.core k).scratch) ∧
    (∀ op, (s.eng k e).active = some op →
      let c := k.ctx op.ctx
      -- a granule of CFILL or CPY lands
      (op.failed = none → op.halted = none → op.stopRow = false → s.workDone k op = false → e = .ce →
        let lands (home : Bool) (w : Word) (h : HandleSt) (a : Nat) (bs : List Byte) (mem : MemSt) : Prop :=
          op.bound w = some h → a % 16 = 0 → Ends (.engineWriteLand k .ce home) s fun t => kept t ∧ t.mem = mem ∧
            (∀ b, Map.get (t.core k).scratch 0 b =
              if a ≤ b ∧ b < a + 16 then bs.getD (b - a) 0 else Map.get (s.core k).scratch 0 b) ∧
            (Map.find (t.core k).full (a / 16)).isSome = true ∧
            (∀ q, q ≠ a / 16 → Map.find (t.core k).full q = Map.find (s.core k).full q) ∧
            (t.core k).handles = (s.core k).handles
        (op.instr = .cfill → ∀ h, let w := op.args.getD 2 0
          let v := leBytes (op.args.headD 0).toNat 8
          lands true w h (h.addr (argRow w) (op.pos * 16)) (v ++ v) s.mem) ∧
        (∀ ch win home h u bs, op.instr = .cpy ch .none win →
          s.engRead k op home xCopyRead (rowVa op.args op.pos + BitVec.ofNat 64 op.buf.outPos) 16 = .got u bs false →
          let w := op.args.getD 3 0
          lands home w h (h.addr (argRow w + op.pos) op.buf.outPos) bs u.mem) ∧
        (∀ win home p vec, op.instr = .cstrm win → s.opOut k op (op.args.getD 2 0).toNat = .ok (p, vec) →
          min (tokenBytes vec) ((op.args.headD 0).toNat - op.pos * tokenBytes vec) ≤ op.buf.raw.length →
          (s.outPort k p).buf.length < 4 →
          Ends (.enginePortWrite k .ce home) s fun t => kept t ∧ t.mem = s.mem ∧
            (t.outPort k p).buf = (s.outPort k p).buf ++
              [⟨.data, BitVec.ofNat 512 (leNat op.buf.raw), some (s.opClock k op)⟩] ∧
            ∃ o, (t.eng k .ce).active = some o ∧ o.pos = op.pos + 1 ∧ o.buf.raw = [])) ∧
      -- tokens that operations take
      (∀ z n p vec x, e = .me → op.instr = .mdrain z (some n) → op.route = none → op.failed = none →
        s.opIn k op n.toNat = .ok (p, vec) → (s.inPort k p).head = some x → x.kind = .steer → x.val.toNat ≤ 15 →
        Ends (.mdrainSteerTake k) s fun t => kept t ∧ t.mem = s.mem ∧
          (t.inPort k p).buf = (s.inPort k p).buf.drop 1 ∧ t.net.credits.length = s.net.credits.length + 1 ∧
          ∃ o, (t.eng k .me).active = some o ∧ o.id = op.id ∧ o.route = some (s.routeOf k x.val.toNat)) ∧
      (∀ p vec x, e = .ce → op.instr = .csink → op.failed = none → op.halted = none → op.stopRow = false →
        op.buf.out = [] → s.opIn k op (op.args.getD 2 0).toNat = .ok (p, vec) →
        op.pos * tokenBytes vec + tokenBytes vec ≤ (op.args.headD 0).toNat → (s.inPort k p).head = some x → x.kind = .data →
        Ends (.csinkTokenTake k) s fun t => kept t ∧ (t.inPort k p).buf = (s.inPort k p).buf.drop 1 ∧
          t.net.credits.length = s.net.credits.length + 1) ∧
      -- how operations end
      (op.failed = none → op.halted = none → op.late = none → op.stopRow = false → s.workDone k op = true →
        s.opAcked k op = true → op.events = evNone → (∀ z f, op.instr ≠ .mma z f) → op.instr ≠ .maccld →
        Ends (.engineOpComplete k e) s fun t => kept t ∧ t.mem = s.mem ∧ (t.eng k e).active = none ∧
          (t.eng k e).shadow = (s.eng k e).shadow ∧ stat t c = { stat s c with done := (stat s c).done + 1 } ∧
          (t.ctx c).wait.traps = (s.ctx c).wait.traps ∧
          (op.instr = .mroute → Map.find (t.core k).acc.route (op.args.headD 0).toNat =
            some (op.args.getD 1 0, op.args.getD 2 0))) ∧
      (∀ code a, op.failed = some (code, a) → op.events = evNone → s.passedWord k = none →
        Ends (.engineFault k e) s fun t => kept t ∧ t.mem = s.mem ∧ (t.eng k e).active = none ∧
          stat t c = (if (stat s c).fcode = 0 then { stat s c with fcode := BitVec.ofNat 8 code.num } else stat s c) ∧
          (t.ctx c).wait.traps = (s.ctx c).wait.traps ++
            [⟨0, code.num, op.pc, a, none, false, true, none, [], .none, true⟩])) ∧
    (∀ n h, n < 4 →
      let c := k.ctx n
      (s.ctx c).held = some h → h.passed = none → h.ready = true → (s.ctx c).wait.stop ≠ .stopped →
      ((s.core k).me.shadow.isSome = true → Ends (.chainPass c) s fun t => kept t ∧ (t.ctx c).chain = (s.ctx c).chain ∧
        (t.ctx c).held = some { h with passed := some s.fresh } ∧ (t.core k).me = (s.core k).me) ∧
      ((s.core k).me.shadow = none → s.passedWord k = none → s.returning k .me = none → fmtSuits h.instr h.args ((s.core k).entry h.fmt) = true →
        Ends (.chainPass c) s fun t => kept t ∧ (t.ctx c).chain = (s.ctx c).chain ∧ (t.ctx c).held = none ∧
          ∃ op, (t.core k).me.shadow = some op ∧ op.instr = h.instr ∧ op.args = h.args ∧ op.pc = h.pc ∧ op.ctx = n))

/-- The events of circuits, packets and bridges (R151, R152, R158 to R166): a token leaves an output for the next
router or its client, and arrives there; a credit reaches its producer, or
the bridge that its stream comes in by; a token of a handle-bound port lands in its
ring once its four granules are empty; a packet beat goes on to a router with room; the outputs switch their banks;
a flit leaves, its token enters the receive buffer of its stream, and an acknowledgement frees the retry buffer. No
register of a context changes, and no byte of memory. The numbers of routers and places are those of log entry 42. -/
def Obligations.NetworkEvents : Prop :=
  ∀ (s : State) (d : Nat), d < 4 →
    let cyc := (s.die d).cyc
    let net (t : State) : DieNet := (t.die d).net
    let calm (t : State) : Prop := t.mem = s.mem ∧ ∀ c, SameRegs c s t
    (∀ m, (net s).next = some m → Ends (.slotBankSwitch d) s fun t =>
      calm t ∧ net t = { net s with act := m, next := none } ∧ t.cores = s.cores) ∧
    (∀ r o p x rest, r < 160 → o < 32 → s.slotFree d r o = true → slotV (s.slotNow d r o) = true →
      26 ≤ slotIn (s.slotNow d r o) → slotIn (s.slotNow d r o) ≤ 31 →
      s.producerOf d r (slotIn (s.slotNow d r o)) (slotCirc (s.slotNow d r o)) = some p →
      (s.outOf p).buf = x :: rest → x.kind ≠ .marker → (s.outOf p).credits ≠ 0 → s.outStands p = false →
      Ends (.tokenSlotSend d r o) s fun t => calm t ∧ (t.outOf p).buf = rest ∧ (t.outOf p).credits = (s.outOf p).credits - 1 ∧
        ∃ f, (net t).transit = (net s).transit ++ [f] ∧ f.tok = x ∧ f.launch = (s.outOf p).launch ∧
          f.circ = slotCirc (s.slotNow d r o) ∧ f.here = false ∧
          (o < 16 → f.router = r / 16 * 16 + o ∧ f.inp = r % 16 ∧ f.ready = cyc + 4 ∧ f.out = none) ∧
          (16 ≤ o → o < 26 → f.router = (o - 16) * 16 + r % 16 ∧ f.inp = 16 + r / 16 ∧ f.ready = cyc + 4 ∧ f.out = none) ∧
          (26 ≤ o → f.out = some o)) ∧
    (∀ r inp circ f, r < 160 →
      ((net s).transit.find? fun f => !f.here && f.router == r && f.inp == inp && f.circ == circ) = some f → f.ready ≤ cyc →
      (f.out = none → Ends (.tokenArrive d r inp circ) s fun t => calm t ∧ t.cores = s.cores ∧
        (net t).transit = (net s).transit.map fun g => if g = f then { g with here := true } else g) ∧
      (∀ o p, f.out = some o → s.consumerOf d r o circ = some p → (s.inOf p).launch = f.launch →
        Ends (.tokenArrive d r inp circ) s fun t => calm t ∧ (net t).transit = (net s).transit.erase f ∧
          (f.tok.kind ≠ .marker → (t.inOf p).buf = (s.inOf p).buf ++ [f.tok]) ∧
          (f.tok.kind = .marker → (t.inOf p).marker = true ∧ (t.inOf p).buf = (s.inOf p).buf))) ∧
    (∀ n c, s.net.credits[n]? = some c →
      let from' := s.traceBack c.ref.die c.ref.place.1 c.ref.place.2 c.circ 24
      (∀ p, from' = some (.inl p) → (s.outOf p).launch = c.launch →
        Ends (.creditReturn n) s fun t => calm t ∧ (t.outOf p).credits = (s.outOf p).credits + 1 ∧
          t.net.credits = s.net.credits.eraseIdx n) ∧
      (∀ key q, from' = some (.inr key) → Map.find (s.die c.ref.die).net.rx key = some q →
        Ends (.creditReturn n) s fun t => calm t ∧ t.net.credits = s.net.credits.eraseIdx n ∧
          ∃ e, (t.link c.ref.die (key / 65536)).queue = (s.link c.ref.die (key / 65536)).queue ++ [e] ∧
            tagField e.tag 26 3 = 3 ∧ tagField e.tag 0 16 = key % 65536 ∧ tagField e.tag 32 16 = 1)) ∧
    (∀ (c : CtxId) port u n row0 p v x h, c.die = d → c.core < 128 → c.ctx < 4 → (s.ctx c).unit = some u →
      Map.find u.rings port = some (n, row0) → Map.find u.ports port = some (p, v) →
      (s.inPort c.coreId p).head = some x → x.kind = .data → Map.find (s.core c.coreId).handles n = some h →
      let a := h.addr row0 0 + 64 * (s.inPort c.coreId p).ring % ((h.rows - row0) * h.rowBytes)
      let gs := (List.range 4).map fun i => a / 16 + i
      (s.core c.coreId).fullAre gs false = true →
      Ends (.handlePortToken c port) s fun t => calm t ∧ (t.inPort c.coreId p).buf = (s.inPort c.coreId p).buf.drop 1 ∧
        (t.inPort c.coreId p).ring = (s.inPort c.coreId p).ring + 1 ∧ t.net.credits.length = s.net.credits.length + 1 ∧
        (t.core c.coreId).fullAre gs true = true ∧
        ∀ b, Map.get (t.core c.coreId).scratch 0 b =
          if a ≤ b ∧ b < a + 64 then (leBytes x.val.toNat 64).getD (b - a) 0 else Map.get (s.core c.coreId).scratch 0 b) ∧
    (∀ r o b, r < 160 → o < 26 → s.slotFree d r o = true → s.pickBeat d r o = some b → (net s).feed = [] →
      let nxt := if o < 16 then r / 16 * 16 + o else (o - 16) * 16 + r % 16
      let inp := if o < 16 then r % 16 else 16 + r / 16
      Ends (.packetBeatSend d r o) s fun t => calm t ∧ t.cores = s.cores ∧
        (net t).beats = (net s).beats.erase b ++ [{ b with router := nxt, inp := inp, ready := cyc + 4 }]) ∧
    (∀ node es q tx, node < 3 → (s.link d node).width d node ≠ 0 → (s.link d node).failed = false →
      (s.link d node).retry.length < 256 → packFlit node [] 240 (net s).tx (s.link d node).queue = (es, q, tx) → es ≠ [] →
      Ends (.bridgeFlitSend d node) s fun t => calm t ∧ t.cores = s.cores ∧ (net t).tx = tx ∧
        let l := s.link d node
        let f : Flit := ⟨l.seq, padFlit es⟩
        t.link d node = { l with queue := q, seq := l.seq + 1, wire := l.wire ++ [f], retry := l.retry ++ [f] }) ∧
    (∀ node e m f rest x q, node < 2 → peerOf d node = some (e, m) →
      (s.link d node).failed = false → (s.link e m).wire = f :: rest → f.seq = (s.link d node).expect →
      (s.link d node).taken = 0 → f.entries = [x] → tagBad x.tag = false → (tagField x.tag 26 3 = 1 ∨ tagField x.tag 26 3 = 2) →
      Map.find (net s).rx (node * 65536 + tagField x.tag 0 16) = some q → q.fwd = none → tagField x.tag 29 3 = q.world % 8 →
      tagKind x.tag ≠ .marker →
      Ends (.bridgeFlitReceive d node (.wire true)) s fun t => calm t ∧ t.cores = s.cores ∧
        (t.link e m).wire = rest ∧ (t.link d node).expect = (s.link d node).expect + 1 ∧
        Map.find (net t).rx (node * 65536 + tagField x.tag 0 16) =
          some { q with buf := q.buf ++ [⟨tagKind x.tag, x.val, x.clock⟩] }) ∧
    (∀ node e m, node < 3 → peerOf d node = some (e, m) → Ends (.bridgeFlitAck d node) s fun t =>
      calm t ∧ t.cores = s.cores ∧
      (t.link d node).retry = (s.link d node).retry.filter fun f => (s.link e m).expect ≤ f.seq)

/-- Live service and power (R11, R16, R30 to R34): a lane in error is replaced by a spare, which retrains, and with none
left the lane is lost and the loss is reported; one lane of a link at a time; a channel pauses, one of a stack at once, and serves again; a channel is retired; a core with no
unit gives its logical number to the spare of its group, zeroed, or is retired when the spare is used. An operation
on a part under service, or under the ROM scheduler, is refused with busy. The clock steps by 50 MHz against the cap
of R16. No register of a context and no byte of memory changes. The moments of these events are those of log entries
78 to 80. -/
def Obligations.ServiceEvents : Prop :=
  ∀ s : State,
    let calm (t : State) : Prop := (∀ a, t.homeByte a = s.homeByte a) ∧ ∀ c, SameRegs c s t
    (∀ d node lane, nodeOk d node = true → lane < laneCount d node →
      let l := s.link d node
      (l.retrain = none → l.spared.length < spareLanes d node → Ends (.laneSpare d node lane) s fun t => calm t ∧
        t.link d node = { l with spared := l.spared ++ [lane], retrain := some lane } ∧ t.dies = s.dies) ∧
      (l.retrain = none → spareLanes d node ≤ l.spared.length → Ends (.laneSpare d node lane) s fun t => calm t ∧
        t.link d node = { l with lost := if lane ∈ l.lost then l.lost else l.lost ++ [lane] } ∧
        (d < 4 → (t.die d).notices = (s.die d).notices ++ [.laneLoss node]) ∧
        (d = 4 → ∀ e, e < 4 → (t.die e).notices = (s.die e).notices ++ [.laneLoss (256 + node)])) ∧
      (l.retrain ≠ none → Ends (.laneSpare d node lane) s fun t => calm t ∧ t.link d node = l ∧
        (t.die (serviceDie d)).notices = (s.die (serviceDie d)).notices ++ [.busy])) ∧
    (∀ c, c < 256 →
      let fw := c % 8 / 2
      let refused (i : Instr) : Prop := Ends i s fun t => calm t ∧ t.mem = s.mem ∧
        (t.die fw).notices = (s.die fw).notices ++ [.busy]
      ((s.die fw).sched.rom = false → (∀ x ∈ s.mem.paused, x % 8 ≠ c % 8) → Ends (.phyRecalibration c) s fun t => calm t ∧
        t.mem = { s.mem with paused := s.mem.paused ++ [c] } ∧ t.dies = s.dies) ∧
      ((∃ x ∈ s.mem.paused, x % 8 = c % 8) → refused (.phyRecalibration c)) ∧
      (Ends (.phyRecalDone c) s fun t => calm t ∧ (∀ x, x ∈ t.mem.paused ↔ x ∈ s.mem.paused ∧ x ≠ c) ∧ t.dies = s.dies) ∧
      ((s.die fw).sched.rom = false → c ∉ s.mem.paused → c ∉ s.mem.retired → Ends (.hbmChannelRetire c) s fun t => calm t ∧
        t.mem = { s.mem with retired := s.mem.retired ++ [c] } ∧ t.dies = s.dies) ∧
      (c ∈ s.mem.paused ∨ c ∈ s.mem.retired → refused (.hbmChannelRetire c))) ∧
    (∀ d n, d < 4 → n < 128 →
      let k : CoreId := ⟨d, n⟩
      ((s.core k).remap = false → (s.die d).sched.rom = true ∨ (s.part d n).busy = true →
        Ends (.spareCoreRemap d n) s fun t => calm t ∧ t.cores = s.cores ∧
          (t.die d).notices = (s.die d).notices ++ [.busy] ∧ (t.die d).spare = (s.die d).spare) ∧
      ((s.core k).remap = true ∨
          ((s.die d).sched.rom = false ∧ (s.part d n).busy = false ∧ s.partUsed d n = false) → Ends (.spareCoreRemap d n) s fun t => calm t ∧ (t.core k).remap = false ∧
        (t.core k).scratch = [] ∧ (t.core k).handles = [] ∧ (t.core k).rxbuf = (s.core k).rxbuf ∧
        (s.spareUsed d (n / 16) = false → t.physOf d n = 128 + n / 16 ∧ (t.die d).retired = (s.die d).retired) ∧
        (s.spareUsed d (n / 16) = true → n ∈ (t.die d).retired ∧ (t.die d).spare = (s.die d).spare))) ∧
    (∀ w, Ends (.powerWindow w) s fun t =>
      t = { s with dev := { s.dev with power := t.dev.power, clock := t.dev.clock } } ∧ t.dev.power = w % 65536 ∧
      (s.dev.pwrcap < w → t.dev.clock = max 800 (s.dev.clock - 50)) ∧
      (w * 100 < s.dev.pwrcap * 95 → t.dev.clock = min 1600 (s.dev.clock + 50)) ∧
      (s.dev.pwrcap * 95 ≤ w * 100 → w ≤ s.dev.pwrcap → t.dev.clock = s.dev.clock)) ∧
    (∀ v : BitVec 32, Ends (.pwrcapWrite v) s fun t =>
      t = { s with dev := { s.dev with pwrcap := max 600 (min 2400 (v.toNat % 65536)) } })

/-- The region manager (R204, R212 to R218): a request that is next for a region of its world ends with its status,
or begins. STATUS ends at once; RESUME raises ready; CLOCK sets the clock up to CLKMAX; QUIESCE and SWAP quiesce the
region; LOAD checks the header, the geometry and the signature before its chunks stream, each against its hash, and
the last makes the plane valid. An idle region exchanges its planes for a SWAP; a timeout ends a request with code
10. The codes of refusals that R214 to R218 leave open are those of log entry 59. -/
def Obligations.RegionManager : Prop :=
  ∀ (s : State) (d : Nat), d < 4 →
    let statusOf (t : State) (src tag e n code : Nat) : Prop := (t.region e n).job = none ∧
      (t.die src).rm.status = (s.die src).rm.status.map fun p =>
        if p.1 = tag then (p.1, p.2.1, (t.region e n).word code 0) else p
    (∀ tag q r, s.rmNext d tag = some (q, r) → rmRecordOk r = true → tag ≠ 0 →
      let op := field512 r 0 1
      let e := field512 r 1 1
      let n := field512 r 2 1
      let a := s.region e n
      let s' := s.rmPop d tag
      a.job = none → (s.part e (128 + n)).v = true → (s.part e (128 + n)).world = q.world →
      128 + n ∉ (s.die e).retired → (s.part e (128 + n)).busy = false →
      let done (i : Instr) (p : RegionSt → Prop) : Prop := Ends i s fun t =>
        statusOf t d tag e n 1 ∧ (∀ y ∈ (t.die d).rm.queue, y.tag ≠ tag) ∧ p (t.region e n) ∧ t.mem = s.mem
      let begins (i : Instr) (p : RegionSt → Prop) : Prop := Ends i s fun t =>
        (∀ y ∈ (t.die d).rm.queue, y.tag ≠ tag) ∧ t.mem = s.mem ∧ p (t.region e n) ∧
        ∃ j, (t.region e n).job = some j ∧ j.die = d ∧ j.tag = tag ∧ j.op = op ∧ j.since = (s.die e).cyc ∧
          j.timeout = field512 r 20 4
      (op = 6 → done (.rmStatus d tag) fun b => b = a) ∧
      (op = 4 → done (.rmResume d tag) fun b => a.cut = false → b.quiet = false ∧ b.active = a.active) ∧
      (op = 5 → (∀ p, a.active = some p → field512 r 16 4 ≤ p.clkmax) →
        done (.rmClock d tag) fun b => b.mhz = field512 r 16 4 ∧ b.active = a.active ∧ b.quiet = a.quiet) ∧
      (op = 3 → begins (.rmQuiesce d tag) fun b => b.quiet = true ∧ b.active = a.active ∧ b.shadow = a.shadow) ∧
      (op = 2 → (∃ p, a.shadow = some p ∧ (field512 r 16 4 = 0 ∨ field512 r 16 4 ≤ p.clkmax)) →
        begins (.rmSwap d tag) fun b => b.quiet = true ∧ b.active = a.active ∧ b.shadow = a.shadow) ∧
      (∀ h all, op = 1 → (s.die e).sched.rom = false →
        let va := BitVec.ofNat 64 (field512 r 8 8)
        let k := leAt h 11 1
        s'.hwRead e q.world va 64 = some h → s'.hwRead e q.world va (64 + 32 * k + 384) = some all → headerOk h = true →
        leAt h 8 2 = regionGeom n →
        let signed := imageSigned q.world (leAt h 18 1) (shaOf (all.take (64 + 32 * k))) (all.drop (64 + 32 * k))
        Ends (.rmLoad d tag) s fun t => (∀ y ∈ (t.die d).rm.queue, y.tag ≠ tag) ∧ t.mem = s.mem ∧
          (t.region e n).shadow = none ∧ (t.region e n).active = a.active ∧
          (signed = false → statusOf t d tag e n 6) ∧
          (signed = true → ∃ j, (t.region e n).job = some j ∧ j.die = d ∧ j.tag = tag ∧ j.op = 1 ∧ j.chunk = 0 ∧
            j.hashes = hashList (all.drop 64) k ∧ j.last = leAt h 12 4))) ∧
    (∀ n, n < 32 →
      let a := s.region d n
      (∀ j bs, a.job = some j → j.op = 1 →
        let k := j.hashes.length
        let last := j.chunk + 1 = k
        s.hwRead d j.world (j.va + BitVec.ofNat 64 (64 + 32 * k + 384 + 65536 * j.chunk)) (if last then j.last else 65536) = some bs →
        j.hashes[j.chunk]? = some (shaOf bs) →
        (¬last → j.chunk + 1 < k → Ends (.rmLoadChunk d n) s fun t => t.mem = s.mem ∧
          t.region d n = { a with job := some { j with chunk := j.chunk + 1 } }) ∧
        (last → j.tag ≠ 0 → Ends (.rmLoadChunk d n) s fun t => t.mem = s.mem ∧ (t.region d n).shadow = j.plane ∧
          (t.region d n).active = a.active ∧ statusOf t j.die j.tag d n 1)) ∧
      (∀ j, a.job = some j → j.op = 2 → j.tag ≠ 0 → a.quiet = true → a.stands (s.die d).cyc = false → a.cut = false →
        j.expired (s.die d).cyc = false → a.newClass = false → Ends (.regionIdle d n) s fun t => t.mem = s.mem ∧ (a.opIdle = false → t = s) ∧
          (a.opIdle = true → (t.region d n).active = a.shadow ∧ (t.region d n).shadow = a.active ∧
            (t.region d n).hist = [] ∧ (t.region d n).quiet = false ∧ statusOf t j.die j.tag d n 1)) ∧
      (∀ j, a.job = some j → j.op = 2 ∨ j.op = 3 → j.tag ≠ 0 → j.timeout ≠ 0 → j.since + j.timeout ≤ (s.die d).cyc →
        Ends (.rmTimeout d n) s fun t => t.mem = s.mem ∧ statusOf t j.die j.tag d n 10 ∧ (t.region d n).active = a.active ∧
          (t.region d n).quiet = (if j.was ∨ a.cut then a.quiet else false)) ∧
      Ends (.regionClockSettle d n) s fun t => t.mem = s.mem ∧ t.region d n = { a with settle := none })

/-- The tokens of a region (R206, R208): a token that the operator is ready for enters it and leaves the input, an
EOS is recorded; the operator's next token leaves by its output port with the region's clock; a FIFO node keeps the
token that enters it. No register of a context and no byte of memory changes. What the operator accepts and sends is
free (log entry 56), and so is the tag of a value (log entry 134). -/
def Obligations.RegionTokens : Prop :=
  ∀ (s : State) (d n port : Nat), d < 4 → n < 32 →
    let a := s.region d n
    let calm (t : State) : Prop := t.mem = s.mem ∧ ∀ c, SameRegs c s t
    (∀ p q x, a.active = some p → a.works (s.die d).cyc = true → a.quiet = false → port ∉ a.eosIn → a.ins.getD port .none = .port q →
      (s.inOf (.region d n q)).buf.head? = some x → x.kind ≠ .marker →
      Ends (.regionTokenAccept d n port) s fun t => calm t ∧ (Config.opReady p.digest a.hist (a.arrivals p) port = false → t = s) ∧
       (Config.opReady p.digest a.hist (a.arrivals p) port = true →
        (t.region d n).hist = a.hist ++ [.input port x.kind x.val (Config.valueTag s.fresh)] ∧
        (t.region d n).times = a.times ++ [(s.die d).cyc] ∧ (t.region d n).active = a.active ∧
        (t.region d n).eosIn = a.eosIn ++ (if x.kind = .eos then [port] else []) ∧
        (t.inOf (.region d n q)).buf = (s.inOf (.region d n q)).buf.drop 1 ∧
        t.net.credits.length = s.net.credits.length + 1)) ∧
    (∀ p, a.active = some p → a.works (s.die d).cyc = true → Ends (.regionTokenEmit d n) s fun t => calm t ∧
      match (Config.opOutputs p.digest a.hist (a.arrivals p))[a.emitted]? with
      | none => t = s
      | some (out, kind, v, _) => ∀ q, a.outs.getD out .none = .port q →
        (4 ≤ (s.outOf (.region d n q)).buf.length → t = s) ∧
        ((s.outOf (.region d n q)).buf.length < 4 → (t.region d n).emitted = a.emitted + 1 ∧ (t.region d n).hist = a.hist ∧
          (kind ≠ .marker → out ∉ a.eosOut →
            (t.region d n).eosOut = a.eosOut ++ (if kind = .eos then [out] else []) ∧
            (t.outOf (.region d n q)).buf = (s.outOf (.region d n q)).buf ++ [⟨kind, v, some a.clock⟩]) ∧
          (kind ≠ .marker → out ∈ a.eosOut → t.outOf (.region d n q) = s.outOf (.region d n q) ∧
            (t.die d).notices = (s.die d).notices ++ [.report .streamProto (512 + n)]))) ∧
    (∀ node m q x, (a.mtiles.find? fun m => m.unit == node) = some m →
      a.stands (s.die d).cyc = false → a.run = true → a.quiet = false → m.role = 2 →
      m.dst = .none → m.src = .port q → (s.inOf (.region d n q)).buf.head? = some x → m.eosIn = false →
      m.buf.length < 256 * m.tiles.length →
      Ends (.mtileToken d n node) s fun t => calm t ∧
        (t.inOf (.region d n q)).buf = (s.inOf (.region d n q)).buf.drop 1 ∧ (t.region d n).hist = a.hist ∧
        ∃ y ∈ (t.region d n).mtiles, y.unit = node ∧ y.buf = m.buf ++ [x] ∧ y.eosIn = (x.kind == .eos))

/-- The events of capsules outside a context (R50, R197, R222, R226 to R230, R308): the readout puts the held capsule into
the network with its data and beats; one that another package sends comes in by the I/O die's bridge, and only one of no
launch of this package or of one with a capsule away; a router sends one whose place is retired on to its sink or fault place, with the
redirected flag, or discards it; one that has arrived takes a free receive buffer, or waits; after 4,096 cycles one
that waits is written to the spill area of its world, and leaves the router when that write is acknowledged, or waits on when it met a fault; a spilled
one comes back with the bytes of its slot when a buffer is free; a sink writes data, header and counter in that order
and frees the buffer, and forgets a header whose write is acknowledged. -/
def Obligations.CapsuleEvents : Prop :=
  ∀ s : State,
    let left (f : CapFlight) : List CapFlight := s.net.flights.filter fun g => g.cap.id ≠ f.cap.id
    let sentBut (t : State) (c : CtxId) (id : Nat) : Prop := (t.ctx c).sent = (s.ctx c).sent.filter fun n => n ≠ id
    (∀ (c : CtxId) k d, c.die < 4 → c.core < 128 → c.ctx < 4 → (s.ctx c).cap = some k → k.sending = some d →
      ((s.core c.coreId).ops.any fun op => d.ops.contains op.id) = false →
      Ends (.capsuleReadoutEnd c) s fun t => t.mem = s.mem ∧ t.cores = s.cores ∧ t.ctx c = { s.ctx c with cap := none } ∧
        (t.die c.die).net.beats.length + (t.die c.die).net.feed.length =
          (s.die c.die).net.beats.length + (s.die c.die).net.feed.length + capBeats k.hdr ∧
        ∃ f, t.net.flights = s.net.flights ++ [f] ∧ f.cap.hdr = k.hdr ∧ f.cap.id = d.id ∧ f.cap.launch = k.launch ∧
          f.cap.data = (s.core c.coreId).scratchBytes (capBase c.ctx) (capSize k.hdr) ∧ f.place = d.place ∧
          f.cap.role = d.role ∧ f.sender = c ∧ f.left = capBeats k.hdr ∧ f.waiting = false) ∧
    (∀ n (f : CapFlight), s.net.flights[n]? = some f → f.escaping = none → s.retiredFor f.cap f.cap.role f.place = true →
      (∀ role p, (s.dropFlight f).redirect f.cap = some (role, p) → Ends (.capsuleRouterCheck n) s fun t =>
        t.mem = s.mem ∧ t.ctxs = s.ctxs ∧ t.work = s.work ∧ ∃ g, t.net.flights = left f ++ [g] ∧ g.place = p ∧
          g.cap = { f.cap with hdr := capRedirected f.cap.hdr, role := role, sink := none, taken := none } ∧
          g.sender = f.sender ∧ g.waiting = false ∧ g.escaping = none) ∧
      ((s.dropFlight f).redirect f.cap = none → Ends (.capsuleRouterCheck n) s fun t =>
        t.net.flights = left f ∧ sentBut t f.sender f.cap.id ∧ t.cores = s.cores)) ∧
    (∀ n (f : CapFlight), s.net.flights[n]? = some f → placePkg f.place = s.pkg → f.left = 0 → f.escaping = none →
      s.retiredFor f.cap f.cap.role f.place = false →
      let k : CoreId := { die := placeDie f.place, core := placeCore f.place }
      (s.bufferFree k = true → s.spillWaits k = false → Ends (.capsuleArrive (.flight n)) s fun t =>
        t.mem = s.mem ∧ t.net.flights = left f ∧ sentBut t f.sender f.cap.id ∧
        ∃ x, (t.core k).rxbuf = (s.core k).rxbuf ++ [x] ∧ { x with sink := f.cap.sink } = { f.cap with taken := none } ∧
          (f.cap.role = .hop → x.sink = none) ∧
          (f.cap.role ≠ .hop → x.sink = s.sinkOn k.die k.core (hdrByte f.cap.hdr 7) f.cap.launch)) ∧
      ((s.bufferFree k && !s.spillWaits k) = false → f.waiting = false → Ends (.capsuleArrive (.flight n)) s fun t =>
        t.net.flights = (s.net.flights.map fun g =>
          if g.cap.id = f.cap.id then { g with waiting := true, since := (s.die k.die).cyc } else g) ∧
        t = { s with net := t.net })) ∧
    (∀ p hdr data launch, placePkg p = s.pkg → data.length = capSize hdr →
      let l := s.link 4 (32 + placeDie p)
      let w := hdrByte hdr 7
      (launch = 0 ∨ (s.takeAway w launch).isSome = true → Ends (.capsuleArrive (.outside p hdr data launch)) s fun t =>
        t.mem = s.mem ∧ t.cores = s.cores ∧ t.ctxs = s.ctxs ∧ t.work = s.work ∧
        (∃ es, t.link 4 (32 + placeDie p) = { l with queue := l.queue ++ es } ∧ es.length = capBeats hdr ∧
          ∀ y ∈ es, ∃ b, y.beat = some b ∧ b.cap = s.fresh ∧ b.world = w ∧ b.place = p) ∧
        (t.net.away.length + if launch = 0 then 0 else 1) = s.net.away.length ∧
        ∃ f, t.net.flights = s.net.flights ++ [f] ∧ f.cap.hdr = hdr ∧ f.cap.data = data ∧ f.cap.launch = launch ∧
          f.cap.id = s.fresh ∧ f.cap.role = outsideRole hdr p ∧ f.cap.clock = Stamp.zero ∧ f.place = p ∧
          f.left = capBeats hdr ∧ f.waiting = false) ∧
      (launch ≠ 0 → s.takeAway w launch = none → Ends (.capsuleArrive (.outside p hdr data launch)) s fun t => t = s)) ∧
    (∀ n (f : CapFlight) xs, s.net.flights[n]? = some f → f.waiting = true → f.escaping = none →
      let d := placeDie f.place
      let w := hdrByte f.cap.hdr 7
      let a := s.spillOf d w
      let bs := capBytes f.cap.hdr f.cap.data
      let va := slotAddr a.base a.head
      (s.core { die := d, core := placeCore f.place }).remap = false → f.since + 4096 ≤ (s.die d).cyc → a.room = true → s.spilling d w = false →
      s.xlatePages w xWrite va bs.length = .ok xs → Ends (.capsuleEscape n) s fun t =>
        ((t.net.flights.map fun g => { g with spoiled := false }) = s.net.flights.map fun g =>
          { g with escaping := if g.cap.id = f.cap.id then some s.fresh else g.escaping, spoiled := false }) ∧
        t.cores = s.cores ∧ t.ctxs = s.ctxs ∧
        ∃ x, t.onWay = s.onWay ++ [x] ∧ x.id = s.fresh ∧ x.src = .mgmt d ∧ x.va = va ∧ x.causal = true ∧
          (x.parts.map fun p => (p.pa, p.key)) = ((runParts xs va bs).map fun p => (p.pa, p.key)) ∧
          (s.mem.ecc = [] → (x.parts.map fun p => p.data) = (runParts xs va bs).map fun p => p.data)) ∧
    (∀ n (f : CapFlight) id, s.net.flights[n]? = some f → f.escaping = some id → f.spoiled = true →
      Ends (.capsuleSpillDone n) s fun t => t.mem = s.mem ∧ t.cores = s.cores ∧ t.ctxs = s.ctxs ∧
        (t.net.flights = s.net.flights.map fun g =>
          if g.cap.id = f.cap.id then { g with escaping := none, spoiled := false } else g) ∧
        ∀ d w, t.spillOf d w = s.spillOf d w) ∧
    (∀ n (f : CapFlight) id, s.net.flights[n]? = some f → f.escaping = some id → f.spoiled = false → s.isAcked id = true →
      let d := placeDie f.place
      let w := hdrByte f.cap.hdr 7
      Ends (.capsuleSpillDone n) s fun t => t.mem = s.mem ∧ t.net.flights = left f ∧ t.ctxs = s.ctxs ∧
        t.spillOf d w = { s.spillOf d w with
          head := ((s.spillOf d w).head + 1) % (s.spillOf d w).slots,
          caps := (s.spillOf d w).caps ++ [{ slot := (s.spillOf d w).head, cap := f.cap, place := f.place,
                                             sender := f.sender, write := id, gone := false }] }) ∧
    (∀ d w e rest xs, d < 4 → (s.spillOf d w).caps = e :: rest → s.isApplied d e.write = true →
      let k : CoreId := { die := d, core := placeCore e.place }
      s.retiredFor e.cap e.cap.role e.place = false → s.bufferFree k = true →
      let va := slotAddr (s.spillOf d w).base e.slot
      s.xlatePages w xRead va (64 + e.cap.data.length) = .ok xs → Ends (.capsuleUnspill d w) s fun t =>
        let bs := s.readPages d xs va (64 + e.cap.data.length)
        t.spillOf d w = (s.spillOf d w).pop ∧ sentBut t e.sender e.cap.id ∧ t.net = s.net ∧
        ∃ x, (t.core k).rxbuf = (s.core k).rxbuf ++ [x] ∧ x.hdr = BitVec.ofNat 512 (leNat (bs.take 64)) ∧
          x.data = bs.drop 64 ∧ x.id = e.cap.id ∧ x.role = e.cap.role ∧ x.taken = none) ∧
    (∀ d slot x k i1 i2 i3 s1 s2 s3, d < 4 → slot < 512 → (s.slot d slot).sink = some x → x.failed = false →
      s.sinkHead d slot = some k →
      let core : CoreId := { die := d, core := slot / 4 }
      let u := s.freeBuffer core k.id
      let va := slotAddr (x.base + 64) (x.count % x.slots)
      u.sinkPut d slot x.world (va + 64) k.data false [] = .ok (s1, i1) →
      s1.sinkPut d slot x.world va (leBytes k.hdr.toNat 64) false [i1] = .ok (s2, i2) →
      s2.sinkPut d slot x.world x.base (List.replicate 8 0) true [i2] = .ok (s3, i3) → Ends (.capsinkDeliver d slot) s fun t =>
        ((t.core core).rxbuf = (s.core core).rxbuf.filter fun y => y.id ≠ k.id) ∧ t.net = s.net ∧
        (t.mem.writes.map fun w => (w.id, w.va, w.after)) = (s.mem.writes.map fun w => (w.id, w.va, w.after)) ++
          [(s.fresh, va + 64, []), (s.fresh + 1, va, [s.fresh]), (s.fresh + 2, x.base, [s.fresh + 1])] ∧
        ∃ y, (t.slot d slot).sink = some y ∧ y.count = x.count + 1 ∧ y.pending = x.pending + 3 ∧
          y.hdrs = x.hdrs ++ [(s.fresh + 1, k.launch)]) ∧
    (∀ d slot x id launch rest, d < 4 → slot < 512 → (s.slot d slot).sink = some x → x.hdrs = (id, launch) :: rest →
      s.isAcked id = true → Ends (.capsinkHeaderAck d slot) s fun t => t.cores = s.cores ∧ t.ctxs = s.ctxs ∧
        t.net = s.net ∧ (t.slot d slot).sink = some { x with hdrs := rest })

/-- Submissions (R35, R36, R37, R51 to R53, R232 to R236): the host moves an index at STAGE 7; a full ring gives up
what it held back; an entry is taken from the queue whose turn it is or from the records of SUBMIT, and one that
breaks the table is refused with STATUS 3; a job, a phase, a graph and launches are made with the counters of the
objects above them raised; a launch without a valid placement has faulted with STATUS 4; a cancelled object has that
status. The entry that answers a refused record, and the placement that is handed in, are log entries 50 and 52. -/
def Obligations.SubmissionEvents : Prop :=
  ∀ s : State,
    (∀ n v, n < 64 → s.dev.stage = 7 → v.toNat < (s.queue n).sqr + (s.queue n).sqSize →
      s.hostSettled = true → Ends (.sqwidxWrite n v) s fun t => t = { s with work := t.work } ∧ t.work.objs = s.work.objs ∧
        t.queue n = { s.queue n with sqw := v.toNat % (s.queue n).sqSize } ∧ ∀ m, m ≠ n → t.queue m = s.queue m) ∧
    (∀ n v, n < 64 →
      let q : QueueSt := (s.queue n).readTo v.toNat
      let w := (q.cqw + 1) % q.cqSize
      (q.held = [] ∨ q.room = false → Ends (.cqridxWrite n v) s (Settles fun u => u.queue n = q ∧ u.mem = s.mem)) ∧
      (∀ e, q.held = [e] → q.room = true → Ends (.cqridxWrite n v) s (Settles fun u =>
        u.getHost (q.cqbase.toNat + 32 * q.cqw) 32 = e.bytes q.phase ∧
          u.queue n = { q with held := [], cqw := w, unread := q.unread + 1, phase := if w = 0 then !q.phase else q.phase }))) ∧
    (∀ src t u, s.takeEntry src = some (t, u) →
      let e := t.entry
      let good := sqOk t.bytes && decide (e.prio ≤ t.prio)
      let answer (status id : Nat) : CqEntry := { tag := t.tag, id := id, level := 5, status := status, fcode := 0, detail := 0 }
      (good = false → e.op = 2 → Ends (.sqJobClose src) s (Settles fun v => Posted t.queue (answer 3 0) u v ∧
        v.work.objs = u.work.objs)) ∧
      (good = true → e.op = 1 → t.ujob = none → ∀ id, u.idFree t.world id = true → Ends (.sqJobOpen src id) s (Settles fun v =>
        v.obj t.world .job id = some (newObj t .job id 0) ∧ Posted t.queue (answer 0 id) u v ∧ v.ctxs = s.ctxs)) ∧
      (good = true → e.op = 2 → t.ujob = none → ∀ j, u.liveObj t.world .job e.job = some j → j.closed = false →
        Ends (.sqJobClose src) s (Settles fun v => v.obj t.world .job j.id = some { j with closed := true })) ∧
      (good = true → e.op = 3 → ∀ j id, u.liveObj t.world .job e.job = some j → j.closed = false → t.mine j.id = true →
        (e.phase = 0 ∨ ∃ p, u.obj t.world .phase e.phase = some p ∧ p.parent = j.id) → u.idFree t.world id = true → id ≠ j.id →
        Ends (.sqPhase src id) s (Settles fun v => Posted t.queue (answer 0 id) u v ∧
          v.obj t.world .job j.id = some { j with counter := j.counter + 1, opened := true } ∧
          v.obj t.world .phase id = some { newObj t .phase id j.id with pred := match u.obj t.world .phase e.phase with
            | some p => if p.posted || u.isOver p then 0 else e.phase
            | none => 0 })) ∧
      (good = true → e.op = 4 → ∀ p id, u.liveObj t.world .phase e.phase = some p → p.parent = e.job → t.mine p.parent = true →
        (u.die t.die).sched.rom = false → (u.binaryAt t.homeDie t.world e.va).isSome = true → u.idFree t.world id = true →
        Ends (.sqGraph src id) s (Settles fun v => Posted t.queue (answer 0 id) u v ∧
          v.obj t.world .graph id = some (newObj t .graph id p.id))) ∧
      ((∀ world launch, src ≠ .remap world launch) → good = true → e.op = 5 → e.count = 1 →
        ∀ g id p, u.liveObj t.world .graph e.graph = some g → g.parent = e.phase → u.jobOf g = e.job → t.mine e.job = true →
        u.idFree t.world id = true → id ≠ g.id → Ends (.sqLaunch src [id] p) s (Settles fun v =>
          v.obj t.world .graph g.id = some { g with counter := g.counter + 1, opened := true } ∧
          ∃ o, v.obj t.world .launch id = some o ∧ o.parent = g.id ∧ o.counter = o.units.length ∧
            ((o.placing.isSome = true ∧ o.status = .running) ∨
              (o.placing = none ∧ o.units = [] ∧ o.status = .faulted ∧ o.report.status = 4)))) ∧
      (good = true → e.op = 6 → ∀ l o, Machine.levelOf e.level = some l → u.obj t.world l e.graph = some o →
        t.mine (u.jobOf o) = true → o.status = .running → u.isOver o = false → Ends (.sqCancel src) s fun v =>
          (v.obj t.world l o.id).map (fun x => x.status) = some .cancelled)) ∧
    (∀ world launch p o g gi q, s.liveObj world .launch launch = some o → o.placing = none → o.started = none →
      s.obj world .graph o.parent = some g → s.graphAt o.home world g.va = some gi → (s.mapLaunch false o.home world gi p).2 = some q →
      Ends (.sqLaunch (.remap world launch) [] p) s (Settles fun v =>
        v.obj world .launch launch = some { o with
          counter := o.counter - o.live + (gi.launchUnits q).length, units := gi.launchUnits q, edges := gi.launchEdges q,
          placing := some q } ∧ v.mem = s.mem ∧ v.cores = s.cores))

/-- What follows a submission (R36, R38 to R40, R42, R43, R47, R240, R306): a cancel answers its caller, and stops
the units of the object, but the caller's own only once the caller has its answer; the end of a unit lowers its launch's
counter, and the last one makes it DONE; the dispatcher binds the next record and loads its slot; the start token
runs the units. A cancel by a unit of the object itself is log entry 24. -/
def Obligations.DispatchEvents : Prop :=
  ∀ s : State,
    (∀ n q, s.net.cancels[n]? = some q → q.decided = false →
      (∀ v, s.cancelResult q = (v, none) → Ends (.cancelApply n) s fun t => t.net.cancels = s.net.cancels.eraseIdx n ∧
        t.mem = s.mem ∧ t.work = s.work ∧ ∀ c id, q.src = some (c, id) → (t.ctx c).wait.lates =
          (s.ctx c).wait.lates.map fun l => if l.id = id then { l with value := some (BitVec.ofNat 64 v) } else l) ∧
      (∀ v o, s.cancelResult q = (v, some o) → v = 0 ∧ Ends (.cancelApply n) s fun t =>
        (t.obj q.world q.level q.id).map (fun x => x.status) = some .cancelled ∧
        (((s.answerCancel q v).decideCancel o .cancelled Report.none).callerIn q o = true →
          t.net.cancels = s.net.cancels.set n { q with decided := true }))) ∧
    (∀ (c : CtxId) id l v f b, c.die < 4 → c.core < 128 → c.ctx < 4 →
      ((s.ctx c).wait.lates.find? fun x => x.id == id) = some l → l.src = .cancel f b → l.value = some v →
      (s.net.cancels.any fun q => q.decided && q.src == some (c, id)) = true → Ends (.lateResultArrive c id) s fun t =>
        (t.ctx c).wait.stop = .cancel ∧ (t.ctx c).wait.lates = (s.ctx c).wait.lates.filter fun x => x.id ≠ id) ∧
    (∀ n q, s.net.cancels[n]? = some q → q.decided = true → s.landed q = true → Ends (.cancelApply n) s fun t =>
      t.net.cancels = s.net.cancels.eraseIdx n ∧ ∀ o, s.obj q.world q.level q.id = some o → o.level = .launch →
        o.posted = false → ∀ x, t.obj q.world q.level q.id = some x → x.units.all (fun u => u.stage = .ended ∨ u.stage = .reporting)) ∧
    (∀ world launch unit o u, s.obj world .launch launch = some o → (o.units.find? fun x => x.index == unit) = some u →
      s.unitOver o u = true → o.posted = false → Ends (.unitEndReport world launch unit) s fun t =>
        let owed : Nat := match u.kind, u.stage, (s.slot u.die u.slot).sink with
          | .capsink, .running, some y => if y.world = world then (y.hdrs.filter fun h => h.2 == launch).length else 0
          | _, _, _ => 0
        ∃ x, t.obj world .launch launch = some x ∧ x.counter = o.counter - 1 - owed ∧
          (x.units = o.units.map fun v => if v.index = unit then { v with stage := .ended } else v) ∧
          (o.counter = 1 → o.status = .running → s.owesAcks (launchKey world launch) = false → x.status = .done)) ∧
    (∀ d n r rest o x, d < 4 → (∀ y, (s.die d).sched.servedAt = some y → y + 32 ≤ (s.die d).cyc) → s.nextSlot d = some n →
      (s.slot d n).fifo = r :: rest → s.recLaunchObj r = some o → s.recUnitOk d n o r = true → (s.slot d n).state ≠ 7 →
      (s.popRecord d n).bindUnit d n o r = some x → Ends (.dispatchUnit d) s fun t =>
        (t.slot d n).state = 1 ∧ (t.slot d n).bound = some r ∧ (t.slot d n).loaded = true ∧ (t.slot d n).fifo = rest ∧
        (t.die d).sched.served = n ∧ (t.die d).sched.servedAt = some (s.die d).cyc ∧ t.mem = s.mem ∧
        (recNode r = .ctx → ∀ i, (s.popRecord d n).recImageOf d r = some i →
          let c : CtxId := { die := d, core := n / 4, ctx := n % 4 }
          (t.ctx c).regs.pc = i.textva + BitVec.ofNat 64 i.entry ∧ (t.ctx c).ctl.rcap = recRcap r ∧
            (t.ctx c).ctl.precise = i.precise ∧ (t.ctx c).unit.isSome = true ∧ ∀ v, (t.ctx c).regs.getV v = 0)) ∧
    (∀ world launch o, s.obj world .launch launch = some o → s.mayStart o = true → Ends (.startToken world launch) s fun t =>
      t.obj world .launch launch = some { o with
        started := some (s.die o.home).cyc,
        units := o.units.map fun u => if u.stage = .loaded then { u with stage := .running } else u } ∧
      t.mem = s.mem ∧ t.ctxs = s.ctxs ∧
      ∀ u ∈ o.units, u.stage = .loaded → u.kind ≠ .mtile → (t.slot u.die u.slot).state = 2)

/-- The custom registers, the firmware swap and the watchdog ladder (R28, R242 to R246, R287): a record joins the
FIFO of its slot; an object is selected; a request of any world takes the next tag; a staged image is verified,
committed and, when all four dies have set OK, written to flash; the ROM scheduler takes over when OK or a heartbeat
does not come; then the die's compute portion is reset, and then the package. Log entries 54 and 63 to 65 name what
the model chooses here. -/
def Obligations.FirmwareEvents : Prop :=
  ∀ (s : State) (d : Nat), d < 4 →
    let cyc := (s.die d).cyc
    let sched (t : State) : SchedSt := (t.die d).sched
    let calm (t : State) : Prop := t.mem = s.mem ∧ t.ctxs = s.ctxs ∧ t.cores = s.cores
    (∀ v r, v.extractLsb' 54 10 = 0 → (v.extractLsb' 44 10).toNat ≤ 547 →
      let n := (v.extractLsb' 44 10).toNat
      recOk r = true → recFits r n = true → (s.slot d n).fifo.length < 4 → Ends (.xzBindqWrite d v r) s fun t => calm t ∧
        (t.slot d n).fifo = (s.slot d n).fifo ++ [r] ∧ (sched t).lastSlot = n ∧ (t.mgmt d).bindq = v) ∧
    (∀ v, v.extractLsb' 32 26 = 0 → Ends (.xzCntSelect d v) s fun t => calm t ∧
      sched t = { sched s with cntLevel := (v.extractLsb' 59 3).toNat, cntId := (v.extractLsb' 0 32).toNat }) ∧
    Ends (.xzWdogKick d) s (fun t => calm t ∧ sched t = { sched s with kicked := cyc, half := false }) ∧
    (∀ v r, v.extractLsb' 44 17 = 0 → (s.die d).rm.full = false → Ends (.xzRmqWrite d v r) s fun t => calm t ∧
      (t.mgmt d).rmqTag = (s.die d).rm.next ∧ ∃ q, (t.die d).rm = (s.die d).rm.push q ∧ q.tag = (s.die d).rm.next ∧
        q.world = (v.extractLsb' 61 3).toNat ∧ q.record = some r) ∧
    ((sched s).stage ≠ 1 → Ends (.fwStage d) s fun t => calm t ∧ (sched t).stage = 1 ∧ (t.mgmt d).staging = s.stagedImage) ∧
    ((sched s).stage = 1 → Ends (.fwVerifyDone d) s fun t => calm t ∧ sched t = { sched s with
      stage := if Config.firmwareSigned (imageBytes (s.mgmt d).staging) then 2 else 3 }) ∧
    ((sched s).stage = 2 → Ends (.fwCommit d) s fun t => calm t ∧ (sched t).stage = 0 ∧ (sched t).commitAt = some cyc ∧
      (sched t).rom = false ∧ (t.mgmt d).code = (s.mgmt d).staging ∧ (t.mgmt d).data = [] ∧ (t.mgmt d).hart.mach = true ∧
      (t.mgmt d).hart.pc = Config.imageEntry (imageBytes (s.mgmt d).staging) ∧ (∀ c ∈ t.work.cache, c.die ≠ d) ∧
      t.sec.meas[8] = shaOf (leBytes s.sec.meas[8].toNat 32 ++ imageBytes (s.mgmt d).staging)) ∧
    ((sched s).commitAt.isSome = true → Ends (.fwOk d) s fun t => calm t ∧ (sched t).commitAt = none ∧
      (t.mgmt d).fwOk = true ∧
      ((∀ e, e < 4 → e ≠ d → (s.mgmt e).fwPassed = true ∧ (s.mgmt e).code = (s.mgmt d).code) →
        t.dev.flash = imageBytes (s.mgmt d).code ∧ ∀ e, e < 4 → (t.mgmt e).fwPassed = false) ∧
      (∀ e, e < 4 → e ≠ d → (s.mgmt e).fwPassed = false ∨ (s.mgmt e).code ≠ (s.mgmt d).code →
        t.dev = s.dev ∧ (t.mgmt d).fwPassed = true)) ∧
    ((sched s).commitAt = none → Ends (.fwOk d) s fun t => calm t ∧ (t.mgmt d).fwOk = true ∧ t.dev = s.dev) ∧
    (∀ y, (sched s).commitAt = some y → y + 2 ^ 24 ≤ cyc → Ends (.fwOkTimeout d) s fun t =>
      t.ctxs = s.ctxs ∧ t.cores = s.cores ∧ (sched t).rom = true ∧ (sched t).commitAt = none ∧ t.work.objs = s.work.objs) ∧
    (∀ world launch o y, s.obj world .launch launch = some o → o.started = some y → y + o.wdog ≤ (s.die o.home).cyc →
      o.status = .running → s.isOver o = false → Ends (.launchWatchdogExpire world launch) s fun t =>
        (t.obj world .launch launch).map (fun x => (x.status, x.report)) =
          some (.cancelled, { status := 5, fcode := 0x68, detail := 0 })) ∧
    ((sched s).half = false → (sched s).kicked + (sched s).period / 2 ≤ cyc → Ends (.heartbeatHalf d) s fun t => calm t ∧
      (sched t).half = true ∧ (t.die d).notices = (s.die d).notices ++ [.heartbeat]) ∧
    ((sched s).rom = false → (sched s).kicked + (sched s).period ≤ cyc → Ends (.heartbeatExpire d) s fun t =>
      t.ctxs = s.ctxs ∧ t.cores = s.cores ∧ (sched t).rom = true ∧ (sched t).kicked = cyc) ∧
    ((sched s).rom = true → (sched s).kicked + (sched s).period ≤ cyc ∨ s.dispatchStalled d = true →
      Ends (.romHeartbeatMiss d) s fun t => t.dev.rstcause = BitVec.ofNat 32 (0x130 + d) ∧ (t.mgmt d).check = true ∧
        (sched t).rom = false ∧ (t.die d).cyc = 0 ∧ (t.die d).wmap = (s.die d).wmap ∧
        (∀ c : CtxId, c.die = d → t.ctx c = CtxSt.reset) ∧ ∀ k : CoreId, k.die = d → t.core k = CoreSt.reset) ∧
    ((s.mgmt d).check = true → s.dev.stage ≠ 6 → 2 ^ 26 ≤ cyc → Ends (.dieSelftestTimeout d) s fun t =>
      t.dev.rstcause = BitVec.ofNat 32 (0x140 + d) ∧ t.dev.stage = 0 ∧ t.ctxs = [] ∧ t.cores = [] ∧ t.dies = [] ∧
      t.mem.bytes = s.mem.bytes ∧ t.work.msi = [(0, 0)]) ∧
    Ends .securityContactLost s (fun t => t.dev.rstcause = 0x144 ∧ t.dev.stage = 0 ∧ t.ctxs = [] ∧ t.cores = [] ∧
      t.dies = [] ∧ t.mem.bytes = s.mem.bytes ∧ t.work.msi = [(0, 0)]) ∧
    ((s.die d).sched.mtimecmp.toNat ≤ cyc → Ends (.mtimerInterrupt d) s fun t => calm t ∧
      (t.die d).notices = (s.die d).notices ++ [.timer] ∧ t.hart d = { s.hart d with wfi := false })

/-- The hart of a management core (R242): an enabled interrupt enters machine mode at mtvec with mepc, mcause and
the status stack; while it waits for interrupts it only counts; otherwise it executes the instruction at its pc, of
which ADDI, LUI and ECALL from its SRAM stand here. What R242 does not give of the hart is log entries 30
(PRESUMED), 87 and 88. -/
def Obligations.HartInstructions : Prop :=
  ∀ (s : State) (d : Nat), d < 4 → s.hartRuns d = true →
    let h := s.hart d
    let w := leNat ((List.range 4).map fun i => (s.mgmt d).sram (h.pc.toNat + i))
    let here := h.pc.toNat + 4 ≤ 0x400000 ∧ h.pmpOk h.mach .fetch h.pc.toNat 2 = true ∧
      h.pmpOk h.mach .fetch (h.pc.toNat + 2) 2 = true
    let calm (t : State) : Prop := t.mem = s.mem ∧ t.ctxs = s.ctxs ∧ t.cores = s.cores
    let gives (rd : Nat) (v : Nat) (t : State) : Prop := calm t ∧ (t.hart d).pc = h.pc + 4 ∧ (t.hart d).f = h.f ∧
      (t.hart d).mach = h.mach ∧ ∀ n, n < 32 → (t.hart d).xr n = if n = rd ∧ rd ≠ 0 then v % 2 ^ 64 else h.xr n
    let traps (cause : Nat) (at' : Word) (t : State) : Prop := calm t ∧ (t.hart d).mach = true ∧ (t.hart d).pc = at' ∧
      (t.hart d).reg 0x341 = h.pc ∧ (t.hart d).reg 0x342 = BitVec.ofNat 64 cause ∧ (t.hart d).x = h.x ∧
      ((t.hart d).reg 0x300).getLsbD 3 = false ∧ ((t.hart d).reg 0x300).getLsbD 7 = (h.reg 0x300).getLsbD 3 ∧
      ((t.hart d).reg 0x300).extractLsb' 11 2 = if h.mach then 3 else 0
    let base := h.reg 0x305 &&& ~~~3
    (∀ n, s.irq d = some n → Ends (.mgmtCoreInstruction d) s
      (traps (2 ^ 63 + n) (if (h.reg 0x305).getLsbD 0 then base + BitVec.ofNat 64 (4 * n) else base))) ∧
    (h.wfi = true → s.pendingIrqs d = 0 → Ends (.mgmtCoreInstruction d) s fun t => calm t ∧ (t.hart d).pc = h.pc ∧
      (t.hart d).x = h.x ∧ (t.hart d).wfi = true) ∧
    (s.irq d = none → (h.wfi = false ∨ s.pendingIrqs d ≠ 0) → here →
      (w % 128 = 0x13 → wF3 w = 0 → Ends (.mgmtCoreInstruction d) s (gives (wRd w) (h.xr (wRs1 w) + wImmI w))) ∧
      (w % 128 = 0x37 → Ends (.mgmtCoreInstruction d) s (gives (wRd w) (wImmU w))) ∧
      (w = 0x73 → Ends (.mgmtCoreInstruction d) s (traps (if h.mach then 11 else 8) base)))

/-- The commands of a slot, the marker cut, and changes of world (R256 to R258, R260, R261, R277, R278): a command
that is allowed sets RES 1 and has its effect; any other sets RES 2 and changes nothing else. A marker closes its
input; when a cut is ready every unit is saved and its slot is in STATE 6. A changed entry of the world map is BUSY
until the part has been zeroed. What is kept at a cut is log entries 90 and 91. -/
def Obligations.SlotAndWorldEvents : Prop :=
  ∀ (s : State) (d n : Nat), d < 4 →
    let x := s.slot d n
    let rsp (res : Nat) (t : State) : Prop := (t.slot d n).cmd = 0 ∧ (t.slot d n).res = res
    let no (t : State) : Prop := t = s.onSlot d n fun y => { y with cmd := 0, res := 2 }
    let c : CtxId := { die := d, core := n / 4, ctx := n % 4 }
    (n < 548 →
      let f := frecImage x.frecimg
      ((x.state = 3 ∧ n < 512) → s.resumeWaits d n = true → Ends (.slotResume d n) s fun t => t = s) ∧
      ((x.state = 3 ∧ n < 512) → s.resumeWaits d n = false → Ends (.slotResume d n) s fun t => rsp 1 t ∧
        ((s.ctx c).wait.replay = none → t.pc c = f[3] ∧
          ((t.slot d n).state = if ((s.slotLaunch d n).map fun o => o.cutting) = some true then 5 else 2) ∧
          (t.ctx c).ctl.s = (if (s.ctx c).wait.kept then (s.ctx c).ctl.ps else (s.ctx c).ctl.s) ∧
          (t.ctx c).ctl.frec = f.set 0 (f[0] &&& 0xFFFFFFFF3FFFFFFF) ∧ (t.ctx c).regs.l = stale)) ∧
      (x.state ≠ 3 → Ends (.slotResume d n) s no) ∧
      (∀ o, s.slotLaunch d n = some o →
        (x.state = 3 ∨ x.state = 4 → o.cutting = false → o.units.all (fun u => s.mayRestart u) = true →
          Ends (.slotRestart d n) s fun t => rsp 1 t ∧ ∃ y, t.obj o.world .launch o.id = some y ∧ y.started = none) ∧
        (x.state ≠ 3 → x.state ≠ 4 → Ends (.slotRestart d n) s no ∧ Ends (.slotCancel d n) s no) ∧
        (x.state = 3 ∨ x.state = 4 → o.status = .running → s.isOver o = false → Ends (.slotCancel d n) s fun t =>
          rsp 1 t ∧ (t.obj o.world .launch o.id).map (fun y => (y.status, y.report)) =
            some (.faulted, { status := 2, fcode := x.code, detail := (s.cid c).toNat % 2 ^ 32 })) ∧
        (x.state = 2 ∨ x.state = 3 → s.cutRefused o = false → o.cutting = false → Ends (.slotCut d n) s fun t =>
          rsp 1 t ∧ (t.obj o.world .launch o.id).map (fun y => y.cutting) = some true ∧
          ∀ u ∈ o.units, u.stage = .running → (s.slot u.die u.slot).state = 2 → (t.slot u.die u.slot).state = 5) ∧
        (s.cutRefused o = true → Ends (.slotCut d n) s no)) ∧
      (x.state = 0 → Ends (.slotRestore d n) s fun t => rsp 1 t ∧ (t.slot d n).state = 7 ∧ t.mem = s.mem) ∧
      (x.state ≠ 0 → Ends (.slotRestore d n) s no) ∧
      (∀ port o u q p, s.unitAt d n = some (o, u) → ((s.unitIns u).find? fun q => q.1 == port) = some (q, p) →
        o.cutting = true → (s.inOf p).marker = true → (s.inOf p).closed = false →
        ((s.inOf p).buf = [] ∨ ∃ e, (s.inOf p).buf = [e] ∧ e.kind = .eos) →
        Ends (.markerArrive d n port) s fun t => (t.inOf p).closed = true ∧ (t.inOf p).marker = false)) ∧
    (∀ world launch o u, s.obj world .launch launch = some o → o.started ≠ none →
      let a := s.cutAgain o
      a.cutReady o = true → a.launchQuiet world launch = true →
      ((o.units.filter fun v => v.stage == .running).foldlM (fun (t : State) v => t.writeSave o v) a) = .ok u →
      Ends (.cutSave world launch) s fun t =>
        (∃ y, t.obj world .launch launch = some y ∧ y.cutting = false ∧ y.started = none ∧
          y.units.map (fun v => (v.index, v.stage)) = o.units.map fun v => (v.index,
            if o.units.any (fun w => w.stage == .running && w.index == v.index) then .cut else v.stage)) ∧
        ∀ v ∈ o.units, v.stage = .running → v.kind ≠ .mtile →
          (∀ x ∈ s.work.objs, x.started = none → ∀ w ∈ x.units, w.die = v.die → w.slot = v.slot → w.stage = .placed) →
          (t.slot v.die v.slot).state = 6) ∧
    (∀ v : BitVec 8, n < 164 → (v.getLsbD 3 ≠ (s.part d n).v ∨ (v.extractLsb' 0 3).toNat ≠ (s.part d n).world) →
      (s.part d n).busy = false → s.partUsed d n = false →
      (v.getLsbD 3 = true → s.worldKeyed (v.extractLsb' 0 3).toNat = true) → Ends (.worldMapWrite d n v) s fun t =>
        t.part d n = { s.part d n with busy := true, nv := v.getLsbD 3, nworld := (v.extractLsb' 0 3).toNat } ∧
        (∀ m, m ≠ n → t.part d m = s.part d m) ∧ t = { s with dies := t.dies }) ∧
    (n < 164 → (s.part d n).busy = true → Ends (.worldZeroDone d n) s fun t =>
      t.part d n = { v := (s.part d n).nv, world := (s.part d n).nworld, busy := false, nv := false, nworld := 0 } ∧
      (n < 128 → let k : CoreId := { die := d, core := n }
        (t.core k).scratch = [] ∧ (t.core k).handles = [] ∧ (t.core k).acc = CoreSt.reset.acc ∧ (t.core k).rxbuf = [] ∧
        ∀ i, i < 4 → (t.ctx (k.ctx i)).regs.me = [] ∧ (t.ctx (k.ctx i)).regs.ce = [] ∧ (t.ctx (k.ctx i)).cap = none) ∧
      (128 ≤ n → n < 160 → (t.region d (n - 128)).active = none ∧ (t.region d (n - 128)).shadow = none ∧
        (t.region d (n - 128)).tiles = []) ∧
      (160 ≤ n → t.sieve d (n - 160) = SieveSt.reset))

/-- The sequencer and the invalidation of translations (R145, R273 to R275): GO takes the fields of SEQCTL and
launches configuration 0; STOP ends the sequence with its iteration; a configuration with no graph of the job ends the sequence in STATE 3 (log entry 128); configuration 0 starts within the
token budget,
and beyond it the sequence ends in STATE 3; a drained launch makes way for the next configuration, and the last one
ends the sequence in STATE 2. TLBINV is BUSY until every access that may have used the entries has reached its home
and the TLBs have dropped them. The world of a sequence, its watchdog and the STATE of a failure are log entry 62. -/
def Obligations.SequencerEvents : Prop :=
  ∀ (s : State) (d : Nat), d < 4 →
    let seq (t : State) : SeqSt := (t.mgmt d).seq
    let q := seq s
    let key (id : Nat) : Nat := launchKey q.world id
    (∀ v world id, q.go = false → v.getLsbD 0 = true → s.idFree world id = true →
      let asked (t : State) : Prop := (seq t).iters = (v.extractLsb' 32 32).toNat ∧ (seq t).ncfg = (v.extractLsb' 2 2).toNat ∧
        (seq t).stop = v.getLsbD 1 ∧ (seq t).iter = 0 ∧ (seq t).cur = 0 ∧ (seq t).world = world ∧ (seq t).run = none
      (s.liveObj world .graph (Map.get q.cfg 0 0) = none → Ends (.seqGo d v world id) s fun t => asked t ∧
        (seq t).go = false ∧ (seq t).st = 3 ∧ (seq t).wait = none ∧ t.work = s.work) ∧
      (∀ g, s.liveObj world .graph (Map.get q.cfg 0 0) = some g → id ≠ g.id → Ends (.seqGo d v world id) s fun t => asked t ∧
        (((seq t).go = true ∧ (seq t).st = 1 ∧ (seq t).wait = some (launchKey world id)) ∨
          ((seq t).go = false ∧ (seq t).st = 4)) ∧
        ∃ o, t.obj world .launch id = some o ∧ o.parent = g.id ∧ o.home = d)) ∧
    Ends (.seqStop d) s (fun t => seq t = { q with stop := true } ∧ t = { s with dies := t.dies }) ∧
    (∀ id k, q.wait = some k → q.go = true → q.run = none → q.cur = 0 → q.v = true → s.idFree q.world id = true →
      ((q.cap = 0 ∨ q.ptok + q.dtok ≤ q.cap) → Ends (.seqBudgetCheck d id) s fun t => (seq t).v = false ∧
        (((seq t).go = true ∧ (seq t).run = some k) ∨ ((seq t).go = false ∧
          ((seq t).st = 4 ∨ ((seq t).st = 3 ∧ s.seqGraph d (q.after 0) = none))))) ∧
      (q.cap ≠ 0 → q.cap < q.ptok + q.dtok → Ends (.seqBudgetCheck d id) s fun t =>
        seq t = { q with v := false, go := false, st := 3, wait := none })) ∧
    (∀ id k o, q.run = some k → q.go = true → s.keyLaunch k = some o → o.status = .done →
      s.idFree q.world id = true →
      (q.goesOn q.cur = false → Ends (.seqDrain d id) s fun t =>
        seq t = { q with go := false, st := 2, iter := q.iter + 1, run := none, wait := none }) ∧
      (q.goesOn q.cur = true → Ends (.seqDrain d id) s fun t => (seq t).cur = q.after q.cur ∧
        (seq t).iter = if q.after q.cur = 0 then q.iter + 1 else q.iter)) ∧
    (∀ v, (s.mgmt d).tlbBusy = false → Ends (.tlbinvWrite d v) s fun t => t = { s with dies := t.dies } ∧
      (t.mgmt d).tlbBusy = true ∧ (t.mgmt d).tlbinv = v &&& 0xFDFFFFFFFFFFF000) ∧
    (((s.mgmt d).tlbBusy = false ∨ s.tlbInFlight d (s.mgmt d).tlbinv = true) → Ends (.tlbinvDone d) s fun t => t = s) ∧
    ((s.mgmt d).tlbBusy = true → s.tlbInFlight d (s.mgmt d).tlbinv = false → Ends (.tlbinvDone d) s fun t =>
      (t.mgmt d).tlbBusy = false ∧ t.mem = s.mem ∧ t.ctxs = s.ctxs ∧ ∀ k : CoreId, k.die = d →
        (t.core k).tlb = tlbDrop (s.mgmt d).tlbinv (s.core k).tlb ∧
        (t.core k).stlb = tlbDrop (s.mgmt d).tlbinv (s.core k).stlb)

/-- The key service (R281 to R285, R290, R291): KEYLOAD unwraps a key into an EMPTY or REVOKED slot, which becomes
ACTIVE; SEAL marks the frames of its blob; KEYSTAT reports a slot; REVOKE makes it REVOKING, and when the sweep is
done it is REVOKED, with the frames of its blob and those sealed under it zeroed and unsealed; GROUP binds members; a
link that comes up exchanges the digests, and a member with another digest than the one bound has the group's buffers
zeroed, by causal writes of the security core, and the tokens of its port dropped. Each request has its
status. The order of the checks, the packing of KEYSTAT and the moments of the sweep are log entries 71 to 76. -/
def Obligations.KeyServiceEvents : Prop :=
  ∀ s : State,
    let asked (op : Nat) : Prop := s.keyAsked op = true
    let status (n : Nat) (t : State) : Prop := Answered 2 [BitVec.ofNat 8 n] t
    let slot := s.bodyNat 1 1
    let k := s.keys.slot slot
    (asked 1 →
      let q := s.keyLoad
      let kind : KeyKind := if q.kind = 0 then .xts else .gcm
      let opened := oaepOpen Config.packageKey.1 Config.packageKey.2 ((s.mailBytes 41 384).map BitVec.toNat)
      (s.loadStatus q ≠ 0 → Ends .keyload s fun t => status (s.loadStatus q) t ∧ t.keys = s.keys ∧ t.mem = s.mem) ∧
      (s.loadStatus q = 0 → Ends .keyload s fun t => t.mem = s.mem ∧
        (∀ key, opened = some key → key.length = kind.bytes → status 0 t ∧ t.keys.ring = s.keys.ring ++
            [{ slot := q.slot, key := BitVec.ofNat 512 (bytesNat key) }] ∧
          t.keys.slot q.slot =
            { kind := kind, phase := .active, world := q.world, nonce := q.nonce, base := q.base, count := q.count,
              tagpa := q.tagpa, ring := s.keys.ring.length, flush := false,
              mark := (s.keys.slot q.slot).mark }) ∧
        ((∀ key, opened = some key → key.length ≠ kind.bytes) → status 3 t ∧ t.keys = s.keys))) ∧
    (asked 2 →
      (s.mailHdrOk = true → s.mailLen = 3 → slot ≤ 63 → s.bodyNat 2 1 ≤ 1 → k.phase ≠ .revoking → Ends .revoke s fun t =>
        t.keys.slot slot = { k with phase := .revoking, flush := s.bodyNat 2 1 == 0, mark := s.fresh } ∧ t.sec = s.sec ∧
          t.mem = s.mem) ∧
      (63 < slot → Ends .revoke s fun t => status 1 t ∧ t.keys = s.keys) ∧
      (s.mailHdrOk = true → s.mailLen = 3 → slot ≤ 63 → s.bodyNat 2 1 ≤ 1 → k.phase = .revoking → Ends .revoke s fun t =>
        status 2 t ∧ t.keys = s.keys)) ∧
    (asked 3 →
      let pa := s.bodyNat 5 8
      let count := s.bodyNat 13 4
      let st := s.sealStatus slot pa count
      (st ≠ 0 → Ends .sealBlob s fun t => status st t ∧ t.mem = s.mem) ∧
      (st = 0 → Ends .sealBlob s fun t => status 0 t ∧ t.keys = s.keys ∧
        (∀ i, i < count → Map.find t.mem.sealed (s.cell pa / 4096 + i) = some slot) ∧
        ∀ f ∈ s.tagFrames k, Map.find t.mem.sealed f = some slot)) ∧
    (asked 4 → s.mailHdrOk = true → s.mailLen = 2 → slot ≤ 63 →
      (k.phase ≠ .revoking → Ends .keystat s fun t => Answered 2 (0 :: k.report) t ∧ t.keys = s.keys ∧ t.mem = s.mem) ∧
      (k.phase = .revoking → Ends .keystat s fun t => status 2 t ∧ t.keys = s.keys)) ∧
    (∀ p, (s.keys.slots.find? fun (p : Nat × KeySlot) => p.2.phase == .revoking) = some p → s.mmaReads p.1 p.2.mark = false →
      Ends .revokeSweepDone s fun t => status 0 t ∧ (t.keys.slot p.1).phase = .revoked ∧
        ((s.keys.slot p.1).kind = .gcm → ∀ f, s.slotFrame p.1 f = true →
          Map.find t.mem.sealed f = none ∧ ∀ a, a / 4096 = f → t.homeByte a = 0)) ∧
    (asked 5 →
      (∀ g, s.mailGroup = some g → Ends .group s fun t => status 0 t ∧
        t.sec.groups = (s.sec.groups.filter fun h => h.id != g.id) ++ [g]) ∧
      (s.mailGroup = none → Ends .group s fun t => status 1 t ∧ t.sec.groups = s.sec.groups)) ∧
    (∀ port pkg digest cert sig, port < 32 → Ends (.groupLinkUp port pkg digest ⟨cert, sig⟩) s fun t =>
      let good := digestSigned digest cert sig
      let own := s.sec.digest
      let sig' := Config.packageSign s.fresh (leBytes own.toNat 32)
      Map.find t.sec.peers port = some { pkg := pkg, digest := digest, good := good, own := own, sig := sig' } ∧
      t.keys = s.keys ∧
      ∀ g ∈ s.sec.groups, (g.members.any fun m => m.1 == pkg && !(good && m.2 == digest)) = true →
        (∀ e ∈ (t.link 4 port).queue, tagField e.tag 26 3 ≠ 1 ∧ tagField e.tag 26 3 ≠ 2) ∧
        ∀ r ∈ g.ranges, s.inHbm r.1 r.2 = true → ∀ a, s.cell r.1 ≤ a → a < s.cell r.1 + r.2 → t.homeByte a = 0 ∨
          ∃ w ∈ t.mem.writes, w.src = .sec ∧ w.causal = true ∧ ∃ p ∈ w.parts, p.pa = a ∧ p.data = [0])

/-- The SPDM responder (R288, R289): each request in its order gives its response and joins the transcript; one out of
order is answered with UnexpectedRequest, one before STAGE 3 with Busy, one that is not supported with
UnsupportedRequest. The codes and layouts of the messages, and the order of
the checks, are the model's (log entry 77, PRESUMED). -/
def Obligations.SpdmEvents : Prop :=
  ∀ s : State, s.spdmAsked = true →
    let code := s.spdmCode
    let fine := s.dev.early = false ∧ s.spdmVersion = true ∧ s.mailHdrOk = true
    let tells (state : Nat) (old : List Byte) (r : List Byte) (t : State) : Prop := Answered 1 r t ∧ t.sec.spdm = state ∧
      t.sec.transcript = old ++ s.spdmReq ++ r ∧ t.mem = s.mem
    let error (n : Byte) (t : State) : Prop := Answered 1 [0x12, 0x7F, n, 0] t ∧ t.sec.spdm = s.sec.spdm ∧
      t.sec.transcript = s.sec.transcript
    let old := s.sec.transcript
    let chain := Config.certChain
    let limits := leBytes Config.spdmLimits.toNat 9
    let nonce := leBytes (Config.nonce s.fresh).toNat 32
    (fine →
      (code = 0x84 → s.mailLen = 4 → Ends .getVersion s (tells 1 [] [0x10, 0x04, 0, 0, 0, 1, 0x00, 0x12])) ∧
      (code = 0xE1 → s.sec.spdm = 1 → s.mailLen = 20 → Ends .getCapabilities s
        (tells 2 old ([0x12, 0x61, 0, 0, 0] ++ limits.take 1 ++ [0, 0, 0x16, 0, 0, 0] ++ limits.drop 1))) ∧
      (code = 0xE3 → s.sec.spdm = 2 → s.algOk = true → Ends .negotiateAlgorithms s (tells 3 old
        ([0x12, 0x63, 0, 0, 36, 0, 1, 0, 2, 0, 0, 0, 8, 0, 0, 0, 1, 0, 0, 0] ++ List.replicate 16 0))) ∧
      (code = 0x81 → s.sec.spdm = 3 → s.mailLen = 4 → Ends .getDigests s
        (tells 3 old ([0x12, 0x01, 0, 1] ++ leBytes (shaOf chain).toNat 32))) ∧
      (code = 0x82 → s.sec.spdm = 3 → s.mailLen = 8 → s.spdmByte 2 = 0 →
        let off := leNat ((s.spdmReq.drop 4).take 2)
        let part := (chain.drop off).take (min (leNat ((s.spdmReq.drop 6).take 2)) 0x7FE8)
        Ends .getCertificate s fun t => if off < chain.length then tells 3 old ([0x12, 0x02, 0, 0] ++ leBytes part.length 2 ++
          leBytes (chain.length - off - part.length) 2 ++ part) t else error 0x01 t) ∧
      (code = 0x83 → s.sec.spdm = 3 → s.mailLen = 36 → s.spdmByte 2 = 0 → s.spdmByte 3 = 0 →
        let r := [0x12, 0x03, 0, 1] ++ leBytes (shaOf chain).toNat 32 ++ nonce ++ [0, 0]
        Ends .challenge s (tells 3 old (r ++ (leBytes (Config.packageSign s.fresh
          (s.spdmSigned "responder-challenge_auth signing" r)).toNat 384).reverse))) ∧
      (∀ n, code = 0xE0 → s.sec.spdm = 3 → s.mailLen = 4 → s.spdmByte 2 = 0 → s.spdmByte 3 = n → 1 ≤ n → n ≤ 16 →
        Ends .getMeasurements s (tells 3 old ([0x12, 0x60, 0, 0, 1] ++ leBytes 39 3 ++ (leBytes n 1 ++ [1] ++ leBytes 35 2 ++
          [Config.measType n] ++ leBytes 32 2 ++ leBytes (s.sec.meas.toList.getD (n - 1) 0).toNat 32) ++ nonce ++ [0, 0]))) ∧
      (code = 0xE0 → s.sec.spdm ≠ 3 → Ends .getMeasurements s (error 0x04)) ∧
      (code = 0x83 → s.sec.spdm ≠ 3 → Ends .challenge s (error 0x04))) ∧
    (s.dev.early = true → code = 0x84 → Ends .getVersion s (error 0x03)) ∧
    (s.dev.early = false → code ∉ spdmCodes → Ends .spdmUnsupportedRequest s (error 0x07))

/-- A Sieve (R262 to R272): a POSITION token opens a position and records its node; COMMIT adds one to the main
counter of each token on the path, up to 65,535, and DISCARD only forgets the overlay; CLEAR zeroes the main
counters after 8,192 cycles; logits that pass the mask, the penalty and the filter join the queue, and enter the
cells in rank order, K at most; at the segment's end the list and the result leave; EOS leaves when every input is
at its own. Tokens that break the rules are as log entry 61 says. -/
def Obligations.SieveEvents : Prop :=
  ∀ (s : State) (d n : Nat), d < 4 → n < 4 →
    let x := s.sieve d n
    let head (p : Nat) (t : Token) : Prop := s.sieveHead d n p = some t
    let took (p : Nat) (t : State) : Prop := (t.inOf (.sieve d n p)).buf = (s.inOf (.sieve d n p)).buf.drop 1 ∧ t.mem = s.mem ∧
      t.ctxs = s.ctxs ∧ t.cores = s.cores
    let counters (t : State) (i : Nat) : Nat := mainCount (t.region d (counterRegion n)).tiles i
    let out : PortRef := .sieve d n 0
    (∀ t, s.sieveTakes d n = true → head 2 t → t.kind = .data →
      let c := t.val
      let op := ctlField c 0 1
      (op = 1 →
        let bad := s.positionBad d n c
        let node : DraftNode := { node := ctlField c 2 1, parent := ctlField c 3 1, dtok := ctlField c 4 4 }
        Ends (.sievePosition d n) s fun u => took 2 u ∧ u.sieve d n = { x with
          pos := some { ctl := c, bad := bad, seg := 0, masks := [], fin := false }, cells := [], queue := [],
          pen := x.pen || (ctlFlag c 1 && !bad),
          overlay := if bad then x.overlay else x.overlay ++ [node] }) ∧
      ((op = 0 ∨ 4 < op) → Ends (.sievePosition d n) s fun u => took 2 u ∧ u.sieve d n = x ∧
        (u.die d).notices = (s.die d).notices ++ [.report .streamProto (544 + n)]) ∧
      (op = 2 → plainOk c = true → Ends (.sieveCommit d n) s fun u => took 2 u ∧ u.sieve d n = { x with overlay := [] } ∧
        ∀ i, i < 131072 → counters u i = min 65535 (counters s i +
          ((draftPath x.overlay (ctlField c 2 1) 64).filter fun o => o.dtok == i).length)) ∧
      (op = 3 → plainOk c = true → Ends (.sieveDiscard d n) s fun u => took 2 u ∧ u.sieve d n = { x with overlay := [] } ∧
        ∀ i, counters u i = counters s i) ∧
      (op = 4 → plainOk c = true → Ends (.sieveClear d n) s fun u => took 2 u ∧
        u.sieve d n = { x with clearing := some (s.die d).cyc })) ∧
    (∀ y, x.clearing = some y → y + 8192 ≤ (s.die d).cyc → Ends (.sieveClearDone d n) s fun u =>
      u.sieve d n = { x with clearing := none } ∧ u.mem = s.mem ∧ ∀ i, counters u i = 0) ∧
    (∀ p t, x.reads = true → x.pos = some p →
      (head 1 t → t.kind = .data → p.masks.length < p.maskNeed → Ends (.sieveMaskToken d n) s fun u => took 1 u ∧
        u.sieve d n = { x with pos := some { p with masks := p.masks ++ [t.val] } }) ∧
      (head 0 t → t.kind = .data → p.fin = false → p.bad = false →
        (16 * p.seg < ctlField p.ctl 8 4 → ctlFlag p.ctl 0 = true → 16 * p.seg / 512 < p.masks.length) →
        let path := draftPath x.overlay (ctlField p.ctl 2 1) 64
        let cands := (List.range 16).filterMap fun j => candidate p (s.region d (counterRegion n)).tiles path (16 * p.seg + j)
          (t.val.extractLsb' (32 * j) 32)
        let pass := cands.filter fun c => passesFilter (x.theta (ctlField p.ctl 12 2)) c.1
        x.queue.length + pass.length ≤ 64 → Ends (.sieveLogitToken d n) s fun u => took 0 u ∧
          u.sieve d n = { x with queue := x.queue ++ pass, pos := some { p with seg := p.seg + 1 } }) ∧
      (head 0 t → t.kind = .steer → p.fin = false → p.bad = false → x.queue = [] → p.maskNeed ≤ p.masks.length →
        x.pend = [] → (s.outOf out).bound = true →
        let ts := resultTokens p x.cells
        let room := 4 - (s.outOf out).buf.length
        Ends (.sieveSegmentEnd d n) s fun u => took 0 u ∧ (u.outOf out).buf = (s.outOf out).buf ++ ts.take room ∧
          u.sieve d n = { x with pend := ts.drop room, pos := none })) ∧
    (∀ p c rest, x.pos = some p → x.queue = c :: rest → Ends (.sieveInsert d n) s fun u => u.mem = s.mem ∧
      u.sieve d n = { x with cells := rankInsert x.cells (ctlField p.ctl 12 2) c, queue := rest } ∧
      (u.sieve d n).cells.length ≤ ctlField p.ctl 12 2) ∧
    (∀ t, x.takesControl = true → head 0 t → t.kind = .eos →
      let u := (s.sieveDrain d n 1 64).sieveDrain d n 2 64
      u.sieveDry d n 1 = true → u.sieveDry d n 2 = true → (s.outOf out).bound = true → (s.outOf out).buf.length < 4 →
      Ends (.sieveEos d n) s fun v => v.sieve d n = { x with ended := true } ∧ v.mem = s.mem ∧
        (v.outOf out).buf = (s.outOf out).buf ++ [{ kind := .eos, val := 0, clock := none }])

/-- Power, resets and the host (R5, R16, R24 to R28, R232, R280, R284): bring-up begins in STAGE 1, and each of
its steps comes to the next STAGE, the last to STAGE 6 with the firmware loaded, or to STAGE 15 with the cause; while the
compute dies are held no move of theirs has an effect; the device is ready when the four dies have passed their self-check; a
package reset keeps the bytes of memory and the boot flash. The host reads and writes bytes through BAR2; a sealed
frame reads as zeros and raises SEAL-DBG; the debug port reads bytes as they are stored, and zeros of a Pantry. A
register takes what its access type admits. What bring-up finds is handed in (log entry 81), and log entries 67, 82,
84 and 85 name what the model reads between the lines. -/
def Obligations.PowerAndHostEvents : Prop :=
  ∀ s : State,
    let stage (t : State) : Nat := (t.dev.bootst.extractLsb' 0 4).toNat
    let cause (t : State) : Nat := (t.dev.bootst.extractLsb' 16 4).toNat
    let home (x : Nat) : Byte := (s.mem.atHome x).val
    (∀ r : BringUp,
      (r.cold = true ∨ s.dev.stage = 0 → Ends (.powerGood r) s fun t => stage t = 1 ∧ cause t = 0 ∧ t.dev.boot = some r ∧
        t.dev.flash = s.dev.flash ∧ (r.cold = true → ∀ a, a < 2 ^ 39 → t.homeByte a = 0) ∧
        (r.cold = false → t.mem.bytes = s.mem.bytes)) ∧
      (r.cold = false → s.dev.stage ≠ 0 → Ends (.powerGood r) s fun t => t = s)) ∧
    (∀ r : BringUp, s.dev.boot = some r → ∀ rest, s.agenda = .bootStep :: rest →
      let next (p : State → Prop) : Prop := ∃ t, step s = .next t ∧ p t
      let halts (n : Nat) (t : State) : Prop := stage t = 15 ∧ cause t = n ∧ t.mem = s.mem ∧ t.dev.flash = s.dev.flash
      let goes (n : Nat) (t : State) : Prop := stage t = n ∧ cause t = 0 ∧ t.dev.boot = some r ∧ t.dev.flash = s.dev.flash
      let ok := hbmOk r.channels
      let foreign := dieBits fun d => !attested (dieReport r d) d (bootNonce s.fresh d)
      let sick := dieBits fun d => (dieReport r d).status != 0
      let fails (t : State) : Nat := (t.dev.bootst.extractLsb' 20 4).toNat
      (s.dev.stage = 1 →
        (r.cause = 1 → next (halts 1)) ∧
        (r.cause ≠ 1 → Config.firmwareSigned s.dev.flash = false → next (halts 2)) ∧
        (r.cause ≠ 1 → Config.firmwareSigned s.dev.flash = true → next fun t => goes 2 t ∧
          t.sec.meas[1] = shaOf (leBytes s.sec.meas[1].toNat 32 ++ s.dev.flash))) ∧
      (s.dev.stage = 2 →
        (foreign ≠ 0 → next fun t => halts 3 t ∧ fails t = foreign) ∧
        (foreign = 0 → sick ≠ 0 → next fun t => halts 4 t ∧ fails t = sick) ∧
        (foreign = 0 → sick = 0 → next fun t => goes 3 t ∧ t.mem = s.mem)) ∧
      (s.dev.stage = 3 →
        (ok ≠ 255 → next fun t => halts 5 t ∧ t.dev.hbm = ok) ∧
        (ok = 255 → next fun t => goes 4 t ∧ t.dev.hbm = 255 ∧
          t.mem.retired = r.channels.filter fun c => decide (c < 256))) ∧
      (s.dev.stage = 4 → (r.cause = 6 → next (halts 6)) ∧ (r.cause ≠ 6 → next fun t => goes 5 t ∧ t.dev.hbm = s.dev.hbm)) ∧
      (s.dev.stage = 5 → next fun t => goes 6 t ∧ t.dev.hbm = s.dev.hbm ∧ ∀ d, d < 4 → (t.hart d).mach = true ∧
        (t.hart d).pc = Config.imageEntry s.dev.flash ∧ (t.mgmt d).check = true) ∧
      (s.dev.stage = 6 → r.cause = 7 → next (halts 7))) ∧
    (∀ m rest, s.dev.held = true → s.agenda = m :: rest → m.offDie = false → step s = .next { s with agenda := rest }) ∧
    (∀ d, d < 4 → Ends (.dieSelfCheckPass d) s fun t => (t.mgmt d).check = false ∧ t.mem = s.mem ∧ t.ctxs = s.ctxs ∧
      ((∀ e, e < 4 → e ≠ d → (s.mgmt e).check = false) → s.dev.stage = 6 → stage t = 7) ∧
      (∀ e, e < 4 → e ≠ d → (s.mgmt e).check = true → t.dev = s.dev) ∧ (s.dev.stage ≠ 6 → t.dev = s.dev)) ∧
    Ends .packageReset s (fun t => t.dev.rstcause = 0x110 ∧ stage t = 0 ∧ t.dev.flash = s.dev.flash ∧ t.ctxs = [] ∧
      t.cores = [] ∧ t.dies = [] ∧ t.mem.bytes = s.mem.bytes ∧ t.mem.writes = [] ∧ t.mem.sealed = [] ∧ t.keys.slots = []) ∧
    (∀ fn off n, fn ≤ 8 → (∀ i, i < n → s.byteWaits (s.barByte fn (off + i) false) = false) →
      Ends (.hostBar2Access fn off (.read n)) s fun t => t.dev.seen.length = n ∧ ∀ i, i < n →
        (∀ a key loc, s.barByte fn (off + i) false = .cell a key loc → t.dev.seen[i]? = some (s.byteAs home key a)) ∧
        (∀ a, s.barByte fn (off + i) false = .sealed a → t.dev.seen[i]? = some 0 ∧ (n = 1 →
          (t.die (homeDie a % 4)).notices = (s.die (homeDie a % 4)).notices ++
            [.report .sealDbg (BitVec.ofNat 64 a).toNat]))) ∧
    (∀ fn off v a key loc, fn ≤ 8 → s.barByte fn off true = .cell a key loc → s.mem.serves a = true →
      eccBlocks s.mem.ecc [sectorOf a] = false → s.write s.fresh = none → Map.find s.mem.sealed (a / 4096) = none →
      Ends (.hostBar2Access fn off (.write [v])) s fun t => t.byteAs (fun x => (t.mem.atHome x).val) key a = v ∧
        t.homeByte a = v ∧ t.cores = s.cores ∧ t.ctxs = s.ctxs) ∧
    (∀ a n, a + n ≤ 2 ^ 39 → Ends (.debugPortRead (.mem a n)) s fun t => t.mem = s.mem ∧ t.dev.seen.length = n ∧
      ∀ i, i < n → t.dev.seen[i]? = some (if (Map.find s.mem.sealed ((a + i) / 4096)).isSome then 0
        else s.byteAs home none (a + i))) ∧
    (∀ d c a n, d < 4 → c < 128 → Ends (.debugPortRead (.pantry d c a n)) s fun t => t.mem = s.mem ∧
      t.dev.seen = List.replicate n 0 ∧ (t.die d).notices = (s.die d).notices ++ [.report .sealDbg a]) ∧
    (∀ (v : Word) (d : Nat), d < 4 →
      Ends (.registerWrite (.bar0 0x1000 true) v) s (fun t =>
        t = { s with dev := { s.dev with pwrcap := max 600 (min 2400 (v.toNat % 65536)) } }) ∧
      (v.getLsbD 8 = true → Ends (.registerWrite (.bar0 0x18 true) v) s fun t =>
        t.dev.rstcause = s.dev.rstcause &&& 0xFFFFFEFF ∧ t = { s with dev := t.dev }) ∧
      Ends (.registerWrite (.loc d 0x02000000) v) s (fun t => (t.die d).sched = { (s.die d).sched with mtimecmp := v } ∧
        t = { s with dies := t.dies }) ∧
      (v.getLsbD 63 = false → Ends (.registerWrite (.csr d 0x7C4) v) s fun t =>
        (t.die d).sched = { (s.die d).sched with period := max 65536 (v.toNat % 2 ^ 32) } ∧ t = { s with dies := t.dies }) ∧
      (∀ q, q < 64 → (s.queue q).en = false → Ends (.registerWrite (.bar0 (0x10000 + 0x40 * q) true) v) s fun t =>
        t.queue q = { s.queue q with sqbase := v } ∧ t.mem = s.mem) ∧
      (∀ q, q < 64 → (s.queue q).en = true → Ends (.registerWrite (.bar0 (0x10000 + 0x40 * q) true) v) s fun t => t = s) ∧
      (∀ w q, w < 8 → s.worldExists w = true → s.vfQueue w 0 = some q → (s.queue q).en = false →
        Ends (.registerWrite (.vf (w + 1) 0x10 true) v) s fun t =>
          (t.queue q).qctl = (v &&& 0x8000FFFF) ||| ((s.queue q).qctl &&& 0x07E00000)))

/-- Decoding and encoding agree (R74 to R95): the word of a well-formed program instruction decodes to that instruction,
with every operand at every value its encoding admits. -/
def Obligations.EncodingRoundTrip : Prop :=
  ∀ (i : Instr) (w : Word), i.wf = true → encode i = some w → decode w 0 = .ok i

/-- Words written out from the encodings of the spec decode to the instructions they stand for, and a major opcode that
names nothing is ILL-MAJOR (R74, R76, R87, R253, R301, R302, R303, R324, R333, R362, R363, R392). -/
def Obligations.DecodedWords : Prop :=
  let always : Guard := ⟨0, false⟩
  decode 0x040610102000000C 0 = .ok (.add ⟨⟨3, false⟩, false, false, 4, .g 1, .imm 12⟩) ∧
  decode 0x04200C4140000000 0 = .ok (.and ⟨always, false, false, 3, .g 4, .reg (.g 5)⟩) ∧
  decode 0x1000000FFFFFFFFD 0 = .ok (.br always 0xFFFFFFFFD) ∧
  decode 0x3C00000000000000 0 = .ok (.nop always) ∧
  decode 0x3C80000000000000 0 = .ok (.bkpt always) ∧
  decode 0x3C40000000000005 0 = .ok (.trap always 5) ∧
  decode 0x3C50000000000001 0 = .ok (.tret always true) ∧
  decode 0x1C30141FC8000000 0 = .ok (.ldg always .d true false false 5 ⟨.g 1, none, 0⟩) ∧
  decode 0x4200000200801800 0 = .ok (.vadd ⟨0, false, .s8, .v 1⟩ true (.v 2) (.v 3)) ∧
  decode 0x4018700200801804 0 = .ok (.vfma ⟨0, false, .f32, .v 1⟩ (.v 2) (.v 3) (.v 4)) ∧
  decode 0x4800400400401002 0 = .ok (.vcmp 0 .s32 2 .lt (.v 1) (.v 2)) ∧
  decode 0x5000788A00400000 0 = .ok (.vred ⟨0, false, .f32, .g 5⟩ .add (.v 1)) ∧
  ∀ w : Word, majorOf w = 0 ∨ (0x18 ≤ majorOf w ∧ majorOf w ≠ 0x38) → ∀ pos, decode w pos = .error .illMajor

/-- A step runs the decoded instruction (R26, R55, R57, R74, R86, R149): when nothing is scheduled, the context of `cur` holds
issue within its count, runs, has no trap to take and waits for nothing, the dies are not held for bring-up, and the word at
its program counter is in the instruction cache and decodes, the step is that instruction's meaning in the state in which
one cycle of its die has passed; so is a step that the agenda asks of its core, with no cycle passing, and one that the
agenda asks of an event. -/
def Obligations.StepRunsDecoded : Prop :=
  (∀ (s : State) (w : Word) (i : Instr),
    let c := s.cur
    let pc := s.pc c
    (s.core c.coreId).holder = some c.ctx → c.ctx < 4 → s.dev.held = false → s.running c = true →
    (s.ctx c).wait.fetch = none → (s.ctx c).wait.park = none → (s.ctx c).wait.hold = none → s.mustTrap c = false →
    s.loopForced c = false → s.drained c = true → s.cached c (wordAddr pc) = some w →
    addrOk w pc = true → decode w (wordPos pc) = .ok i →
    let runs (u : State) : Host.Outcome State Fault Refusal :=
      exec i (({ u with cur := c } : State).onRegs c fun r => { r with wordNext := nextWord w pc })
    (s.agenda = [] → (s.elapse c.die 1).issueCount c < 5120 → step s = runs (s.elapse c.die 1)) ∧
    (∀ rest, s.agenda = .issue c.coreId :: rest → s.issueCount c < 5120 → step s = runs { s with agenda := rest })) ∧
  (∀ (s : State) (e : Instr) (rest : List Move), s.agenda = .event e :: rest → e.isEvent = true →
    s.dev.held = false ∨ offDieEvent e = true → step s = exec e { s with agenda := rest })

/-- After reset (R16, R20, R27, R28, R43, R69, R160, R190, R232, R242, R256, R273, R277, R281, R287): no cycle has passed, no
slot has a unit, no part has a world, every counter, register and index the spec resets is at its value, and memory is
in its canonical form with nothing listed. The contents of memory (log entry 1), the registers of a context
that no unit is bound to (log entry 3) and the hart's mode (log entry 30, PRESUMED) are the model's own choice. -/
def Obligations.ResetState : Prop :=
  let s := State.reset
  memWf s.mem.bytes = true ∧ s.mem.bytes = [] ∧ s.dev.stage = 0 ∧ s.dev.rstcause = 0 ∧ s.dev.pwrcap = 2400 ∧
    s.dev.clock = 1600 ∧ s.net = { flights := [], credits := [], cancels := [], away := [] } ∧
    (∀ d, (s.die d).cyc = 0 ∧ (s.die d).vc = Vector.replicate 5 0 ∧ (s.die d).sched.period = 16000000 ∧
      (s.die d).sched.mtimecmp = 0xFFFFFFFFFFFFFFFF ∧ (s.mgmt d).seq.go = false ∧ (s.mgmt d).hart.mach = true) ∧
    (∀ d n, (s.slot d n).state = 0 ∧ (s.slot d n).fifo = [] ∧ (s.part d n).v = false ∧ (s.part d n).busy = false) ∧
    (∀ n, (s.queue n).qctl = 0 ∧ (s.queue n).sqw = 0 ∧ (s.queue n).cqr = 0 ∧ (s.keys.slot n).phase = .empty) ∧
    (∀ i : Fin 16, s.sec.meas[i] = 0) ∧
    ∀ c r, (s.ctx c).regs.getG r = 0 ∧ (s.ctx c).ctl.s = false ∧ (s.ctx c).ctl.ftbind = 0 ∧ (s.ctx c).ctl.frec[0] = 0 ∧
      (s.ctx c).regs.l = stale ∧ ∀ z, ((s.ctx c).regs.getZ z).active = false

/-- Every step keeps the canonical form of memory (R2, R139): addresses strictly rising, and no entry that holds what an
unlisted address reads as. -/
def Obligations.StepKeepsMemory : Prop :=
  ∀ s t : State, memWf s.mem.bytes = true → step s = .next t → memWf t.mem.bytes = true

end
end

