-- ==== Sys2Proof/Laws/Map.lean ====
section
/-! SUPPORT. Laws of the maps and tables that sparse parts of the state are made of, and of the canonical form of
memory. -/

namespace Sys2Proof.Machine

/-! ## Maps -/

theorem Map.find_put_same {α : Type} (m : Map α) (k : Nat) (v : α) : Map.find (Map.put m k v) k = some v := by
  induction m with
  | nil => simp [Map.put, Map.find]
  | cons p rest ih =>
    obtain ⟨k', v'⟩ := p
    unfold Map.put
    split
    · simp [Map.find]
    · split
      · simp [Map.find]
      · rename_i h _; simp [Map.find, h, ih]

theorem Map.find_put_ne {α : Type} (m : Map α) (k j : Nat) (v : α) (h : j ≠ k) :
    Map.find (Map.put m k v) j = Map.find m j := by
  induction m with
  | nil => simp [Map.put, Map.find, h.symm]
  | cons p rest ih =>
    obtain ⟨k', v'⟩ := p
    unfold Map.put
    split
    · rename_i e; subst e; simp [Map.find, h.symm]
    · split
      · simp [Map.find, h.symm]
      · simp only [Map.find, ih]

@[simp] theorem Map.get_put_same {α : Type} (m : Map α) (d : α) (k : Nat) (v : α) : Map.get (Map.put m k v) d k = v := by
  simp [Map.get, Map.find_put_same]

theorem Map.get_put_ne {α : Type} (m : Map α) (d : α) (k j : Nat) (v : α) (h : j ≠ k) :
    Map.get (Map.put m k v) d j = Map.get m d j := by
  simp [Map.get, Map.find_put_ne m k j v h]

theorem Map.find_filter {α : Type} (m : Map α) (f : Nat → Bool) (k : Nat) :
    Map.find (m.filter fun p => f p.1) k = if f k then Map.find m k else none := by
  induction m with
  | nil => simp [Map.find]
  | cons p rest ih =>
    obtain ⟨k', v'⟩ := p
    simp only [List.filter_cons]
    split
    · rename_i hp
      simp only [Map.find, ih]
      split
      · rename_i e; subst e; simp_all
      · rfl
    · rename_i hp
      simp only [ih, Map.find]
      by_cases e : k' = k
      · subst e; simp [hp]
      · simp [e]

theorem Map.find_drop {α : Type} (m : Map α) (k j : Nat) :
    Map.find (Map.drop m k) j = if j = k then none else Map.find m j := by
  have h := Map.find_filter m (fun n => decide (n ≠ k)) j
  simp only [Map.drop]
  rw [h]
  by_cases e : j = k <;> simp [e]

/-! ## The canonical order -/

theorem Map.sorted_tail {α : Type} {p : Nat × α} {m : Map α} (h : Map.sorted (p :: m) = true) : Map.sorted m = true := by
  cases m with
  | nil => rfl
  | cons q rest =>
    obtain ⟨a, x⟩ := p; obtain ⟨b, y⟩ := q
    simp only [Map.sorted, Bool.and_eq_true] at h
    exact h.2

theorem Map.sorted_iff {α : Type} (m : Map α) : Map.sorted m = true ↔ (m.map fun p => p.1).Pairwise (· < ·) := by
  induction m with
  | nil => simp [Map.sorted]
  | cons p rest ih =>
    cases rest with
    | nil => simp [Map.sorted]
    | cons q rest =>
      obtain ⟨a, x⟩ := p; obtain ⟨b, y⟩ := q
      simp only [Map.sorted, Bool.and_eq_true, decide_eq_true_eq, ih, List.map_cons, List.pairwise_cons,
        List.mem_cons, forall_eq_or_imp]
      constructor
      · rintro ⟨hab, hb, hr⟩
        exact ⟨⟨hab, fun c hc => lt_trans hab (hb c hc)⟩, hb, hr⟩
      · rintro ⟨⟨hab, _⟩, hb, hr⟩
        exact ⟨hab, hb, hr⟩

theorem Map.sorted_filter {α : Type} (m : Map α) (f : Nat × α → Bool) (h : Map.sorted m = true) :
    Map.sorted (m.filter f) = true := by
  rw [Map.sorted_iff] at *
  exact h.sublist (List.filter_sublist.map _)

theorem Map.mem_put {α : Type} (m : Map α) (k : Nat) (v : α) (p : Nat × α) (h : p ∈ Map.put m k v) :
    p = (k, v) ∨ p ∈ m := by
  induction m with
  | nil => simpa [Map.put] using h
  | cons q rest ih =>
    obtain ⟨k', v'⟩ := q
    unfold Map.put at h
    split at h
    · simp only [List.mem_cons] at h ⊢; tauto
    · split at h
      · simp only [List.mem_cons] at h ⊢; tauto
      · simp only [List.mem_cons] at h ⊢
        rcases h with h | h
        · tauto
        · rcases ih h with h | h <;> tauto

theorem Map.sorted_put {α : Type} (m : Map α) (k : Nat) (v : α) (h : Map.sorted m = true) :
    Map.sorted (Map.put m k v) = true := by
  rw [Map.sorted_iff] at *
  induction m with
  | nil => simp [Map.put]
  | cons q rest ih =>
    obtain ⟨k', v'⟩ := q
    simp only [List.map_cons, List.pairwise_cons, List.mem_map, forall_exists_index, and_imp] at h
    unfold Map.put
    split
    · rename_i e
      simp only [List.map_cons, List.pairwise_cons, List.mem_map, forall_exists_index, and_imp]
      exact ⟨fun a p hp e' => by rw [← e]; exact h.1 a p hp e', h.2⟩
    · split
      · rename_i _ hlt
        simp only [List.map_cons, List.pairwise_cons, List.mem_cons, List.mem_map, forall_eq_or_imp, forall_exists_index,
          and_imp]
        exact ⟨⟨hlt, fun a p hp e' => lt_trans hlt (h.1 a p hp e')⟩, fun a p hp e' => h.1 a p hp e', h.2⟩
      · rename_i hne hge
        simp only [List.map_cons, List.pairwise_cons, List.mem_map, forall_exists_index, and_imp]
        refine ⟨fun a p hp e' => ?_, ih h.2⟩
        rcases Map.mem_put rest k v p hp with hp | hp
        · subst hp; simp at e'; omega
        · exact h.1 a p hp e'

/-! ## Memory in canonical form (R139) -/

theorem memWf_filter (m : List Host.Cell) (f : Nat × Byte → Bool) (h : memWf m = true) : memWf (m.filter f) = true := by
  unfold memWf at *
  simp only [Bool.and_eq_true, List.all_eq_true] at *
  exact ⟨Map.sorted_filter m f h.1, fun p hp => h.2 p (List.mem_of_mem_filter hp)⟩

theorem memWf_putByte (m : List Host.Cell) (a : Nat) (b : Byte) (h : memWf m = true) : memWf (putByte m a b) = true := by
  unfold putByte
  split
  · exact memWf_filter m _ h
  · rename_i hb
    unfold memWf at *
    simp only [Bool.and_eq_true, List.all_eq_true] at *
    refine ⟨Map.sorted_put m a b h.1, fun p hp => ?_⟩
    rcases Map.mem_put m a b p hp with e | hp
    · subst e; simpa using hb
    · exact h.2 p hp

theorem memWf_putBytes (bs : List Byte) (m : List Host.Cell) (a : Nat) (h : memWf m = true) :
    memWf (putBytes m a bs) = true := by
  induction bs generalizing m a with
  | nil => exact h
  | cons b rest ih => exact ih _ _ (memWf_putByte m a b h)

theorem get_putByte (m : Map Byte) (a j : Nat) (b : Byte) :
    Map.get (putByte m a b) 0 j = if j = a then b else Map.get m 0 j := by
  unfold putByte
  split
  · rename_i hb
    simp only [Map.get, Map.find_drop]
    split
    · simp [hb]
    · rfl
  · by_cases e : j = a
    · subst e; simp
    · simp [Map.get_put_ne _ _ _ _ _ e, e]

/-! ## Tables -/

theorem Table.find_put_same {κ α : Type} [DecidableEq κ] (m : Table κ α) (k : κ) (v : α) :
    Table.find (Table.put m k v) k = some v := by
  induction m with
  | nil => simp [Table.put, Table.find]
  | cons p rest ih =>
    obtain ⟨k', v'⟩ := p
    unfold Table.put
    split
    · simp [Table.find]
    · rename_i h; simp [Table.find, h, ih]

theorem Table.find_put_ne {κ α : Type} [DecidableEq κ] (m : Table κ α) (k j : κ) (v : α) (h : j ≠ k) :
    Table.find (Table.put m k v) j = Table.find m j := by
  induction m with
  | nil => simp [Table.put, Table.find, h.symm]
  | cons p rest ih =>
    obtain ⟨k', v'⟩ := p
    unfold Table.put
    split
    · rename_i e; subst e; simp [Table.find, h.symm]
    · simp only [Table.find, ih]

@[simp] theorem Table.get_put_same {κ α : Type} [DecidableEq κ] (m : Table κ α) (d : α) (k : κ) (v : α) :
    Table.get (Table.put m k v) d k = v := by
  simp [Table.get, Table.find_put_same]

theorem Table.get_put_ne {κ α : Type} [DecidableEq κ] (m : Table κ α) (d : α) (k j : κ) (v : α) (h : j ≠ k) :
    Table.get (Table.put m k v) d j = Table.get m d j := by
  simp [Table.get, Table.find_put_ne m k j v h]

end Sys2Proof.Machine
end

