-- ==== Sys2Proof/Laws/State.lean ====
section
/-! SUPPORT. One lemma per field per update: what the updates of the state leave as it was, and what reads give after
them. -/

namespace Sys2Proof.Machine

/-! ## Fields that an update leaves -/

/-! ### setCtx -/

@[simp] theorem State.setCtx_cur (s : State) (c : CtxId) (x : CtxSt) : (s.setCtx c x).cur = s.cur := rfl
@[simp] theorem State.setCtx_agenda (s : State) (c : CtxId) (x : CtxSt) : (s.setCtx c x).agenda = s.agenda := rfl
@[simp] theorem State.setCtx_fresh (s : State) (c : CtxId) (x : CtxSt) : (s.setCtx c x).fresh = s.fresh := rfl
@[simp] theorem State.setCtx_cores (s : State) (c : CtxId) (x : CtxSt) : (s.setCtx c x).cores = s.cores := rfl
@[simp] theorem State.setCtx_dies (s : State) (c : CtxId) (x : CtxSt) : (s.setCtx c x).dies = s.dies := rfl
@[simp] theorem State.setCtx_mem (s : State) (c : CtxId) (x : CtxSt) : (s.setCtx c x).mem = s.mem := rfl
@[simp] theorem State.setCtx_net (s : State) (c : CtxId) (x : CtxSt) : (s.setCtx c x).net = s.net := rfl
@[simp] theorem State.setCtx_keys (s : State) (c : CtxId) (x : CtxSt) : (s.setCtx c x).keys = s.keys := rfl
@[simp] theorem State.setCtx_work (s : State) (c : CtxId) (x : CtxSt) : (s.setCtx c x).work = s.work := rfl
@[simp] theorem State.setCtx_dev (s : State) (c : CtxId) (x : CtxSt) : (s.setCtx c x).dev = s.dev := rfl
@[simp] theorem State.setCtx_sec (s : State) (c : CtxId) (x : CtxSt) : (s.setCtx c x).sec = s.sec := rfl
@[simp] theorem State.setCtx_pkg (s : State) (c : CtxId) (x : CtxSt) : (s.setCtx c x).pkg = s.pkg := rfl
@[simp] theorem State.setCtx_roots (s : State) (c : CtxId) (x : CtxSt) : (s.setCtx c x).roots = s.roots := rfl
@[simp] theorem State.setCtx_far (s : State) (c : CtxId) (x : CtxSt) : (s.setCtx c x).far = s.far := rfl

/-! ### onCtx -/

@[simp] theorem State.onCtx_cur (s : State) (c : CtxId) (f : CtxSt → CtxSt) : (s.onCtx c f).cur = s.cur := rfl
@[simp] theorem State.onCtx_agenda (s : State) (c : CtxId) (f : CtxSt → CtxSt) : (s.onCtx c f).agenda = s.agenda := rfl
@[simp] theorem State.onCtx_fresh (s : State) (c : CtxId) (f : CtxSt → CtxSt) : (s.onCtx c f).fresh = s.fresh := rfl
@[simp] theorem State.onCtx_cores (s : State) (c : CtxId) (f : CtxSt → CtxSt) : (s.onCtx c f).cores = s.cores := rfl
@[simp] theorem State.onCtx_dies (s : State) (c : CtxId) (f : CtxSt → CtxSt) : (s.onCtx c f).dies = s.dies := rfl
@[simp] theorem State.onCtx_mem (s : State) (c : CtxId) (f : CtxSt → CtxSt) : (s.onCtx c f).mem = s.mem := rfl
@[simp] theorem State.onCtx_net (s : State) (c : CtxId) (f : CtxSt → CtxSt) : (s.onCtx c f).net = s.net := rfl
@[simp] theorem State.onCtx_keys (s : State) (c : CtxId) (f : CtxSt → CtxSt) : (s.onCtx c f).keys = s.keys := rfl
@[simp] theorem State.onCtx_work (s : State) (c : CtxId) (f : CtxSt → CtxSt) : (s.onCtx c f).work = s.work := rfl
@[simp] theorem State.onCtx_dev (s : State) (c : CtxId) (f : CtxSt → CtxSt) : (s.onCtx c f).dev = s.dev := rfl
@[simp] theorem State.onCtx_sec (s : State) (c : CtxId) (f : CtxSt → CtxSt) : (s.onCtx c f).sec = s.sec := rfl
@[simp] theorem State.onCtx_pkg (s : State) (c : CtxId) (f : CtxSt → CtxSt) : (s.onCtx c f).pkg = s.pkg := rfl
@[simp] theorem State.onCtx_roots (s : State) (c : CtxId) (f : CtxSt → CtxSt) : (s.onCtx c f).roots = s.roots := rfl
@[simp] theorem State.onCtx_far (s : State) (c : CtxId) (f : CtxSt → CtxSt) : (s.onCtx c f).far = s.far := rfl

/-! ### setCore -/

@[simp] theorem State.setCore_cur (s : State) (c : CoreId) (x : CoreSt) : (s.setCore c x).cur = s.cur := rfl
@[simp] theorem State.setCore_agenda (s : State) (c : CoreId) (x : CoreSt) : (s.setCore c x).agenda = s.agenda := rfl
@[simp] theorem State.setCore_fresh (s : State) (c : CoreId) (x : CoreSt) : (s.setCore c x).fresh = s.fresh := rfl
@[simp] theorem State.setCore_ctxs (s : State) (c : CoreId) (x : CoreSt) : (s.setCore c x).ctxs = s.ctxs := rfl
@[simp] theorem State.setCore_dies (s : State) (c : CoreId) (x : CoreSt) : (s.setCore c x).dies = s.dies := rfl
@[simp] theorem State.setCore_mem (s : State) (c : CoreId) (x : CoreSt) : (s.setCore c x).mem = s.mem := rfl
@[simp] theorem State.setCore_net (s : State) (c : CoreId) (x : CoreSt) : (s.setCore c x).net = s.net := rfl
@[simp] theorem State.setCore_keys (s : State) (c : CoreId) (x : CoreSt) : (s.setCore c x).keys = s.keys := rfl
@[simp] theorem State.setCore_work (s : State) (c : CoreId) (x : CoreSt) : (s.setCore c x).work = s.work := rfl
@[simp] theorem State.setCore_dev (s : State) (c : CoreId) (x : CoreSt) : (s.setCore c x).dev = s.dev := rfl
@[simp] theorem State.setCore_sec (s : State) (c : CoreId) (x : CoreSt) : (s.setCore c x).sec = s.sec := rfl
@[simp] theorem State.setCore_pkg (s : State) (c : CoreId) (x : CoreSt) : (s.setCore c x).pkg = s.pkg := rfl
@[simp] theorem State.setCore_roots (s : State) (c : CoreId) (x : CoreSt) : (s.setCore c x).roots = s.roots := rfl
@[simp] theorem State.setCore_far (s : State) (c : CoreId) (x : CoreSt) : (s.setCore c x).far = s.far := rfl

/-! ### onCore -/

@[simp] theorem State.onCore_cur (s : State) (c : CoreId) (f : CoreSt → CoreSt) : (s.onCore c f).cur = s.cur := rfl
@[simp] theorem State.onCore_agenda (s : State) (c : CoreId) (f : CoreSt → CoreSt) : (s.onCore c f).agenda = s.agenda := rfl
@[simp] theorem State.onCore_fresh (s : State) (c : CoreId) (f : CoreSt → CoreSt) : (s.onCore c f).fresh = s.fresh := rfl
@[simp] theorem State.onCore_ctxs (s : State) (c : CoreId) (f : CoreSt → CoreSt) : (s.onCore c f).ctxs = s.ctxs := rfl
@[simp] theorem State.onCore_dies (s : State) (c : CoreId) (f : CoreSt → CoreSt) : (s.onCore c f).dies = s.dies := rfl
@[simp] theorem State.onCore_mem (s : State) (c : CoreId) (f : CoreSt → CoreSt) : (s.onCore c f).mem = s.mem := rfl
@[simp] theorem State.onCore_net (s : State) (c : CoreId) (f : CoreSt → CoreSt) : (s.onCore c f).net = s.net := rfl
@[simp] theorem State.onCore_keys (s : State) (c : CoreId) (f : CoreSt → CoreSt) : (s.onCore c f).keys = s.keys := rfl
@[simp] theorem State.onCore_work (s : State) (c : CoreId) (f : CoreSt → CoreSt) : (s.onCore c f).work = s.work := rfl
@[simp] theorem State.onCore_dev (s : State) (c : CoreId) (f : CoreSt → CoreSt) : (s.onCore c f).dev = s.dev := rfl
@[simp] theorem State.onCore_sec (s : State) (c : CoreId) (f : CoreSt → CoreSt) : (s.onCore c f).sec = s.sec := rfl
@[simp] theorem State.onCore_pkg (s : State) (c : CoreId) (f : CoreSt → CoreSt) : (s.onCore c f).pkg = s.pkg := rfl
@[simp] theorem State.onCore_roots (s : State) (c : CoreId) (f : CoreSt → CoreSt) : (s.onCore c f).roots = s.roots := rfl
@[simp] theorem State.onCore_far (s : State) (c : CoreId) (f : CoreSt → CoreSt) : (s.onCore c f).far = s.far := rfl

/-! ### onDie -/

@[simp] theorem State.onDie_cur (s : State) (d : Nat) (f : DieSt → DieSt) : (s.onDie d f).cur = s.cur := rfl
@[simp] theorem State.onDie_agenda (s : State) (d : Nat) (f : DieSt → DieSt) : (s.onDie d f).agenda = s.agenda := rfl
@[simp] theorem State.onDie_fresh (s : State) (d : Nat) (f : DieSt → DieSt) : (s.onDie d f).fresh = s.fresh := rfl
@[simp] theorem State.onDie_ctxs (s : State) (d : Nat) (f : DieSt → DieSt) : (s.onDie d f).ctxs = s.ctxs := rfl
@[simp] theorem State.onDie_cores (s : State) (d : Nat) (f : DieSt → DieSt) : (s.onDie d f).cores = s.cores := rfl
@[simp] theorem State.onDie_mem (s : State) (d : Nat) (f : DieSt → DieSt) : (s.onDie d f).mem = s.mem := rfl
@[simp] theorem State.onDie_net (s : State) (d : Nat) (f : DieSt → DieSt) : (s.onDie d f).net = s.net := rfl
@[simp] theorem State.onDie_keys (s : State) (d : Nat) (f : DieSt → DieSt) : (s.onDie d f).keys = s.keys := rfl
@[simp] theorem State.onDie_work (s : State) (d : Nat) (f : DieSt → DieSt) : (s.onDie d f).work = s.work := rfl
@[simp] theorem State.onDie_dev (s : State) (d : Nat) (f : DieSt → DieSt) : (s.onDie d f).dev = s.dev := rfl
@[simp] theorem State.onDie_sec (s : State) (d : Nat) (f : DieSt → DieSt) : (s.onDie d f).sec = s.sec := rfl
@[simp] theorem State.onDie_pkg (s : State) (d : Nat) (f : DieSt → DieSt) : (s.onDie d f).pkg = s.pkg := rfl
@[simp] theorem State.onDie_roots (s : State) (d : Nat) (f : DieSt → DieSt) : (s.onDie d f).roots = s.roots := rfl
@[simp] theorem State.onDie_far (s : State) (d : Nat) (f : DieSt → DieSt) : (s.onDie d f).far = s.far := rfl

/-! ### onMem -/

@[simp] theorem State.onMem_cur (s : State) (f : MemSt → MemSt) : (s.onMem f).cur = s.cur := rfl
@[simp] theorem State.onMem_agenda (s : State) (f : MemSt → MemSt) : (s.onMem f).agenda = s.agenda := rfl
@[simp] theorem State.onMem_fresh (s : State) (f : MemSt → MemSt) : (s.onMem f).fresh = s.fresh := rfl
@[simp] theorem State.onMem_ctxs (s : State) (f : MemSt → MemSt) : (s.onMem f).ctxs = s.ctxs := rfl
@[simp] theorem State.onMem_cores (s : State) (f : MemSt → MemSt) : (s.onMem f).cores = s.cores := rfl
@[simp] theorem State.onMem_dies (s : State) (f : MemSt → MemSt) : (s.onMem f).dies = s.dies := rfl
@[simp] theorem State.onMem_net (s : State) (f : MemSt → MemSt) : (s.onMem f).net = s.net := rfl
@[simp] theorem State.onMem_keys (s : State) (f : MemSt → MemSt) : (s.onMem f).keys = s.keys := rfl
@[simp] theorem State.onMem_work (s : State) (f : MemSt → MemSt) : (s.onMem f).work = s.work := rfl
@[simp] theorem State.onMem_dev (s : State) (f : MemSt → MemSt) : (s.onMem f).dev = s.dev := rfl
@[simp] theorem State.onMem_sec (s : State) (f : MemSt → MemSt) : (s.onMem f).sec = s.sec := rfl
@[simp] theorem State.onMem_pkg (s : State) (f : MemSt → MemSt) : (s.onMem f).pkg = s.pkg := rfl
@[simp] theorem State.onMem_roots (s : State) (f : MemSt → MemSt) : (s.onMem f).roots = s.roots := rfl
@[simp] theorem State.onMem_far (s : State) (f : MemSt → MemSt) : (s.onMem f).far = s.far := rfl

/-! ### onNet -/

@[simp] theorem State.onNet_cur (s : State) (f : NetSt → NetSt) : (s.onNet f).cur = s.cur := rfl
@[simp] theorem State.onNet_agenda (s : State) (f : NetSt → NetSt) : (s.onNet f).agenda = s.agenda := rfl
@[simp] theorem State.onNet_fresh (s : State) (f : NetSt → NetSt) : (s.onNet f).fresh = s.fresh := rfl
@[simp] theorem State.onNet_ctxs (s : State) (f : NetSt → NetSt) : (s.onNet f).ctxs = s.ctxs := rfl
@[simp] theorem State.onNet_cores (s : State) (f : NetSt → NetSt) : (s.onNet f).cores = s.cores := rfl
@[simp] theorem State.onNet_dies (s : State) (f : NetSt → NetSt) : (s.onNet f).dies = s.dies := rfl
@[simp] theorem State.onNet_mem (s : State) (f : NetSt → NetSt) : (s.onNet f).mem = s.mem := rfl
@[simp] theorem State.onNet_keys (s : State) (f : NetSt → NetSt) : (s.onNet f).keys = s.keys := rfl
@[simp] theorem State.onNet_work (s : State) (f : NetSt → NetSt) : (s.onNet f).work = s.work := rfl
@[simp] theorem State.onNet_dev (s : State) (f : NetSt → NetSt) : (s.onNet f).dev = s.dev := rfl
@[simp] theorem State.onNet_sec (s : State) (f : NetSt → NetSt) : (s.onNet f).sec = s.sec := rfl
@[simp] theorem State.onNet_pkg (s : State) (f : NetSt → NetSt) : (s.onNet f).pkg = s.pkg := rfl
@[simp] theorem State.onNet_roots (s : State) (f : NetSt → NetSt) : (s.onNet f).roots = s.roots := rfl
@[simp] theorem State.onNet_far (s : State) (f : NetSt → NetSt) : (s.onNet f).far = s.far := rfl

/-! ### onWork -/

@[simp] theorem State.onWork_cur (s : State) (f : WorkSt → WorkSt) : (s.onWork f).cur = s.cur := rfl
@[simp] theorem State.onWork_agenda (s : State) (f : WorkSt → WorkSt) : (s.onWork f).agenda = s.agenda := rfl
@[simp] theorem State.onWork_fresh (s : State) (f : WorkSt → WorkSt) : (s.onWork f).fresh = s.fresh := rfl
@[simp] theorem State.onWork_ctxs (s : State) (f : WorkSt → WorkSt) : (s.onWork f).ctxs = s.ctxs := rfl
@[simp] theorem State.onWork_cores (s : State) (f : WorkSt → WorkSt) : (s.onWork f).cores = s.cores := rfl
@[simp] theorem State.onWork_dies (s : State) (f : WorkSt → WorkSt) : (s.onWork f).dies = s.dies := rfl
@[simp] theorem State.onWork_mem (s : State) (f : WorkSt → WorkSt) : (s.onWork f).mem = s.mem := rfl
@[simp] theorem State.onWork_net (s : State) (f : WorkSt → WorkSt) : (s.onWork f).net = s.net := rfl
@[simp] theorem State.onWork_keys (s : State) (f : WorkSt → WorkSt) : (s.onWork f).keys = s.keys := rfl
@[simp] theorem State.onWork_dev (s : State) (f : WorkSt → WorkSt) : (s.onWork f).dev = s.dev := rfl
@[simp] theorem State.onWork_sec (s : State) (f : WorkSt → WorkSt) : (s.onWork f).sec = s.sec := rfl
@[simp] theorem State.onWork_pkg (s : State) (f : WorkSt → WorkSt) : (s.onWork f).pkg = s.pkg := rfl
@[simp] theorem State.onWork_roots (s : State) (f : WorkSt → WorkSt) : (s.onWork f).roots = s.roots := rfl
@[simp] theorem State.onWork_far (s : State) (f : WorkSt → WorkSt) : (s.onWork f).far = s.far := rfl

/-! ### onSec -/

@[simp] theorem State.onSec_cur (s : State) (f : SecSt → SecSt) : (s.onSec f).cur = s.cur := rfl
@[simp] theorem State.onSec_agenda (s : State) (f : SecSt → SecSt) : (s.onSec f).agenda = s.agenda := rfl
@[simp] theorem State.onSec_fresh (s : State) (f : SecSt → SecSt) : (s.onSec f).fresh = s.fresh := rfl
@[simp] theorem State.onSec_ctxs (s : State) (f : SecSt → SecSt) : (s.onSec f).ctxs = s.ctxs := rfl
@[simp] theorem State.onSec_cores (s : State) (f : SecSt → SecSt) : (s.onSec f).cores = s.cores := rfl
@[simp] theorem State.onSec_dies (s : State) (f : SecSt → SecSt) : (s.onSec f).dies = s.dies := rfl
@[simp] theorem State.onSec_mem (s : State) (f : SecSt → SecSt) : (s.onSec f).mem = s.mem := rfl
@[simp] theorem State.onSec_net (s : State) (f : SecSt → SecSt) : (s.onSec f).net = s.net := rfl
@[simp] theorem State.onSec_keys (s : State) (f : SecSt → SecSt) : (s.onSec f).keys = s.keys := rfl
@[simp] theorem State.onSec_work (s : State) (f : SecSt → SecSt) : (s.onSec f).work = s.work := rfl
@[simp] theorem State.onSec_dev (s : State) (f : SecSt → SecSt) : (s.onSec f).dev = s.dev := rfl
@[simp] theorem State.onSec_pkg (s : State) (f : SecSt → SecSt) : (s.onSec f).pkg = s.pkg := rfl
@[simp] theorem State.onSec_roots (s : State) (f : SecSt → SecSt) : (s.onSec f).roots = s.roots := rfl
@[simp] theorem State.onSec_far (s : State) (f : SecSt → SecSt) : (s.onSec f).far = s.far := rfl

/-! ### onKey -/

@[simp] theorem State.onKey_cur (s : State) (n : Nat) (f : KeySlot → KeySlot) : (s.onKey n f).cur = s.cur := rfl
@[simp] theorem State.onKey_agenda (s : State) (n : Nat) (f : KeySlot → KeySlot) : (s.onKey n f).agenda = s.agenda := rfl
@[simp] theorem State.onKey_fresh (s : State) (n : Nat) (f : KeySlot → KeySlot) : (s.onKey n f).fresh = s.fresh := rfl
@[simp] theorem State.onKey_ctxs (s : State) (n : Nat) (f : KeySlot → KeySlot) : (s.onKey n f).ctxs = s.ctxs := rfl
@[simp] theorem State.onKey_cores (s : State) (n : Nat) (f : KeySlot → KeySlot) : (s.onKey n f).cores = s.cores := rfl
@[simp] theorem State.onKey_dies (s : State) (n : Nat) (f : KeySlot → KeySlot) : (s.onKey n f).dies = s.dies := rfl
@[simp] theorem State.onKey_mem (s : State) (n : Nat) (f : KeySlot → KeySlot) : (s.onKey n f).mem = s.mem := rfl
@[simp] theorem State.onKey_net (s : State) (n : Nat) (f : KeySlot → KeySlot) : (s.onKey n f).net = s.net := rfl
@[simp] theorem State.onKey_work (s : State) (n : Nat) (f : KeySlot → KeySlot) : (s.onKey n f).work = s.work := rfl
@[simp] theorem State.onKey_dev (s : State) (n : Nat) (f : KeySlot → KeySlot) : (s.onKey n f).dev = s.dev := rfl
@[simp] theorem State.onKey_sec (s : State) (n : Nat) (f : KeySlot → KeySlot) : (s.onKey n f).sec = s.sec := rfl
@[simp] theorem State.onKey_pkg (s : State) (n : Nat) (f : KeySlot → KeySlot) : (s.onKey n f).pkg = s.pkg := rfl
@[simp] theorem State.onKey_roots (s : State) (n : Nat) (f : KeySlot → KeySlot) : (s.onKey n f).roots = s.roots := rfl
@[simp] theorem State.onKey_far (s : State) (n : Nat) (f : KeySlot → KeySlot) : (s.onKey n f).far = s.far := rfl

/-! ### onRegs -/

@[simp] theorem State.onRegs_cur (s : State) (c : CtxId) (f : Regs → Regs) : (s.onRegs c f).cur = s.cur := rfl
@[simp] theorem State.onRegs_agenda (s : State) (c : CtxId) (f : Regs → Regs) : (s.onRegs c f).agenda = s.agenda := rfl
@[simp] theorem State.onRegs_fresh (s : State) (c : CtxId) (f : Regs → Regs) : (s.onRegs c f).fresh = s.fresh := rfl
@[simp] theorem State.onRegs_cores (s : State) (c : CtxId) (f : Regs → Regs) : (s.onRegs c f).cores = s.cores := rfl
@[simp] theorem State.onRegs_dies (s : State) (c : CtxId) (f : Regs → Regs) : (s.onRegs c f).dies = s.dies := rfl
@[simp] theorem State.onRegs_mem (s : State) (c : CtxId) (f : Regs → Regs) : (s.onRegs c f).mem = s.mem := rfl
@[simp] theorem State.onRegs_net (s : State) (c : CtxId) (f : Regs → Regs) : (s.onRegs c f).net = s.net := rfl
@[simp] theorem State.onRegs_keys (s : State) (c : CtxId) (f : Regs → Regs) : (s.onRegs c f).keys = s.keys := rfl
@[simp] theorem State.onRegs_work (s : State) (c : CtxId) (f : Regs → Regs) : (s.onRegs c f).work = s.work := rfl
@[simp] theorem State.onRegs_dev (s : State) (c : CtxId) (f : Regs → Regs) : (s.onRegs c f).dev = s.dev := rfl
@[simp] theorem State.onRegs_sec (s : State) (c : CtxId) (f : Regs → Regs) : (s.onRegs c f).sec = s.sec := rfl
@[simp] theorem State.onRegs_pkg (s : State) (c : CtxId) (f : Regs → Regs) : (s.onRegs c f).pkg = s.pkg := rfl
@[simp] theorem State.onRegs_roots (s : State) (c : CtxId) (f : Regs → Regs) : (s.onRegs c f).roots = s.roots := rfl
@[simp] theorem State.onRegs_far (s : State) (c : CtxId) (f : Regs → Regs) : (s.onRegs c f).far = s.far := rfl

/-! ### onCtl -/

@[simp] theorem State.onCtl_cur (s : State) (c : CtxId) (f : Ctl → Ctl) : (s.onCtl c f).cur = s.cur := rfl
@[simp] theorem State.onCtl_agenda (s : State) (c : CtxId) (f : Ctl → Ctl) : (s.onCtl c f).agenda = s.agenda := rfl
@[simp] theorem State.onCtl_fresh (s : State) (c : CtxId) (f : Ctl → Ctl) : (s.onCtl c f).fresh = s.fresh := rfl
@[simp] theorem State.onCtl_cores (s : State) (c : CtxId) (f : Ctl → Ctl) : (s.onCtl c f).cores = s.cores := rfl
@[simp] theorem State.onCtl_dies (s : State) (c : CtxId) (f : Ctl → Ctl) : (s.onCtl c f).dies = s.dies := rfl
@[simp] theorem State.onCtl_mem (s : State) (c : CtxId) (f : Ctl → Ctl) : (s.onCtl c f).mem = s.mem := rfl
@[simp] theorem State.onCtl_net (s : State) (c : CtxId) (f : Ctl → Ctl) : (s.onCtl c f).net = s.net := rfl
@[simp] theorem State.onCtl_keys (s : State) (c : CtxId) (f : Ctl → Ctl) : (s.onCtl c f).keys = s.keys := rfl
@[simp] theorem State.onCtl_work (s : State) (c : CtxId) (f : Ctl → Ctl) : (s.onCtl c f).work = s.work := rfl
@[simp] theorem State.onCtl_dev (s : State) (c : CtxId) (f : Ctl → Ctl) : (s.onCtl c f).dev = s.dev := rfl
@[simp] theorem State.onCtl_sec (s : State) (c : CtxId) (f : Ctl → Ctl) : (s.onCtl c f).sec = s.sec := rfl
@[simp] theorem State.onCtl_pkg (s : State) (c : CtxId) (f : Ctl → Ctl) : (s.onCtl c f).pkg = s.pkg := rfl
@[simp] theorem State.onCtl_roots (s : State) (c : CtxId) (f : Ctl → Ctl) : (s.onCtl c f).roots = s.roots := rfl
@[simp] theorem State.onCtl_far (s : State) (c : CtxId) (f : Ctl → Ctl) : (s.onCtl c f).far = s.far := rfl

/-! ### onWait -/

@[simp] theorem State.onWait_cur (s : State) (c : CtxId) (f : Wait → Wait) : (s.onWait c f).cur = s.cur := rfl
@[simp] theorem State.onWait_agenda (s : State) (c : CtxId) (f : Wait → Wait) : (s.onWait c f).agenda = s.agenda := rfl
@[simp] theorem State.onWait_fresh (s : State) (c : CtxId) (f : Wait → Wait) : (s.onWait c f).fresh = s.fresh := rfl
@[simp] theorem State.onWait_cores (s : State) (c : CtxId) (f : Wait → Wait) : (s.onWait c f).cores = s.cores := rfl
@[simp] theorem State.onWait_dies (s : State) (c : CtxId) (f : Wait → Wait) : (s.onWait c f).dies = s.dies := rfl
@[simp] theorem State.onWait_mem (s : State) (c : CtxId) (f : Wait → Wait) : (s.onWait c f).mem = s.mem := rfl
@[simp] theorem State.onWait_net (s : State) (c : CtxId) (f : Wait → Wait) : (s.onWait c f).net = s.net := rfl
@[simp] theorem State.onWait_keys (s : State) (c : CtxId) (f : Wait → Wait) : (s.onWait c f).keys = s.keys := rfl
@[simp] theorem State.onWait_work (s : State) (c : CtxId) (f : Wait → Wait) : (s.onWait c f).work = s.work := rfl
@[simp] theorem State.onWait_dev (s : State) (c : CtxId) (f : Wait → Wait) : (s.onWait c f).dev = s.dev := rfl
@[simp] theorem State.onWait_sec (s : State) (c : CtxId) (f : Wait → Wait) : (s.onWait c f).sec = s.sec := rfl
@[simp] theorem State.onWait_pkg (s : State) (c : CtxId) (f : Wait → Wait) : (s.onWait c f).pkg = s.pkg := rfl
@[simp] theorem State.onWait_roots (s : State) (c : CtxId) (f : Wait → Wait) : (s.onWait c f).roots = s.roots := rfl
@[simp] theorem State.onWait_far (s : State) (c : CtxId) (f : Wait → Wait) : (s.onWait c f).far = s.far := rfl

/-! ### onOrder -/

@[simp] theorem State.onOrder_cur (s : State) (c : CtxId) (f : Order → Order) : (s.onOrder c f).cur = s.cur := rfl
@[simp] theorem State.onOrder_agenda (s : State) (c : CtxId) (f : Order → Order) : (s.onOrder c f).agenda = s.agenda := rfl
@[simp] theorem State.onOrder_fresh (s : State) (c : CtxId) (f : Order → Order) : (s.onOrder c f).fresh = s.fresh := rfl
@[simp] theorem State.onOrder_cores (s : State) (c : CtxId) (f : Order → Order) : (s.onOrder c f).cores = s.cores := rfl
@[simp] theorem State.onOrder_dies (s : State) (c : CtxId) (f : Order → Order) : (s.onOrder c f).dies = s.dies := rfl
@[simp] theorem State.onOrder_mem (s : State) (c : CtxId) (f : Order → Order) : (s.onOrder c f).mem = s.mem := rfl
@[simp] theorem State.onOrder_net (s : State) (c : CtxId) (f : Order → Order) : (s.onOrder c f).net = s.net := rfl
@[simp] theorem State.onOrder_keys (s : State) (c : CtxId) (f : Order → Order) : (s.onOrder c f).keys = s.keys := rfl
@[simp] theorem State.onOrder_work (s : State) (c : CtxId) (f : Order → Order) : (s.onOrder c f).work = s.work := rfl
@[simp] theorem State.onOrder_dev (s : State) (c : CtxId) (f : Order → Order) : (s.onOrder c f).dev = s.dev := rfl
@[simp] theorem State.onOrder_sec (s : State) (c : CtxId) (f : Order → Order) : (s.onOrder c f).sec = s.sec := rfl
@[simp] theorem State.onOrder_pkg (s : State) (c : CtxId) (f : Order → Order) : (s.onOrder c f).pkg = s.pkg := rfl
@[simp] theorem State.onOrder_roots (s : State) (c : CtxId) (f : Order → Order) : (s.onOrder c f).roots = s.roots := rfl
@[simp] theorem State.onOrder_far (s : State) (c : CtxId) (f : Order → Order) : (s.onOrder c f).far = s.far := rfl

/-! ### onUnit -/

@[simp] theorem State.onUnit_cur (s : State) (c : CtxId) (f : UnitRef → UnitRef) : (s.onUnit c f).cur = s.cur := rfl
@[simp] theorem State.onUnit_agenda (s : State) (c : CtxId) (f : UnitRef → UnitRef) : (s.onUnit c f).agenda = s.agenda := rfl
@[simp] theorem State.onUnit_fresh (s : State) (c : CtxId) (f : UnitRef → UnitRef) : (s.onUnit c f).fresh = s.fresh := rfl
@[simp] theorem State.onUnit_cores (s : State) (c : CtxId) (f : UnitRef → UnitRef) : (s.onUnit c f).cores = s.cores := rfl
@[simp] theorem State.onUnit_dies (s : State) (c : CtxId) (f : UnitRef → UnitRef) : (s.onUnit c f).dies = s.dies := rfl
@[simp] theorem State.onUnit_mem (s : State) (c : CtxId) (f : UnitRef → UnitRef) : (s.onUnit c f).mem = s.mem := rfl
@[simp] theorem State.onUnit_net (s : State) (c : CtxId) (f : UnitRef → UnitRef) : (s.onUnit c f).net = s.net := rfl
@[simp] theorem State.onUnit_keys (s : State) (c : CtxId) (f : UnitRef → UnitRef) : (s.onUnit c f).keys = s.keys := rfl
@[simp] theorem State.onUnit_work (s : State) (c : CtxId) (f : UnitRef → UnitRef) : (s.onUnit c f).work = s.work := rfl
@[simp] theorem State.onUnit_dev (s : State) (c : CtxId) (f : UnitRef → UnitRef) : (s.onUnit c f).dev = s.dev := rfl
@[simp] theorem State.onUnit_sec (s : State) (c : CtxId) (f : UnitRef → UnitRef) : (s.onUnit c f).sec = s.sec := rfl
@[simp] theorem State.onUnit_pkg (s : State) (c : CtxId) (f : UnitRef → UnitRef) : (s.onUnit c f).pkg = s.pkg := rfl
@[simp] theorem State.onUnit_roots (s : State) (c : CtxId) (f : UnitRef → UnitRef) : (s.onUnit c f).roots = s.roots := rfl
@[simp] theorem State.onUnit_far (s : State) (c : CtxId) (f : UnitRef → UnitRef) : (s.onUnit c f).far = s.far := rfl

/-! ### setG -/

@[simp] theorem State.setG_cur (s : State) (c : CtxId) (n : GReg) (v : Word) : (s.setG c n v).cur = s.cur := rfl
@[simp] theorem State.setG_agenda (s : State) (c : CtxId) (n : GReg) (v : Word) : (s.setG c n v).agenda = s.agenda := rfl
@[simp] theorem State.setG_fresh (s : State) (c : CtxId) (n : GReg) (v : Word) : (s.setG c n v).fresh = s.fresh := rfl
@[simp] theorem State.setG_cores (s : State) (c : CtxId) (n : GReg) (v : Word) : (s.setG c n v).cores = s.cores := rfl
@[simp] theorem State.setG_dies (s : State) (c : CtxId) (n : GReg) (v : Word) : (s.setG c n v).dies = s.dies := rfl
@[simp] theorem State.setG_mem (s : State) (c : CtxId) (n : GReg) (v : Word) : (s.setG c n v).mem = s.mem := rfl
@[simp] theorem State.setG_net (s : State) (c : CtxId) (n : GReg) (v : Word) : (s.setG c n v).net = s.net := rfl
@[simp] theorem State.setG_keys (s : State) (c : CtxId) (n : GReg) (v : Word) : (s.setG c n v).keys = s.keys := rfl
@[simp] theorem State.setG_work (s : State) (c : CtxId) (n : GReg) (v : Word) : (s.setG c n v).work = s.work := rfl
@[simp] theorem State.setG_dev (s : State) (c : CtxId) (n : GReg) (v : Word) : (s.setG c n v).dev = s.dev := rfl
@[simp] theorem State.setG_sec (s : State) (c : CtxId) (n : GReg) (v : Word) : (s.setG c n v).sec = s.sec := rfl
@[simp] theorem State.setG_pkg (s : State) (c : CtxId) (n : GReg) (v : Word) : (s.setG c n v).pkg = s.pkg := rfl
@[simp] theorem State.setG_roots (s : State) (c : CtxId) (n : GReg) (v : Word) : (s.setG c n v).roots = s.roots := rfl
@[simp] theorem State.setG_far (s : State) (c : CtxId) (n : GReg) (v : Word) : (s.setG c n v).far = s.far := rfl

/-! ### setK -/

@[simp] theorem State.setK_cur (s : State) (c : CtxId) (n : KReg) (v : Word) : (s.setK c n v).cur = s.cur := rfl
@[simp] theorem State.setK_agenda (s : State) (c : CtxId) (n : KReg) (v : Word) : (s.setK c n v).agenda = s.agenda := rfl
@[simp] theorem State.setK_fresh (s : State) (c : CtxId) (n : KReg) (v : Word) : (s.setK c n v).fresh = s.fresh := rfl
@[simp] theorem State.setK_cores (s : State) (c : CtxId) (n : KReg) (v : Word) : (s.setK c n v).cores = s.cores := rfl
@[simp] theorem State.setK_dies (s : State) (c : CtxId) (n : KReg) (v : Word) : (s.setK c n v).dies = s.dies := rfl
@[simp] theorem State.setK_mem (s : State) (c : CtxId) (n : KReg) (v : Word) : (s.setK c n v).mem = s.mem := rfl
@[simp] theorem State.setK_net (s : State) (c : CtxId) (n : KReg) (v : Word) : (s.setK c n v).net = s.net := rfl
@[simp] theorem State.setK_keys (s : State) (c : CtxId) (n : KReg) (v : Word) : (s.setK c n v).keys = s.keys := rfl
@[simp] theorem State.setK_work (s : State) (c : CtxId) (n : KReg) (v : Word) : (s.setK c n v).work = s.work := rfl
@[simp] theorem State.setK_dev (s : State) (c : CtxId) (n : KReg) (v : Word) : (s.setK c n v).dev = s.dev := rfl
@[simp] theorem State.setK_sec (s : State) (c : CtxId) (n : KReg) (v : Word) : (s.setK c n v).sec = s.sec := rfl
@[simp] theorem State.setK_pkg (s : State) (c : CtxId) (n : KReg) (v : Word) : (s.setK c n v).pkg = s.pkg := rfl
@[simp] theorem State.setK_roots (s : State) (c : CtxId) (n : KReg) (v : Word) : (s.setK c n v).roots = s.roots := rfl
@[simp] theorem State.setK_far (s : State) (c : CtxId) (n : KReg) (v : Word) : (s.setK c n v).far = s.far := rfl

/-! ### setV -/

@[simp] theorem State.setV_cur (s : State) (c : CtxId) (n : VReg) (v : Vec) : (s.setV c n v).cur = s.cur := rfl
@[simp] theorem State.setV_agenda (s : State) (c : CtxId) (n : VReg) (v : Vec) : (s.setV c n v).agenda = s.agenda := rfl
@[simp] theorem State.setV_fresh (s : State) (c : CtxId) (n : VReg) (v : Vec) : (s.setV c n v).fresh = s.fresh := rfl
@[simp] theorem State.setV_cores (s : State) (c : CtxId) (n : VReg) (v : Vec) : (s.setV c n v).cores = s.cores := rfl
@[simp] theorem State.setV_dies (s : State) (c : CtxId) (n : VReg) (v : Vec) : (s.setV c n v).dies = s.dies := rfl
@[simp] theorem State.setV_mem (s : State) (c : CtxId) (n : VReg) (v : Vec) : (s.setV c n v).mem = s.mem := rfl
@[simp] theorem State.setV_net (s : State) (c : CtxId) (n : VReg) (v : Vec) : (s.setV c n v).net = s.net := rfl
@[simp] theorem State.setV_keys (s : State) (c : CtxId) (n : VReg) (v : Vec) : (s.setV c n v).keys = s.keys := rfl
@[simp] theorem State.setV_work (s : State) (c : CtxId) (n : VReg) (v : Vec) : (s.setV c n v).work = s.work := rfl
@[simp] theorem State.setV_dev (s : State) (c : CtxId) (n : VReg) (v : Vec) : (s.setV c n v).dev = s.dev := rfl
@[simp] theorem State.setV_sec (s : State) (c : CtxId) (n : VReg) (v : Vec) : (s.setV c n v).sec = s.sec := rfl
@[simp] theorem State.setV_pkg (s : State) (c : CtxId) (n : VReg) (v : Vec) : (s.setV c n v).pkg = s.pkg := rfl
@[simp] theorem State.setV_roots (s : State) (c : CtxId) (n : VReg) (v : Vec) : (s.setV c n v).roots = s.roots := rfl
@[simp] theorem State.setV_far (s : State) (c : CtxId) (n : VReg) (v : Vec) : (s.setV c n v).far = s.far := rfl

/-! ### push -/

@[simp] theorem State.push_cur (s : State) (c : CtxId) (x : Latch) : (s.push c x).cur = s.cur := rfl
@[simp] theorem State.push_agenda (s : State) (c : CtxId) (x : Latch) : (s.push c x).agenda = s.agenda := rfl
@[simp] theorem State.push_fresh (s : State) (c : CtxId) (x : Latch) : (s.push c x).fresh = s.fresh := rfl
@[simp] theorem State.push_cores (s : State) (c : CtxId) (x : Latch) : (s.push c x).cores = s.cores := rfl
@[simp] theorem State.push_dies (s : State) (c : CtxId) (x : Latch) : (s.push c x).dies = s.dies := rfl
@[simp] theorem State.push_mem (s : State) (c : CtxId) (x : Latch) : (s.push c x).mem = s.mem := rfl
@[simp] theorem State.push_net (s : State) (c : CtxId) (x : Latch) : (s.push c x).net = s.net := rfl
@[simp] theorem State.push_keys (s : State) (c : CtxId) (x : Latch) : (s.push c x).keys = s.keys := rfl
@[simp] theorem State.push_work (s : State) (c : CtxId) (x : Latch) : (s.push c x).work = s.work := rfl
@[simp] theorem State.push_dev (s : State) (c : CtxId) (x : Latch) : (s.push c x).dev = s.dev := rfl
@[simp] theorem State.push_sec (s : State) (c : CtxId) (x : Latch) : (s.push c x).sec = s.sec := rfl
@[simp] theorem State.push_pkg (s : State) (c : CtxId) (x : Latch) : (s.push c x).pkg = s.pkg := rfl
@[simp] theorem State.push_roots (s : State) (c : CtxId) (x : Latch) : (s.push c x).roots = s.roots := rfl
@[simp] theorem State.push_far (s : State) (c : CtxId) (x : Latch) : (s.push c x).far = s.far := rfl

/-! ### invalidate -/

@[simp] theorem State.invalidate_cur (s : State) (c : CtxId) : (s.invalidate c).cur = s.cur := rfl
@[simp] theorem State.invalidate_agenda (s : State) (c : CtxId) : (s.invalidate c).agenda = s.agenda := rfl
@[simp] theorem State.invalidate_fresh (s : State) (c : CtxId) : (s.invalidate c).fresh = s.fresh := rfl
@[simp] theorem State.invalidate_cores (s : State) (c : CtxId) : (s.invalidate c).cores = s.cores := rfl
@[simp] theorem State.invalidate_dies (s : State) (c : CtxId) : (s.invalidate c).dies = s.dies := rfl
@[simp] theorem State.invalidate_mem (s : State) (c : CtxId) : (s.invalidate c).mem = s.mem := rfl
@[simp] theorem State.invalidate_net (s : State) (c : CtxId) : (s.invalidate c).net = s.net := rfl
@[simp] theorem State.invalidate_keys (s : State) (c : CtxId) : (s.invalidate c).keys = s.keys := rfl
@[simp] theorem State.invalidate_work (s : State) (c : CtxId) : (s.invalidate c).work = s.work := rfl
@[simp] theorem State.invalidate_dev (s : State) (c : CtxId) : (s.invalidate c).dev = s.dev := rfl
@[simp] theorem State.invalidate_sec (s : State) (c : CtxId) : (s.invalidate c).sec = s.sec := rfl
@[simp] theorem State.invalidate_pkg (s : State) (c : CtxId) : (s.invalidate c).pkg = s.pkg := rfl
@[simp] theorem State.invalidate_roots (s : State) (c : CtxId) : (s.invalidate c).roots = s.roots := rfl
@[simp] theorem State.invalidate_far (s : State) (c : CtxId) : (s.invalidate c).far = s.far := rfl

/-! ### setPc -/

@[simp] theorem State.setPc_cur (s : State) (c : CtxId) (a : Word) : (s.setPc c a).cur = s.cur := rfl
@[simp] theorem State.setPc_agenda (s : State) (c : CtxId) (a : Word) : (s.setPc c a).agenda = s.agenda := rfl
@[simp] theorem State.setPc_fresh (s : State) (c : CtxId) (a : Word) : (s.setPc c a).fresh = s.fresh := rfl
@[simp] theorem State.setPc_cores (s : State) (c : CtxId) (a : Word) : (s.setPc c a).cores = s.cores := rfl
@[simp] theorem State.setPc_dies (s : State) (c : CtxId) (a : Word) : (s.setPc c a).dies = s.dies := rfl
@[simp] theorem State.setPc_mem (s : State) (c : CtxId) (a : Word) : (s.setPc c a).mem = s.mem := rfl
@[simp] theorem State.setPc_net (s : State) (c : CtxId) (a : Word) : (s.setPc c a).net = s.net := rfl
@[simp] theorem State.setPc_keys (s : State) (c : CtxId) (a : Word) : (s.setPc c a).keys = s.keys := rfl
@[simp] theorem State.setPc_work (s : State) (c : CtxId) (a : Word) : (s.setPc c a).work = s.work := rfl
@[simp] theorem State.setPc_dev (s : State) (c : CtxId) (a : Word) : (s.setPc c a).dev = s.dev := rfl
@[simp] theorem State.setPc_sec (s : State) (c : CtxId) (a : Word) : (s.setPc c a).sec = s.sec := rfl
@[simp] theorem State.setPc_pkg (s : State) (c : CtxId) (a : Word) : (s.setPc c a).pkg = s.pkg := rfl
@[simp] theorem State.setPc_roots (s : State) (c : CtxId) (a : Word) : (s.setPc c a).roots = s.roots := rfl
@[simp] theorem State.setPc_far (s : State) (c : CtxId) (a : Word) : (s.setPc c a).far = s.far := rfl

/-! ### onSlot -/

@[simp] theorem State.onSlot_cur (s : State) (d n : Nat) (f : SlotSt → SlotSt) : (s.onSlot d n f).cur = s.cur := rfl
@[simp] theorem State.onSlot_agenda (s : State) (d n : Nat) (f : SlotSt → SlotSt) : (s.onSlot d n f).agenda = s.agenda := rfl
@[simp] theorem State.onSlot_fresh (s : State) (d n : Nat) (f : SlotSt → SlotSt) : (s.onSlot d n f).fresh = s.fresh := rfl
@[simp] theorem State.onSlot_ctxs (s : State) (d n : Nat) (f : SlotSt → SlotSt) : (s.onSlot d n f).ctxs = s.ctxs := rfl
@[simp] theorem State.onSlot_cores (s : State) (d n : Nat) (f : SlotSt → SlotSt) : (s.onSlot d n f).cores = s.cores := rfl
@[simp] theorem State.onSlot_mem (s : State) (d n : Nat) (f : SlotSt → SlotSt) : (s.onSlot d n f).mem = s.mem := rfl
@[simp] theorem State.onSlot_net (s : State) (d n : Nat) (f : SlotSt → SlotSt) : (s.onSlot d n f).net = s.net := rfl
@[simp] theorem State.onSlot_keys (s : State) (d n : Nat) (f : SlotSt → SlotSt) : (s.onSlot d n f).keys = s.keys := rfl
@[simp] theorem State.onSlot_work (s : State) (d n : Nat) (f : SlotSt → SlotSt) : (s.onSlot d n f).work = s.work := rfl
@[simp] theorem State.onSlot_dev (s : State) (d n : Nat) (f : SlotSt → SlotSt) : (s.onSlot d n f).dev = s.dev := rfl
@[simp] theorem State.onSlot_sec (s : State) (d n : Nat) (f : SlotSt → SlotSt) : (s.onSlot d n f).sec = s.sec := rfl
@[simp] theorem State.onSlot_pkg (s : State) (d n : Nat) (f : SlotSt → SlotSt) : (s.onSlot d n f).pkg = s.pkg := rfl
@[simp] theorem State.onSlot_roots (s : State) (d n : Nat) (f : SlotSt → SlotSt) : (s.onSlot d n f).roots = s.roots := rfl
@[simp] theorem State.onSlot_far (s : State) (d n : Nat) (f : SlotSt → SlotSt) : (s.onSlot d n f).far = s.far := rfl

/-! ### notify -/

@[simp] theorem State.notify_cur (s : State) (d : Nat) (n : Notice) : (s.notify d n).cur = s.cur := rfl
@[simp] theorem State.notify_agenda (s : State) (d : Nat) (n : Notice) : (s.notify d n).agenda = s.agenda := rfl
@[simp] theorem State.notify_fresh (s : State) (d : Nat) (n : Notice) : (s.notify d n).fresh = s.fresh := rfl
@[simp] theorem State.notify_ctxs (s : State) (d : Nat) (n : Notice) : (s.notify d n).ctxs = s.ctxs := rfl
@[simp] theorem State.notify_cores (s : State) (d : Nat) (n : Notice) : (s.notify d n).cores = s.cores := rfl
@[simp] theorem State.notify_mem (s : State) (d : Nat) (n : Notice) : (s.notify d n).mem = s.mem := rfl
@[simp] theorem State.notify_net (s : State) (d : Nat) (n : Notice) : (s.notify d n).net = s.net := rfl
@[simp] theorem State.notify_keys (s : State) (d : Nat) (n : Notice) : (s.notify d n).keys = s.keys := rfl
@[simp] theorem State.notify_work (s : State) (d : Nat) (n : Notice) : (s.notify d n).work = s.work := rfl
@[simp] theorem State.notify_dev (s : State) (d : Nat) (n : Notice) : (s.notify d n).dev = s.dev := rfl
@[simp] theorem State.notify_sec (s : State) (d : Nat) (n : Notice) : (s.notify d n).sec = s.sec := rfl
@[simp] theorem State.notify_pkg (s : State) (d : Nat) (n : Notice) : (s.notify d n).pkg = s.pkg := rfl
@[simp] theorem State.notify_roots (s : State) (d : Nat) (n : Notice) : (s.notify d n).roots = s.roots := rfl
@[simp] theorem State.notify_far (s : State) (d : Nat) (n : Notice) : (s.notify d n).far = s.far := rfl

/-! ### onSched -/

@[simp] theorem State.onSched_cur (s : State) (d : Nat) (f : SchedSt → SchedSt) : (s.onSched d f).cur = s.cur := rfl
@[simp] theorem State.onSched_agenda (s : State) (d : Nat) (f : SchedSt → SchedSt) : (s.onSched d f).agenda = s.agenda := rfl
@[simp] theorem State.onSched_fresh (s : State) (d : Nat) (f : SchedSt → SchedSt) : (s.onSched d f).fresh = s.fresh := rfl
@[simp] theorem State.onSched_ctxs (s : State) (d : Nat) (f : SchedSt → SchedSt) : (s.onSched d f).ctxs = s.ctxs := rfl
@[simp] theorem State.onSched_cores (s : State) (d : Nat) (f : SchedSt → SchedSt) : (s.onSched d f).cores = s.cores := rfl
@[simp] theorem State.onSched_mem (s : State) (d : Nat) (f : SchedSt → SchedSt) : (s.onSched d f).mem = s.mem := rfl
@[simp] theorem State.onSched_net (s : State) (d : Nat) (f : SchedSt → SchedSt) : (s.onSched d f).net = s.net := rfl
@[simp] theorem State.onSched_keys (s : State) (d : Nat) (f : SchedSt → SchedSt) : (s.onSched d f).keys = s.keys := rfl
@[simp] theorem State.onSched_work (s : State) (d : Nat) (f : SchedSt → SchedSt) : (s.onSched d f).work = s.work := rfl
@[simp] theorem State.onSched_dev (s : State) (d : Nat) (f : SchedSt → SchedSt) : (s.onSched d f).dev = s.dev := rfl
@[simp] theorem State.onSched_sec (s : State) (d : Nat) (f : SchedSt → SchedSt) : (s.onSched d f).sec = s.sec := rfl
@[simp] theorem State.onSched_pkg (s : State) (d : Nat) (f : SchedSt → SchedSt) : (s.onSched d f).pkg = s.pkg := rfl
@[simp] theorem State.onSched_roots (s : State) (d : Nat) (f : SchedSt → SchedSt) : (s.onSched d f).roots = s.roots := rfl
@[simp] theorem State.onSched_far (s : State) (d : Nat) (f : SchedSt → SchedSt) : (s.onSched d f).far = s.far := rfl

/-! ### onMgmt -/

@[simp] theorem State.onMgmt_cur (s : State) (d : Nat) (f : MgmtSt → MgmtSt) : (s.onMgmt d f).cur = s.cur := rfl
@[simp] theorem State.onMgmt_agenda (s : State) (d : Nat) (f : MgmtSt → MgmtSt) : (s.onMgmt d f).agenda = s.agenda := rfl
@[simp] theorem State.onMgmt_fresh (s : State) (d : Nat) (f : MgmtSt → MgmtSt) : (s.onMgmt d f).fresh = s.fresh := rfl
@[simp] theorem State.onMgmt_ctxs (s : State) (d : Nat) (f : MgmtSt → MgmtSt) : (s.onMgmt d f).ctxs = s.ctxs := rfl
@[simp] theorem State.onMgmt_cores (s : State) (d : Nat) (f : MgmtSt → MgmtSt) : (s.onMgmt d f).cores = s.cores := rfl
@[simp] theorem State.onMgmt_mem (s : State) (d : Nat) (f : MgmtSt → MgmtSt) : (s.onMgmt d f).mem = s.mem := rfl
@[simp] theorem State.onMgmt_net (s : State) (d : Nat) (f : MgmtSt → MgmtSt) : (s.onMgmt d f).net = s.net := rfl
@[simp] theorem State.onMgmt_keys (s : State) (d : Nat) (f : MgmtSt → MgmtSt) : (s.onMgmt d f).keys = s.keys := rfl
@[simp] theorem State.onMgmt_work (s : State) (d : Nat) (f : MgmtSt → MgmtSt) : (s.onMgmt d f).work = s.work := rfl
@[simp] theorem State.onMgmt_dev (s : State) (d : Nat) (f : MgmtSt → MgmtSt) : (s.onMgmt d f).dev = s.dev := rfl
@[simp] theorem State.onMgmt_sec (s : State) (d : Nat) (f : MgmtSt → MgmtSt) : (s.onMgmt d f).sec = s.sec := rfl
@[simp] theorem State.onMgmt_pkg (s : State) (d : Nat) (f : MgmtSt → MgmtSt) : (s.onMgmt d f).pkg = s.pkg := rfl
@[simp] theorem State.onMgmt_roots (s : State) (d : Nat) (f : MgmtSt → MgmtSt) : (s.onMgmt d f).roots = s.roots := rfl
@[simp] theorem State.onMgmt_far (s : State) (d : Nat) (f : MgmtSt → MgmtSt) : (s.onMgmt d f).far = s.far := rfl

/-! ### bump -/

@[simp] theorem State.bump_cur (s : State) : (s.bump).cur = s.cur := rfl
@[simp] theorem State.bump_agenda (s : State) : (s.bump).agenda = s.agenda := rfl
@[simp] theorem State.bump_ctxs (s : State) : (s.bump).ctxs = s.ctxs := rfl
@[simp] theorem State.bump_cores (s : State) : (s.bump).cores = s.cores := rfl
@[simp] theorem State.bump_dies (s : State) : (s.bump).dies = s.dies := rfl
@[simp] theorem State.bump_mem (s : State) : (s.bump).mem = s.mem := rfl
@[simp] theorem State.bump_net (s : State) : (s.bump).net = s.net := rfl
@[simp] theorem State.bump_keys (s : State) : (s.bump).keys = s.keys := rfl
@[simp] theorem State.bump_work (s : State) : (s.bump).work = s.work := rfl
@[simp] theorem State.bump_dev (s : State) : (s.bump).dev = s.dev := rfl
@[simp] theorem State.bump_sec (s : State) : (s.bump).sec = s.sec := rfl
@[simp] theorem State.bump_pkg (s : State) : (s.bump).pkg = s.pkg := rfl
@[simp] theorem State.bump_roots (s : State) : (s.bump).roots = s.roots := rfl
@[simp] theorem State.bump_far (s : State) : (s.bump).far = s.far := rfl

/-! ## Reads after an update -/

@[simp] theorem State.setCtx_ctx (s : State) (c : CtxId) (x : CtxSt) : (s.setCtx c x).ctx c = x := by
  simp [State.setCtx, State.ctx]

theorem State.setCtx_ctx_ne (s : State) (c e : CtxId) (x : CtxSt) (h : e ≠ c) : (s.setCtx c x).ctx e = s.ctx e := by
  simp [State.setCtx, State.ctx, Table.get_put_ne _ _ _ _ _ h]

@[simp] theorem State.onCtx_ctx (s : State) (c : CtxId) (f : CtxSt → CtxSt) : (s.onCtx c f).ctx c = f (s.ctx c) := by
  simp [State.onCtx]

theorem State.onCtx_ctx_ne (s : State) (c e : CtxId) (f : CtxSt → CtxSt) (h : e ≠ c) : (s.onCtx c f).ctx e = s.ctx e :=
  s.setCtx_ctx_ne c e _ h

@[simp] theorem State.setCore_core (s : State) (c : CoreId) (x : CoreSt) : (s.setCore c x).core c = x := by
  simp [State.setCore, State.core]

@[simp] theorem State.onCore_core (s : State) (c : CoreId) (f : CoreSt → CoreSt) : (s.onCore c f).core c = f (s.core c) := by
  simp [State.onCore]

theorem State.onCore_core_ne (s : State) (c e : CoreId) (f : CoreSt → CoreSt) (h : e ≠ c) :
    (s.onCore c f).core e = s.core e := by
  simp [State.onCore, State.setCore, State.core, Table.get_put_ne _ _ _ _ _ h]

@[simp] theorem State.onDie_die (s : State) (d : Nat) (f : DieSt → DieSt) : (s.onDie d f).die d = f (s.die d) := by
  simp [State.onDie, State.die]

theorem State.onDie_die_ne (s : State) (d e : Nat) (f : DieSt → DieSt) (h : e ≠ d) : (s.onDie d f).die e = s.die e := by
  simp [State.onDie, State.die, Map.get_put_ne _ _ _ _ _ h]

@[simp] theorem State.onMem_mem (s : State) (f : MemSt → MemSt) : (s.onMem f).mem = f s.mem := rfl
@[simp] theorem State.onNet_net (s : State) (f : NetSt → NetSt) : (s.onNet f).net = f s.net := rfl
@[simp] theorem State.onWork_work (s : State) (f : WorkSt → WorkSt) : (s.onWork f).work = f s.work := rfl
@[simp] theorem State.onSec_sec (s : State) (f : SecSt → SecSt) : (s.onSec f).sec = f s.sec := rfl
@[simp] theorem State.bump_fresh (s : State) : s.bump.fresh = s.fresh + 1 := rfl

@[simp] theorem State.onRegs_regs (s : State) (c : CtxId) (f : Regs → Regs) :
    ((s.onRegs c f).ctx c).regs = f (s.ctx c).regs := by simp [State.onRegs]
@[simp] theorem State.onRegs_ctx (s : State) (c : CtxId) (f : Regs → Regs) :
    (s.onRegs c f).ctx c = { s.ctx c with regs := f (s.ctx c).regs } := by simp [State.onRegs]
@[simp] theorem State.onCtl_ctx (s : State) (c : CtxId) (f : Ctl → Ctl) :
    (s.onCtl c f).ctx c = { s.ctx c with ctl := f (s.ctx c).ctl } := by simp [State.onCtl]
@[simp] theorem State.onWait_ctx (s : State) (c : CtxId) (f : Wait → Wait) :
    (s.onWait c f).ctx c = { s.ctx c with wait := f (s.ctx c).wait } := by simp [State.onWait]
@[simp] theorem State.onOrder_ctx (s : State) (c : CtxId) (f : Order → Order) :
    (s.onOrder c f).ctx c = { s.ctx c with order := f (s.ctx c).order } := by simp [State.onOrder]
@[simp] theorem State.setPc_pc (s : State) (c : CtxId) (a : Word) : (s.setPc c a).pc c = a := by
  simp [State.setPc, State.pc]

theorem State.ctx_congr {s t : State} (h : t.ctxs = s.ctxs) (c : CtxId) : t.ctx c = s.ctx c := by simp [State.ctx, h]
theorem State.core_congr {s t : State} (h : t.cores = s.cores) (c : CoreId) : t.core c = s.core c := by simp [State.core, h]
theorem State.die_congr {s t : State} (h : t.dies = s.dies) (d : Nat) : t.die d = s.die d := by simp [State.die, h]

@[simp] theorem State.bump_ctx (s : State) (c : CtxId) : s.bump.ctx c = s.ctx c := rfl
@[simp] theorem State.bump_core (s : State) (c : CoreId) : s.bump.core c = s.core c := rfl
@[simp] theorem State.bump_die (s : State) (d : Nat) : s.bump.die d = s.die d := rfl
@[simp] theorem State.onCtx_core (s : State) (c : CtxId) (f : CtxSt → CtxSt) (k : CoreId) : (s.onCtx c f).core k = s.core k := rfl
@[simp] theorem State.onCtx_die (s : State) (c : CtxId) (f : CtxSt → CtxSt) (d : Nat) : (s.onCtx c f).die d = s.die d := rfl
@[simp] theorem State.onCore_ctx (s : State) (k : CoreId) (f : CoreSt → CoreSt) (c : CtxId) : (s.onCore k f).ctx c = s.ctx c := rfl
@[simp] theorem State.onCore_die (s : State) (k : CoreId) (f : CoreSt → CoreSt) (d : Nat) : (s.onCore k f).die d = s.die d := rfl
@[simp] theorem State.onDie_ctx (s : State) (d : Nat) (f : DieSt → DieSt) (c : CtxId) : (s.onDie d f).ctx c = s.ctx c := rfl
@[simp] theorem State.onDie_core (s : State) (d : Nat) (f : DieSt → DieSt) (k : CoreId) : (s.onDie d f).core k = s.core k := rfl
@[simp] theorem State.onMem_ctx (s : State) (f : MemSt → MemSt) (c : CtxId) : (s.onMem f).ctx c = s.ctx c := rfl
@[simp] theorem State.onMem_core (s : State) (f : MemSt → MemSt) (k : CoreId) : (s.onMem f).core k = s.core k := rfl
@[simp] theorem State.onMem_die (s : State) (f : MemSt → MemSt) (d : Nat) : (s.onMem f).die d = s.die d := rfl

end Sys2Proof.Machine
end

