-- ==== Sys2Proof/Laws/Issue.lean ====
section
/-! SUPPORT. What passing issue, completing an instruction, and giving a result change, said once. -/

namespace Sys2Proof.Machine

theorem SameMemory.of_eq {s t : State} (h : t = { s with ctxs := t.ctxs, cores := t.cores }) : SameMemory s t := by
  intro d home key a
  rw [h]; rfl

theorem Outside.rfl' (c : CtxId) (s : State) : Outside c s s :=
  ⟨rfl, fun _ => rfl, fun _ _ => rfl, fun _ _ _ _ => rfl⟩

theorem Outside.trans {c : CtxId} {s t u : State} (h : Outside c s t) (g : Outside c t u) : Outside c s u := by
  have e : u = { s with ctxs := u.ctxs, cores := u.cores } := by
    have := g.rest; rw [h.rest] at this; exact this
  exact ⟨e, fun k => (g.cores k).trans (h.cores k), fun x hx => (g.others x hx).trans (h.others x hx), SameMemory.of_eq e⟩

theorem Outside.onCtx (c : CtxId) (s : State) (f : CtxSt → CtxSt) : Outside c s (s.onCtx c f) := by
  refine ⟨rfl, fun _ => rfl, fun e he => ?_, SameMemory.of_eq rfl⟩
  rw [State.onCtx_ctx_ne _ _ _ _ he]

/-- Only who holds issue changes. -/
structure OnlyIssue (s t : State) : Prop where
  rest  : t = { s with ctxs := t.ctxs, cores := t.cores }
  cores : ∀ k, (t.core k).still = (s.core k).still
  ctxs  : ∀ e, (t.ctx e).still = (s.ctx e).still

theorem OnlyIssue.refl (s : State) : OnlyIssue s s := ⟨rfl, fun _ => rfl, fun _ => rfl⟩

theorem OnlyIssue.trans {s t u : State} (h : OnlyIssue s t) (g : OnlyIssue t u) : OnlyIssue s u :=
  ⟨by have := g.rest; rw [h.rest] at this; exact this, fun k => (g.cores k).trans (h.cores k),
    fun e => (g.ctxs e).trans (h.ctxs e)⟩

theorem OnlyIssue.outside {s t : State} (h : OnlyIssue s t) (c : CtxId) : Outside c s t :=
  ⟨h.rest, h.cores, fun e _ => h.ctxs e, SameMemory.of_eq h.rest⟩

theorem OnlyIssue.onWait (s : State) (c : CtxId) (f : Wait → Wait)
    (h : ∀ w, { f w with overdue := false, issueStart := 0 } = { w with overdue := false, issueStart := 0 }) :
    OnlyIssue s (s.onWait c f) := by
  refine ⟨rfl, fun _ => rfl, fun e => ?_⟩
  by_cases he : e = c
  · subst he; simp only [State.onWait_ctx, CtxSt.still, h]
  · rw [State.onWait, State.onCtx_ctx_ne _ _ _ _ he]

theorem OnlyIssue.onCore (s : State) (k : CoreId) (f : CoreSt → CoreSt)
    (h : ∀ x, (f x).still = x.still) : OnlyIssue s (s.onCore k f) := by
  refine ⟨rfl, fun j => ?_, fun _ => rfl⟩
  by_cases hj : j = k
  · subst hj; rw [State.onCore_core, h]
  · rw [State.onCore_core_ne _ _ _ _ hj]

/-- A context that gains issue: only issue changes. -/
theorem State.gain_issue (s : State) (c : CtxId) : OnlyIssue s (s.gain c) := by
  unfold State.gain
  refine OnlyIssue.trans (OnlyIssue.onCore _ _ _ ?_) (OnlyIssue.onWait _ _ _ ?_) <;> intro _ <;> rfl

/-- A context that gives up issue: only issue changes. -/
theorem State.giveUp_issue (s : State) (c : CtxId) : OnlyIssue s (s.giveUp c) := by
  unfold State.giveUp
  dsimp only
  have h : OnlyIssue s ((s.onCore c.coreId fun x => { x with holder := none, last := c.ctx }).onWait c fun w =>
      { w with overdue := false }) := by
    refine OnlyIssue.trans (OnlyIssue.onCore _ _ _ ?_) (OnlyIssue.onWait _ _ _ ?_) <;> intro _ <;> rfl
  split
  · exact h.trans (State.gain_issue _ _)
  · exact h

/-- A point at which a context may be forced out: only issue changes. -/
theorem State.forcePoint_issue (s : State) (c : CtxId) : OnlyIssue s (s.forcePoint c) := by
  unfold State.forcePoint
  split
  · split
    · exact State.giveUp_issue s c
    · exact State.gain_issue s c
  · exact OnlyIssue.refl s

theorem OnlyIssue.kept {s t : State} (h : OnlyIssue s t) (c : CtxId) : Kept c s t := by
  have e := h.ctxs c
  simp only [CtxSt.still, CtxSt.mk.injEq, Wait.mk.injEq] at e
  obtain ⟨hr, h1, h2, h3, h4, h5, hw, ho, h6, h7, h8, h9⟩ := e
  exact ⟨h1, h2, h3, h4, h5, h6, h7, h9, by rw [hr], by rw [hr], hw.2.2.2.2.1, hw.2.2.2.2.2.1, hw.2.2.2.1,
    hw.2.2.2.2.2.2.1, hw.2.2.2.2.2.2.2.2.2.2.2.1, by rw [ho]⟩

theorem OnlyIssue.regs {s t : State} (h : OnlyIssue s t) (c : CtxId) : (t.ctx c).regs = (s.ctx c).regs := by
  have e := h.ctxs c
  simp only [CtxSt.still, CtxSt.mk.injEq] at e
  exact e.1

theorem OnlyIssue.park {s t : State} (h : OnlyIssue s t) (c : CtxId) : (t.ctx c).wait.park = (s.ctx c).wait.park := by
  have e := h.ctxs c
  simp only [CtxSt.still, CtxSt.mk.injEq, Wait.mk.injEq] at e
  exact e.2.2.2.2.2.2.1.1

theorem OnlyIssue.hold {s t : State} (h : OnlyIssue s t) (c : CtxId) : (t.ctx c).wait.hold = (s.ctx c).wait.hold := by
  have e := h.ctxs c
  simp only [CtxSt.still, CtxSt.mk.injEq, Wait.mk.injEq] at e
  exact e.2.2.2.2.2.2.1.2.1

theorem Kept.rfl' (c : CtxId) (s : State) : Kept c s s :=
  ⟨rfl, rfl, rfl, rfl, rfl, rfl, rfl, rfl, rfl, rfl, rfl, rfl, rfl, rfl, rfl, rfl⟩

theorem Kept.trans {c : CtxId} {s t u : State} (h : Kept c s t) (g : Kept c t u) : Kept c s u :=
  ⟨g.ctl.trans h.ctl, g.mest.trans h.mest, g.cest.trans h.cest, g.chain.trans h.chain, g.held.trans h.held,
    g.cap.trans h.cap, g.sent.trans h.sent, g.unit.trans h.unit, g.stackM.trans h.stackM, g.stackC.trans h.stackC,
    g.lates.trans h.lates, g.traps.trans h.traps, g.load.trans h.load, g.replay.trans h.replay, g.stop.trans h.stop,
    g.order.trans h.order⟩

end Sys2Proof.Machine
end

