-- ==== Sys2Proof/Laws/Advance.lean ====
section
/-! SUPPORT. What completing an instruction and giving a result change (R59, R65, R74), said once. -/

namespace Sys2Proof.Machine

/-! ## Registers -/

theorem Regs.setZ_getZ (r : Regs) (z y : Bool) (x : LoopReg) : (r.setZ z x).getZ y = if y = z then x else r.getZ y := by
  cases z <;> cases y <;> simp [Regs.setZ, Regs.getZ]

theorem Regs.setZ_same (r : Regs) (z : Bool) (x : LoopReg) :
    (r.setZ z x).g = r.g ∧ (r.setZ z x).k = r.k ∧ (r.setZ z x).v = r.v ∧ (r.setZ z x).l = r.l ∧
      (r.setZ z x).pc = r.pc ∧ (r.setZ z x).me = r.me ∧ (r.setZ z x).ce = r.ce ∧ (r.setZ z x).wordNext = r.wordNext := by
  cases z <;> simp [Regs.setZ]

/-- The loop test changes loop registers only (R65). -/
theorem Regs.loopTest_same (r : Regs) (a : Word) : (r.loopTest a).1 = { r with z := (r.loopTest a).1.z } := by
  unfold Regs.loopTest
  dsimp only
  generalize (r.getZ true).test a = o1
  cases o1 with
  | none =>
    dsimp only
    generalize (r.getZ false).test a = o2
    cases o2 <;> simp [Regs.setZ]
  | some p =>
    obtain ⟨x, b⟩ := p
    cases b
    · simp only [Bool.false_eq_true, if_false]
      generalize ((r.setZ true x).getZ false).test a = o2
      cases o2 <;> simp [Regs.setZ]
    · simp [Regs.setZ]

/-- The loop test depends on the loop registers only. -/
theorem Regs.loopTest_z (r q : Regs) (a : Word) (h : q.z = r.z) :
    (q.loopTest a).2 = (r.loopTest a).2 ∧ (q.loopTest a).1.z = (r.loopTest a).1.z := by
  have e : q = { r with g := q.g, k := q.k, v := q.v, l := q.l, pc := q.pc, wordNext := q.wordNext, me := q.me, ce := q.ce } := by
    cases q; cases r; simp_all
  rw [e]
  unfold Regs.loopTest
  simp only [Regs.getZ, if_true, Bool.false_eq_true, if_false]
  generalize hA : r.z[1].test a = o1
  cases o1 with
  | none =>
    dsimp only
    generalize r.z[0].test a = o2
    cases o2 <;> simp [Regs.setZ]
  | some p =>
    obtain ⟨x, b⟩ := p
    cases b
    · simp only [Bool.false_eq_true, if_false, Regs.setZ, if_true]
      generalize (LoopReg.test ((r.z.set 1 x)[0]) a) = o2
      cases o2 <;> simp
    · simp [Regs.setZ]

theorem Regs.getZ_congr {q r : Regs} (h : q.z = r.z) (z : Bool) : q.getZ z = r.getZ z := by
  cases z <;> simp [Regs.getZ, h]

/-- Changes of a context that leave its loop registers, program counter, mode and waits. -/
structure Same (c : CtxId) (s t : State) : Prop where
  outside : Outside c s t
  kept    : Kept c s t
  pc      : t.pc c = s.pc c
  z       : (t.ctx c).regs.z = (s.ctx c).regs.z

theorem Same.refl (c : CtxId) (s : State) : Same c s s := ⟨Outside.rfl' c s, Kept.rfl' c s, rfl, rfl⟩

theorem Same.trans {c : CtxId} {s t u : State} (h : Same c s t) (g : Same c t u) : Same c s u :=
  ⟨h.outside.trans g.outside, h.kept.trans g.kept, g.pc.trans h.pc, g.z.trans h.z⟩

theorem Same.onRegs (c : CtxId) (s : State) (f : Regs → Regs) (hp : ∀ r, (f r).pc = r.pc) (hz : ∀ r, (f r).z = r.z)
    (hm : ∀ r, (f r).me = r.me) (hc : ∀ r, (f r).ce = r.ce) : Same c s (s.onRegs c f) := by
  refine ⟨Outside.onCtx c s _, ?_, ?_, ?_⟩
  · constructor <;> simp [hm, hc]
  · simp [State.pc, hp]
  · simp [hz]

theorem Same.onOrder (c : CtxId) (s : State) (f : Order → Order) (h : ∀ o, { f o with dep := [] } = { o with dep := [] }) :
    Same c s (s.onOrder c f) := by
  refine ⟨Outside.onCtx c s _, ?_, ?_, ?_⟩
  · constructor <;> simp [h]
  · simp [State.pc]
  · simp

theorem Order.setDep_dep (o : Order) (k : Nat) (ds : List Nat) : { o.setDep k ds with dep := [] } = { o with dep := [] } := by
  unfold Order.setDep; split <;> rfl

theorem Order.pushDep_dep (o : Order) (ds : List Nat) : { o.pushDep ds with dep := [] } = { o with dep := [] } := by
  unfold Order.pushDep; simp only [Order.setDep_dep]

theorem Same.loopEnd {c : CtxId} {s t : State} (h : Same c s t) :
    (t.loopEnd c).2 = (s.loopEnd c).2 ∧ ∀ z, (t.loopEnd c).1.getZ z = (s.loopEnd c).1.getZ z := by
  unfold State.loopEnd
  rw [h.kept.ctl, h.pc]
  split
  · exact ⟨rfl, fun z => Regs.getZ_congr h.z z⟩
  · obtain ⟨a, b⟩ := Regs.loopTest_z (s.ctx c).regs (t.ctx c).regs (s.pc c) h.z
    exact ⟨a, fun z => Regs.getZ_congr b z⟩

/-! ## Completing an instruction -/

theorem Kept.onWaitClear (c : CtxId) (s : State) (pc : Word) : Kept c s (s.onWait c fun w => w.clear pc) := by
  constructor <;> simp [Wait.clear]

/-- A context whose registers are replaced. -/
theorem Kept.onRegs (c : CtxId) (s : State) (f : Regs → Regs) (hm : (f (s.ctx c).regs).me = (s.ctx c).regs.me)
    (hc : (f (s.ctx c).regs).ce = (s.ctx c).regs.ce) : Kept c s (s.onRegs c f) := by
  constructor <;> simp [hm, hc]

/-- An instruction completes (R65, R74). -/
theorem State.advanceTo_spec (s : State) (c : CtxId) (next : Word) (sw : Bool) :
    let t := s.advanceTo c next sw
    Outside c s t ∧ Kept c s t ∧ KeepsG c s t ∧ KeepsK c s t ∧ KeepsV c s t ∧ GoesOn c s t next (s.ctx c).regs.l := by
  intro t
  have hw : Outside c s (s.onWait c fun w => w.clear (s.pc c)) := Outside.onCtx c s _
  have hk : Kept c s (s.onWait c fun w => w.clear (s.pc c)) := Kept.onWaitClear c s _
  -- the state before the point at which the context may be forced out
  suffices h : ∃ u, (t = u ∨ t = u.forcePoint c) ∧ Outside c s u ∧ Kept c s u ∧ KeepsG c s u ∧ KeepsK c s u ∧
      KeepsV c s u ∧ GoesOn c s u next (s.ctx c).regs.l by
    obtain ⟨u, ht, ho, hkk, hg, hK, hv, hgo⟩ := h
    have key : OnlyIssue u t := by
      rcases ht with ht | ht
      · rw [ht]; exact OnlyIssue.refl u
      · rw [ht]; exact State.forcePoint_issue u c
    have er := key.regs c
    refine ⟨ho.trans (key.outside c), hkk.trans (key.kept c), fun r => ?_, fun r => ?_, fun r => ?_, ?_⟩
    · rw [er]; exact hg r
    · rw [er]; exact hK r
    · rw [er]; exact hv r
    · refine ⟨?_, fun z => ?_, ?_, ?_, ?_⟩
      · unfold State.pc; rw [er]; exact hgo.pc
      · rw [er]; exact hgo.z z
      · rw [er]; exact hgo.l
      · rw [key.park c]; exact hgo.park
      · rw [key.hold c]; exact hgo.hold
  show ∃ u, (s.advanceTo c next sw = u ∨ s.advanceTo c next sw = u.forcePoint c) ∧ _
  unfold State.advanceTo
  dsimp only
  by_cases hS : (s.ctx c).ctl.s
  · -- S mode
    simp only [State.onWait_ctx, hS, if_true]
    refine ⟨(s.onWait c fun w => w.clear (s.pc c)).setPc c next, ?_, ?_, ?_, ?_, ?_, ?_, ?_⟩
    · cases sw <;> simp
    · exact Outside.trans hw (by unfold State.setPc State.onRegs; exact Outside.onCtx c _ _)
    · exact hk.trans (Kept.onRegs c (s.onWait c fun w => w.clear (s.pc c)) _ rfl rfl)
    · intro r; simp [State.setPc, Regs.getG]
    · intro r; simp [State.setPc, Regs.getK]
    · intro r; simp [State.setPc, Regs.getV]
    · constructor <;> simp [State.loopEnd, hS, State.setPc, Wait.clear, State.pc, Regs.getZ]
  · simp only [State.onWait_ctx, hS]
    have hle : s.loopEnd c = (s.ctx c).regs.loopTest (s.pc c) := by simp [State.loopEnd, hS]
    have hsame := Regs.loopTest_same (s.ctx c).regs (s.pc c)
    generalize hq : (s.ctx c).regs.loopTest (s.pc c) = q at *
    obtain ⟨r, o⟩ := q
    dsimp only at hsame
    cases o with
    | none =>
      refine ⟨(s.onWait c fun w => w.clear (s.pc c)).onRegs c fun _ => { r with pc := next }, ?_, ?_, ?_, ?_, ?_, ?_, ?_⟩
      · cases sw <;> simp
      · exact hw.trans (Outside.onCtx c _ _)
      · refine hk.trans (Kept.onRegs c _ _ ?_ ?_) <;> (rw [hsame]; simp)
      · intro x; rw [hsame]; simp [Regs.getG]
      · intro x; rw [hsame]; simp [Regs.getK]
      · intro x; rw [hsame]; simp [Regs.getV]
      · constructor
        · simp [State.pc, hle]
        · intro z; simp [hle, Regs.getZ]
        · simp only [hle]; rw [hsame]; simp
        · simp [Wait.clear]
        · simp [Wait.clear]
    | some a =>
      refine ⟨(s.onWait c fun w => w.clear (s.pc c)).onRegs c fun _ => { r.invalidate with pc := a }, ?_, ?_, ?_, ?_, ?_, ?_, ?_⟩
      · right; rfl
      · exact hw.trans (Outside.onCtx c _ _)
      · refine hk.trans (Kept.onRegs c _ _ ?_ ?_) <;> (rw [hsame]; simp [Regs.invalidate])
      · intro x; rw [hsame]; simp [Regs.getG, Regs.invalidate]
      · intro x; rw [hsame]; simp [Regs.getK, Regs.invalidate]
      · intro x; rw [hsame]; simp [Regs.getV, Regs.invalidate]
      · constructor
        · simp [State.pc, hle]
        · intro z; simp [hle, Regs.getZ, Regs.invalidate]
        · simp [hle, Regs.invalidate, stale]
        · simp [Wait.clear]
        · simp [Wait.clear]

/-- An instruction that has changed only registers completes. -/
theorem Same.advance {c : CtxId} {s u : State} (h : Same c s u) (sw : Bool) :
    let t := u.advance c sw
    Outside c s t ∧ Kept c s t ∧ KeepsG c u t ∧ KeepsK c u t ∧ KeepsV c u t ∧
      GoesOn c s t (s.pc c + 8) (u.ctx c).regs.l := by
  intro t
  obtain ⟨ho, hk, hg, hK, hv, hgo⟩ := u.advanceTo_spec c (u.pc c + 8) sw
  obtain ⟨l2, lz⟩ := h.loopEnd
  refine ⟨h.outside.trans ho, h.kept.trans hk, hg, hK, hv, ?_⟩
  refine ⟨?_, fun z => ?_, ?_, hgo.park, hgo.hold⟩
  · have := hgo.pc; rw [l2, h.pc] at this; simpa [t, State.advance, h.pc] using this
  · rw [← lz z]; exact hgo.z z
  · have := hgo.l; rw [l2] at this; exact this

/-! ## Results -/

/-! ### Fields that a register write leaves -/

@[simp] theorem Regs.setG_k (r : Regs) (d : GReg) (x : Word) : (r.setG d x).k = r.k := by unfold Regs.setG; split <;> rfl
@[simp] theorem Regs.setG_v (r : Regs) (d : GReg) (x : Word) : (r.setG d x).v = r.v := by unfold Regs.setG; split <;> rfl
@[simp] theorem Regs.setG_l (r : Regs) (d : GReg) (x : Word) : (r.setG d x).l = r.l := by unfold Regs.setG; split <;> rfl
@[simp] theorem Regs.setG_z (r : Regs) (d : GReg) (x : Word) : (r.setG d x).z = r.z := by unfold Regs.setG; split <;> rfl
@[simp] theorem Regs.setG_pc (r : Regs) (d : GReg) (x : Word) : (r.setG d x).pc = r.pc := by unfold Regs.setG; split <;> rfl
@[simp] theorem Regs.setG_me (r : Regs) (d : GReg) (x : Word) : (r.setG d x).me = r.me := by unfold Regs.setG; split <;> rfl
@[simp] theorem Regs.setG_ce (r : Regs) (d : GReg) (x : Word) : (r.setG d x).ce = r.ce := by unfold Regs.setG; split <;> rfl
@[simp] theorem Regs.setG_wordNext (r : Regs) (d : GReg) (x : Word) : (r.setG d x).wordNext = r.wordNext := by unfold Regs.setG; split <;> rfl

@[simp] theorem Regs.setK_g (r : Regs) (d : KReg) (x : Word) : (r.setK d x).g = r.g := by unfold Regs.setK; split <;> rfl
@[simp] theorem Regs.setK_v (r : Regs) (d : KReg) (x : Word) : (r.setK d x).v = r.v := by unfold Regs.setK; split <;> rfl
@[simp] theorem Regs.setK_l (r : Regs) (d : KReg) (x : Word) : (r.setK d x).l = r.l := by unfold Regs.setK; split <;> rfl
@[simp] theorem Regs.setK_z (r : Regs) (d : KReg) (x : Word) : (r.setK d x).z = r.z := by unfold Regs.setK; split <;> rfl
@[simp] theorem Regs.setK_pc (r : Regs) (d : KReg) (x : Word) : (r.setK d x).pc = r.pc := by unfold Regs.setK; split <;> rfl
@[simp] theorem Regs.setK_me (r : Regs) (d : KReg) (x : Word) : (r.setK d x).me = r.me := by unfold Regs.setK; split <;> rfl
@[simp] theorem Regs.setK_ce (r : Regs) (d : KReg) (x : Word) : (r.setK d x).ce = r.ce := by unfold Regs.setK; split <;> rfl
@[simp] theorem Regs.setK_wordNext (r : Regs) (d : KReg) (x : Word) : (r.setK d x).wordNext = r.wordNext := by unfold Regs.setK; split <;> rfl

@[simp] theorem Regs.setV_g (r : Regs) (d : VReg) (x : Vec) : (r.setV d x).g = r.g := rfl
@[simp] theorem Regs.setV_k (r : Regs) (d : VReg) (x : Vec) : (r.setV d x).k = r.k := rfl
@[simp] theorem Regs.setV_l (r : Regs) (d : VReg) (x : Vec) : (r.setV d x).l = r.l := rfl
@[simp] theorem Regs.setV_z (r : Regs) (d : VReg) (x : Vec) : (r.setV d x).z = r.z := rfl
@[simp] theorem Regs.setV_pc (r : Regs) (d : VReg) (x : Vec) : (r.setV d x).pc = r.pc := rfl
@[simp] theorem Regs.setV_me (r : Regs) (d : VReg) (x : Vec) : (r.setV d x).me = r.me := rfl
@[simp] theorem Regs.setV_ce (r : Regs) (d : VReg) (x : Vec) : (r.setV d x).ce = r.ce := rfl
@[simp] theorem Regs.setV_wordNext (r : Regs) (d : VReg) (x : Vec) : (r.setV d x).wordNext = r.wordNext := rfl

@[simp] theorem Regs.push_g (r : Regs) (x : Latch) : (r.push x).g = r.g := rfl
@[simp] theorem Regs.push_k (r : Regs) (x : Latch) : (r.push x).k = r.k := rfl
@[simp] theorem Regs.push_v (r : Regs) (x : Latch) : (r.push x).v = r.v := rfl
@[simp] theorem Regs.push_z (r : Regs) (x : Latch) : (r.push x).z = r.z := rfl
@[simp] theorem Regs.push_pc (r : Regs) (x : Latch) : (r.push x).pc = r.pc := rfl
@[simp] theorem Regs.push_me (r : Regs) (x : Latch) : (r.push x).me = r.me := rfl
@[simp] theorem Regs.push_ce (r : Regs) (x : Latch) : (r.push x).ce = r.ce := rfl
@[simp] theorem Regs.push_wordNext (r : Regs) (x : Latch) : (r.push x).wordNext = r.wordNext := rfl

@[simp] theorem Regs.invalidate_g (r : Regs) : r.invalidate.g = r.g := rfl
@[simp] theorem Regs.invalidate_k (r : Regs) : r.invalidate.k = r.k := rfl
@[simp] theorem Regs.invalidate_v (r : Regs) : r.invalidate.v = r.v := rfl
@[simp] theorem Regs.invalidate_z (r : Regs) : r.invalidate.z = r.z := rfl
@[simp] theorem Regs.invalidate_pc (r : Regs) : r.invalidate.pc = r.pc := rfl
@[simp] theorem Regs.invalidate_me (r : Regs) : r.invalidate.me = r.me := rfl
@[simp] theorem Regs.invalidate_ce (r : Regs) : r.invalidate.ce = r.ce := rfl
@[simp] theorem Regs.invalidate_wordNext (r : Regs) : r.invalidate.wordNext = r.wordNext := rfl
@[simp] theorem Regs.invalidate_l (r : Regs) : r.invalidate.l = stale := rfl

theorem Regs.getG_congr {q r : Regs} (h : q.g = r.g) (x : GReg) : q.getG x = r.getG x := by unfold Regs.getG; rw [h]
theorem Regs.getK_congr {q r : Regs} (h : q.k = r.k) (x : KReg) : q.getK x = r.getK x := by unfold Regs.getK; rw [h]
theorem Regs.getV_congr {q r : Regs} (h : q.v = r.v) (x : VReg) : q.getV x = r.getV x := by unfold Regs.getV; rw [h]

theorem Regs.setG_getG (r : Regs) (d x : GReg) (v : Word) :
    (r.setG d v).getG x = if x = d ∧ d ≠ 0 then v else r.getG x := by
  unfold Regs.setG
  by_cases h0 : d = 0
  · rw [if_pos h0, if_neg (fun h : x = d ∧ d ≠ 0 => h.2 h0)]
  · rw [if_neg h0]
    by_cases he : x = d
    · subst he
      rw [if_pos ⟨rfl, h0⟩]
      unfold Regs.getG
      rw [if_neg h0]
      exact Vector.getElem_set_self _
    · rw [if_neg (fun h : x = d ∧ d ≠ 0 => he h.1)]
      have hn : d.toNat ≠ x.toNat := fun e => he (BitVec.eq_of_toNat_eq e.symm)
      unfold Regs.getG
      dsimp only
      rw [Vector.getElem_set_ne _ _ hn]

theorem Regs.setK_getK (r : Regs) (d x : KReg) (v : Word) :
    (r.setK d v).getK x = if x = d ∧ d ≠ 0 then v else r.getK x := by
  unfold Regs.setK
  by_cases h0 : d = 0
  · rw [if_pos h0, if_neg (fun h : x = d ∧ d ≠ 0 => h.2 h0)]
  · rw [if_neg h0]
    by_cases he : x = d
    · subst he
      rw [if_pos ⟨rfl, h0⟩]
      unfold Regs.getK
      rw [if_neg h0]
      exact Vector.getElem_set_self _
    · rw [if_neg (fun h : x = d ∧ d ≠ 0 => he h.1)]
      have hn : d.toNat ≠ x.toNat := fun e => he (BitVec.eq_of_toNat_eq e.symm)
      unfold Regs.getK
      dsimp only
      rw [Vector.getElem_set_ne _ _ hn]

theorem Regs.setV_getV (r : Regs) (d x : VReg) (v : Vec) :
    (r.setV d v).getV x = if x = d then v else r.getV x := by
  unfold Regs.setV Regs.getV
  by_cases he : x = d
  · subst he; simp
  · have : d.toNat ≠ x.toNat := fun e => he (BitVec.eq_of_toNat_eq e.symm)
    simp [he, Vector.getElem_set_ne _ _ this]

theorem Same.setG (c : CtxId) (s : State) (d : GReg) (v : Word) : Same c s (s.setG c d v) := by
  refine ⟨Outside.onCtx c s _, ?_, ?_, ?_⟩
  · constructor <;> simp [State.setG]
  · simp [State.pc, State.setG]
  · simp [State.setG]

theorem Same.setK (c : CtxId) (s : State) (d : KReg) (v : Word) : Same c s (s.setK c d v) := by
  refine ⟨Outside.onCtx c s _, ?_, ?_, ?_⟩
  · constructor <;> simp [State.setK]
  · simp [State.pc, State.setK]
  · simp [State.setK]

theorem Same.setV (c : CtxId) (s : State) (d : VReg) (v : Vec) : Same c s (s.setV c d v) := by
  refine ⟨Outside.onCtx c s _, ?_, ?_, ?_⟩
  · constructor <;> simp [State.setV]
  · simp [State.pc, State.setV]
  · simp [State.setV]

theorem Same.push (c : CtxId) (s : State) (x : Latch) : Same c s (s.push c x) :=
  Same.onRegs c s _ (fun _ => rfl) (fun _ => rfl) (fun _ => rfl) (fun _ => rfl)

theorem Same.resultG (c : CtxId) (s : State) (w : Bool) (d : GReg) (v : Word) (ds : List Nat) :
    Same c s (s.resultG c w d v ds) := by
  unfold State.resultG
  cases w
  · exact (((Same.setG c s d v).trans (Same.onOrder c _ _ fun o => Order.setDep_dep o _ _)).trans (Same.push c _ _)).trans
      (Same.onOrder c _ _ fun o => Order.pushDep_dep o _)
  · exact (Same.push c _ _).trans (Same.onOrder c _ _ fun o => Order.pushDep_dep o _)

theorem Same.resultV (c : CtxId) (s : State) (w : Bool) (d : VReg) (v : Vec) (ds : List Nat) :
    Same c s (s.resultV c w d v ds) := by
  unfold State.resultV
  cases w
  · exact (((Same.setV c s d v).trans (Same.onOrder c _ _ fun o => Order.setDep_dep o _ _)).trans (Same.push c _ _)).trans
      (Same.onOrder c _ _ fun o => Order.pushDep_dep o _)
  · exact (Same.push c _ _).trans (Same.onOrder c _ _ fun o => Order.pushDep_dep o _)

theorem Same.resultK (c : CtxId) (s : State) (d : KReg) (v : Word) (ds : List Nat) : Same c s (s.resultK c d v ds) :=
  (Same.setK c s d v).trans (Same.onOrder c _ _ fun o => by split; exacts [rfl, Order.setDep_dep o _ _])

theorem State.resultG_regs (s : State) (c : CtxId) (w : Bool) (d : GReg) (v : Word) (ds : List Nat) :
    ((s.resultG c w d v ds).ctx c).regs = (if w then (s.ctx c).regs else (s.ctx c).regs.setG d v).push (Latch.scalar v) := by
  cases w <;> simp [State.resultG, State.push, State.setG]

theorem State.resultV_regs (s : State) (c : CtxId) (w : Bool) (d : VReg) (v : Vec) (ds : List Nat) :
    ((s.resultV c w d v ds).ctx c).regs = (if w then (s.ctx c).regs else (s.ctx c).regs.setV d v).push (Latch.vector v) := by
  cases w <;> simp [State.resultV, State.push, State.setV]

theorem State.resultK_regs (s : State) (c : CtxId) (d : KReg) (v : Word) (ds : List Nat) :
    ((s.resultK c d v ds).ctx c).regs = (s.ctx c).regs.setK d v := by
  simp [State.resultK, State.setK]

/-- An instruction with a scalar result completes (R59). -/
theorem State.finishG_spec (s : State) (c : CtxId) (w : Bool) (d : GReg) (v : Word) (ds : List Nat)
    (h : s.useDestG c w d = .ok ()) : ∃ t, s.finishG c w d v ds = .ok t ∧ GivesG c s t w d v := by
  refine ⟨(s.resultG c w d v ds).advance c false, ?_, ?_⟩
  · simp [State.finishG, h, Bind.bind, Except.bind, Pure.pure, Except.pure]
  · obtain ⟨ho, hk, hg, hK, hv, hgo⟩ := (Same.resultG c s w d v ds).advance false
    refine ⟨ho, hk, fun r => ?_, fun r => ?_, fun r => ?_, ?_⟩
    · rw [hg r, State.resultG_regs]
      cases w
      · rw [← Regs.getG_congr (Regs.push_g _ _).symm r]
        simpa using Regs.setG_getG (s.ctx c).regs d r v
      · simpa using Regs.getG_congr (Regs.push_g (s.ctx c).regs (Latch.scalar v)) r
    · rw [hK r, State.resultG_regs]; exact Regs.getK_congr (by cases w <;> simp) r
    · rw [hv r, State.resultG_regs]; exact Regs.getV_congr (by cases w <;> simp) r
    · have e : ((s.resultG c w d v ds).ctx c).regs.l = pushed c s (Latch.scalar v) := by
        rw [State.resultG_regs]; cases w <;> simp [pushed, Regs.push]
      rw [e] at hgo; exact hgo

/-- An instruction with a vector result completes (R59). -/
theorem State.finishV_spec (s : State) (c : CtxId) (w : Bool) (d : VReg) (v : Vec) (ds : List Nat)
    (h : s.useDestV c w d = .ok ()) : ∃ t, s.finishV c w d v ds = .ok t ∧ GivesV c s t w d v := by
  refine ⟨(s.resultV c w d v ds).advance c false, ?_, ?_⟩
  · simp [State.finishV, h, Bind.bind, Except.bind, Pure.pure, Except.pure]
  · obtain ⟨ho, hk, hg, hK, hv, hgo⟩ := (Same.resultV c s w d v ds).advance false
    refine ⟨ho, hk, fun r => ?_, fun r => ?_, fun r => ?_, ?_⟩
    · rw [hg r, State.resultV_regs]; exact Regs.getG_congr (by cases w <;> simp) r
    · rw [hK r, State.resultV_regs]; exact Regs.getK_congr (by cases w <;> simp) r
    · rw [hv r, State.resultV_regs]
      cases w
      · rw [← Regs.getV_congr (Regs.push_v _ _).symm r]
        simpa using Regs.setV_getV (s.ctx c).regs d r v
      · simpa using Regs.getV_congr (Regs.push_v (s.ctx c).regs (Latch.vector v)) r
    · have e : ((s.resultV c w d v ds).ctx c).regs.l = pushed c s (Latch.vector v) := by
        rw [State.resultV_regs]; cases w <;> simp [pushed, Regs.push]
      rw [e] at hgo; exact hgo

/-- An instruction with a predicate result completes (R315). -/
theorem State.resultK_spec (s : State) (c : CtxId) (d : KReg) (v : Word) (ds : List Nat) :
    GivesK c s ((s.resultK c d v ds).advance c false) d v := by
  obtain ⟨ho, hk, hg, hK, hv, hgo⟩ := (Same.resultK c s d v ds).advance false
  refine ⟨ho, hk, fun r => ?_, fun r => ?_, fun r => ?_, ?_⟩
  · rw [hg r, State.resultK_regs]; exact Regs.getG_congr (by simp) r
  · rw [hK r, State.resultK_regs]; exact Regs.setK_getK _ _ _ _
  · rw [hv r, State.resultK_regs]; exact Regs.getV_congr (by simp) r
  · have e : ((s.resultK c d v ds).ctx c).regs.l = (s.ctx c).regs.l := by rw [State.resultK_regs]; simp
    rw [e] at hgo; exact hgo

/-- An instruction that only goes on (R75). -/
theorem State.advance_spec (s : State) (c : CtxId) (sw : Bool) : Passes c s (s.advance c sw) := by
  obtain ⟨ho, hk, hg, hK, hv, hgo⟩ := (Same.refl c s).advance sw
  exact ⟨ho, hk, hg, hK, hv, hgo⟩

end Sys2Proof.Machine
end

