-- ==== Sys2Proof/Laws/Memory.lean ====
section
/-! SUPPORT. Every operation that writes the bytes of global memory keeps their canonical form (R139), and the memory
after reset has it. -/

namespace Sys2Proof.Machine

/-- The bytes of memory are in canonical form. -/
abbrev MemOk (s : State) : Prop := memWf s.mem.bytes = true

theorem memWf_nil : memWf [] = true := rfl

theorem reset_memOk : MemOk State.reset := rfl

/-- An operation that leaves the bytes as they are keeps the form. -/
theorem MemOk.of_bytes {s t : State} (h : MemOk s) (e : t.mem.bytes = s.mem.bytes) : MemOk t := by
  unfold MemOk; rw [e]; exact h

/-- A change of the parts of memory beside the bytes keeps the form. -/
theorem MemOk.onMem {s : State} (h : MemOk s) (f : MemSt → MemSt) (hf : ∀ m, (f m).bytes = m.bytes) : MemOk (s.onMem f) :=
  h.of_bytes (hf s.mem)

/-- A fold of operations that keep a property keeps it. -/
theorem foldl_keeps {α σ : Type} {P : σ → Prop} (f : σ → α → σ) (hf : ∀ s a, P s → P (f s a)) (l : List α) (s : σ)
    (h : P s) : P (l.foldl f s) := by
  induction l generalizing s with
  | nil => exact h
  | cons a rest ih => exact ih _ (hf s a h)

/-! ## Translation and the home -/

theorem memOk_setPageBits (s : State) (loc bits : Nat) (h : MemOk s) : MemOk (s.setPageBits loc bits) := by
  unfold State.setPageBits
  dsimp only
  split
  · exact h
  · exact memWf_putByte _ _ _ h

theorem memOk_takeKey (s : State) (key : Option Nat) (block : Nat) (h : MemOk s) : MemOk (s.takeKey key block) := by
  unfold State.takeKey
  extract_lets tag old u
  have hu : MemOk u := by
    simp only [u]; split <;> exact h
  split
  · exact hu
  · exact memWf_putBytes _ _ _ hu

theorem memWf_homeByte (m : MemSt) (id : Nat) (now : List Nat) (a : Nat) (b : Byte) (h : memWf m.bytes = true) :
    memWf (m.homeByte id now a b).bytes = true := memWf_putByte _ _ _ h

theorem memWf_homeWrite (m : MemSt) (id : Nat) (now : List Nat) (a : Nat) (bs : List Byte) (h : memWf m.bytes = true) :
    memWf (m.homeWrite id now a bs).bytes = true := by
  induction bs generalizing m a with
  | nil => exact h
  | cons b rest ih => exact ih _ _ (memWf_homeByte m id now a b h)

theorem unapply_bytes (m : MemSt) (e a : Nat) (src : Option Nat) : (m.unapply e a src).bytes = m.bytes := by
  unfold MemSt.unapply
  repeat' split
  all_goals rfl

theorem applyByte_bytes (m : MemSt) (e id a : Nat) (plain : Bool) (b : Byte) (idx : Nat) :
    (m.applyByte e id a plain b idx).bytes = m.bytes := by
  unfold MemSt.applyByte
  dsimp only
  repeat' split
  all_goals first | rfl | exact unapply_bytes m e a _

theorem dropLine_bytes (m : MemSt) (e l : Nat) : (m.dropLine e l).bytes = m.bytes := by
  unfold MemSt.dropLine
  repeat' split
  all_goals rfl

theorem applyPart_bytes (m : MemSt) (e id : Nat) (plain : Bool) (p : WritePart) :
    (m.applyPart e id plain p).bytes = m.bytes := by
  unfold MemSt.applyPart
  extract_lets u
  have hu : u.bytes = m.bytes :=
    foldl_keeps (P := fun x : MemSt => x.bytes = m.bytes) _ (fun x _ hx => (applyByte_bytes x e id _ _ _ _).trans hx) _ _ rfl
  split
  · exact hu
  · exact foldl_keeps (P := fun x : MemSt => x.bytes = m.bytes) _ (fun x _ hx => (dropLine_bytes x e _).trans hx) _ _ hu

theorem ownPart_bytes (m : MemSt) (e id : Nat) (p : WritePart) : (m.ownPart e id p).bytes = m.bytes := by
  unfold MemSt.ownPart
  split
  · rfl
  · apply foldl_keeps (P := fun x : MemSt => x.bytes = m.bytes)
    · intro _ _ hx; exact hx
    · rfl

@[simp] theorem sinkFault_mem (s : State) (d n : Nat) (code : FCode) : (s.sinkFault d n code).mem = s.mem := rfl

@[simp] theorem writerFault_mem (s : State) (w : MemWrite) (code : FCode) : (s.writerFault w code).mem = s.mem := by
  unfold State.writerFault
  dsimp only
  repeat' split
  all_goals rfl

theorem onWrite_bytes (s : State) (id : Nat) (f : MemWrite → MemWrite) : (s.onWrite id f).mem.bytes = s.mem.bytes := rfl

theorem memOk_performPart (s : State) (w : MemWrite) (i : Nat) (p : WritePart) (h : MemOk s) :
    MemOk (s.performPart w i p) := by
  unfold State.performPart
  extract_lets d bad here now v u idx p' x
  have hv : MemOk v := foldl_keeps (P := MemOk) _ (fun s _ hs => memOk_takeKey s _ _ hs) _ _ h
  have hu : MemOk u := by
    simp only [u]
    split
    · exact memWf_homeWrite _ _ _ _ _ hv
    · exact h.of_bytes (by rw [writerFault_mem]; rfl)
  split
  · exact hu
  · split <;> exact hu

theorem fixWrites_bytes (s : State) (ids : List Nat) : (s.fixWrites ids).mem.bytes = s.mem.bytes := by
  unfold State.fixWrites
  split <;> rfl

theorem ownFloor_mem (s : State) (w : MemWrite) (p : WritePart) : (s.ownFloor w p).mem = s.mem := by
  unfold State.ownFloor
  dsimp only
  split <;> rfl

/-- Sending a write keeps the form, whether the home performs a part of it at once or not (R190). -/
theorem memOk_sendWrite (s : State) (w : MemWrite) (h : MemOk s) : MemOk (s.sendWrite w) := by
  unfold State.sendWrite
  extract_lets id s₁ w₁ s₂
  have h₂ : MemOk s₂ := by
    refine h.of_bytes ?_
    show (s₁.fixWrites (joinIds w₁.after w₁.near)).mem.bytes = s.mem.bytes
    rw [fixWrites_bytes]
    simp only [s₁]; split <;> rfl
  split
  · refine foldl_keeps (P := MemOk) _ (fun u a hu => ?_) _ _ h₂
    dsimp only
    split
    · exact (memOk_performPart _ _ _ _ hu).of_bytes (by rw [ownFloor_mem])
    · exact hu.of_bytes (by rw [onWrite_bytes]; exact ownPart_bytes _ _ _ _)
  · exact h₂

/-! ## The keys -/

theorem memOk_rawFrame (s : State) (f : Nat) (h : MemOk s) : MemOk (s.rawFrame f) := by
  unfold State.rawFrame
  generalize s.storedBytes (f * 4096) 4096 = bs
  generalize f * 4096 = a
  have g := memWf_putBytes bs s.mem.bytes a h
  exact g

theorem memOk_sealFrame (s : State) (slot f : Nat) (h : MemOk s) : MemOk (s.sealFrame slot f) := by
  unfold State.sealFrame
  exact (memOk_rawFrame s f h).onMem _ fun _ => rfl

theorem memOk_dropBlock (s : State) (b : Nat) (old : BitVec 128) (tag : Option Nat) (h : MemOk s) :
    MemOk (s.dropBlock b old tag) := by
  unfold State.dropBlock
  generalize leBytes old.toNat 16 = bs
  exact memWf_putBytes bs _ _ h

theorem memOk_sweepL2 (s : State) (slot : Nat) (flush : Bool) (h : MemOk s) : MemOk (s.sweepL2 slot flush) := by
  unfold State.sweepL2
  dsimp only
  split
  · exact h
  · exact foldl_keeps (P := MemOk) _ (fun s _ hs => memOk_dropBlock s _ _ _ hs) _ _ h

theorem memWf_unsealFrames (m : MemSt) (mine : Nat → Bool) (h : memWf m.bytes = true) :
    memWf (m.unsealFrames mine).bytes = true := memWf_filter _ _ h

theorem memOk_zeroRange (s : State) (pa n : Nat) (h : MemOk s) : MemOk (s.zeroRange pa n) := by
  unfold State.zeroRange
  dsimp only
  split
  · exact h
  · exact memOk_sendWrite _ _ h

/-! ## The host's memory, and what a reset keeps -/

theorem memOk_putHost (s : State) (a : Nat) (bs : List Byte) (h : MemOk s) : MemOk (s.putHost a bs) := by
  induction bs generalizing s a with
  | nil => exact h
  | cons b rest ih => exact ih _ _ (memWf_putByte _ _ _ h)

theorem memOk_hostFill (s : State) (a : Nat) (bs : List Byte) (h : MemOk s) : MemOk (s.hostFill a bs) :=
  foldl_keeps (P := fun m : List Host.Cell => memWf m = true) _ (fun m _ hm => memWf_putByte m _ _ hm) _ _ h

theorem rstCause_mem (s : State) (c d : Nat) : (s.rstCause c d).mem = s.mem := rfl

theorem memOk_resetPackage (s : State) (cause d : Nat) (h : MemOk s) : MemOk (s.resetPackage cause d) := h

theorem memOk_powerOn (s : State) (h : MemOk s) : MemOk s.powerOn := memWf_filter _ _ h

end Sys2Proof.Machine
end

