-- ==== Sys2Proof/Laws/Scalar.lean ====
section
/-! SUPPORT. What the shared operations of the scalar instructions do when they complete, said once. -/

namespace Sys2Proof.Machine

/-- A guarded instruction whose guard is true and whose effect is a state. -/
theorem plainRun_ok {g : Guard} {s t : State} {f : CtxId → Act State} (hg : s.guardTrue s.cur g = true)
    (hf : f s.cur = .ok t) : plainRun g s f = .next t := by
  simp [plainRun, hg, hf, settle]

/-- A guarded instruction whose guard is false only goes on (R75). -/
theorem plainRun_skip {g : Guard} {s : State} {f : CtxId → Act State} (hg : s.guardTrue s.cur g = false) :
    plainRun g s f = .next (s.advance s.cur false) := by
  simp [plainRun, hg, settle]

/-- A guarded instruction whose effect is a precise fault. -/
theorem plainRun_raise {g : Guard} {s : State} {f : CtxId → Act State} {code : FCode} {a : Word}
    (hg : s.guardTrue s.cur g = true) (hf : f s.cur = .error (.raise code a)) :
    plainRun g s f = .next (s.raisePrecise s.cur code a) := by
  simp [plainRun, hg, hf, settle]

/-- A two-source instruction completes (R294). -/
theorem aluRun_gives (f : (n : Nat) → BitVec n → BitVec n → BitVec n) (x : AluArgs) (s : State) (a b : Word)
    (hg : s.guardTrue s.cur x.guard = true) (ha : s.readSrc s.cur x.a = .ok a) (hb : s.readSrc2 s.cur x.b = .ok b)
    (hd : s.useDestG s.cur x.w x.d = .ok ()) :
    ∃ t, aluRun f x s = .next t ∧ GivesG s.cur s t x.w x.d (aluVal x.w32 f a b) := by
  obtain ⟨t, ht, h⟩ := s.finishG_spec s.cur x.w x.d (aluVal x.w32 f a b) (s.deps s.cur (srcKey x.a :: src2Keys x.b)) hd
  refine ⟨t, plainRun_ok hg ?_, h⟩
  simp only [ha, hb, Bind.bind, Except.bind]; exact ht

/-- A one-source instruction completes (R294). -/
theorem unRun_gives (f : (n : Nat) → BitVec n → BitVec n) (x : UnArgs) (s : State) (a : Word)
    (hg : s.guardTrue s.cur x.guard = true) (ha : s.readSrc s.cur x.a = .ok a)
    (hd : s.useDestG s.cur x.w x.d = .ok ()) :
    ∃ t, unRun f x s = .next t ∧ GivesG s.cur s t x.w x.d (aluVal x.w32 (fun n a _ => f n a) a 0) := by
  obtain ⟨t, ht, h⟩ := s.finishG_spec s.cur x.w x.d (aluVal x.w32 (fun n a _ => f n a) a 0) (s.deps s.cur [srcKey x.a]) hd
  refine ⟨t, plainRun_ok hg ?_, h⟩
  simp only [ha, Bind.bind, Except.bind]; exact ht

/-- A bit-field instruction completes (R332). -/
theorem fieldRun_gives (f : (n : Nat) → BitVec n → BitVec n → Nat → Nat → BitVec n) (old : Bool) (x : FieldArgs)
    (s : State) (a d : Word) (hg : s.guardTrue s.cur x.guard = true) (ha : s.readSrc s.cur x.a = .ok a)
    (ho : (if old then s.readG s.cur x.d else .ok 0) = .ok d) (hd : s.useDestG s.cur x.w x.d = .ok ()) :
    ∃ t, fieldRun f old x s = .next t ∧
      GivesG s.cur s t x.w x.d (aluVal x.w32 (fun n a d => f n a d x.pos.toNat (x.wm1.toNat + 1)) a d) := by
  obtain ⟨t, ht, h⟩ := s.finishG_spec s.cur x.w x.d
    (aluVal x.w32 (fun n a d => f n a d x.pos.toNat (x.wm1.toNat + 1)) a d)
    (s.deps s.cur (srcKey x.a :: if old then [depG x.d] else [])) hd
  refine ⟨t, plainRun_ok hg ?_, h⟩
  cases old
  · simp only [Bool.false_eq_true, if_false, Except.ok.injEq] at ho; subst ho
    simp only [ha, Bind.bind, Except.bind]; exact ht
  · simp only [if_true] at ho
    simp only [ha, ho, Bind.bind, Except.bind, if_true]; exact ht

/-- A predicate instruction completes (R366). -/
theorem predRun_gives (f : Word → Word → Word) (x : PredArgs) (s : State) (hg : s.guardTrue s.cur x.guard = true) :
    ∃ t, predRun f x s = .next t ∧
      GivesK s.cur s t x.d (f ((s.ctx s.cur).regs.getK x.a) ((s.ctx s.cur).regs.getK x.b)) :=
  ⟨_, plainRun_ok hg rfl, s.resultK_spec s.cur x.d _ _⟩

end Sys2Proof.Machine
end

