-- ==== Sys2Proof/Tests/Slice0.lean ====
section
/-! SUPPORT. Tests of the model: ill-formed terms that the check refuses, words of the spec that decode to the
instructions they stand for, and single steps whose results the spec writes out. -/

namespace Sys2Proof.Tests

open Sys2Proof.Machine

set_option Elab.async false

/-- No guard. -/
def always : Guard := ⟨0, false⟩

/-- What a call answers, when it answers. -/
def got {ε α : Type} (x : Except ε α) : Option α :=
  match x with
  | .ok a => some a
  | .error _ => none

/-- The state after an instruction, or the one before it where it stops. -/
def after (i : Instr) (s : State) : State :=
  match exec i s with
  | .next t => t
  | .fault _ | .refused _ => s

/-- A state with a general register set. -/
def setG (s : State) (r : GReg) (v : Word) : State := s.onRegs s.cur fun x => x.setG r v

/-- A general register of the context that executes. -/
def g (s : State) (r : GReg) : Word := (s.ctx s.cur).regs.getG r

/-- A predicate register of the context that executes. -/
def k (s : State) (r : KReg) : Word := (s.ctx s.cur).regs.getK r

/-- A state with a vector register whose lanes of `n` bits all hold a value. -/
def setV (s : State) (r : VReg) (n v : Nat) : State :=
  s.onRegs s.cur fun x => x.setV r (BitVec.ofNat 512 ((List.range (512 / n)).foldl (fun a i => a + v * 2 ^ (n * i)) 0))

/-- Lane 0 of a vector register. -/
def lane0 (s : State) (r : VReg) (n : Nat) : Nat := laneAt n ((s.ctx s.cur).regs.getV r) 0

/-- Two sources g4 and g5 for a scalar instruction that writes g3. -/
def abc (w32 : Bool) : AluArgs := ⟨always, w32, false, 3, .g 4, .reg (.g 5)⟩

/-- The result in g3 of an instruction on g4 and g5. -/
def res (i : Instr) (a b : Word) : Word := g (after i (setG (setG State.reset 4 a) 5 b)) 3

/-! ## Well-formedness: one ill-formed term for each check -/

/-- The field of EXT passes the form's width (R331). -/
theorem test_wf_field : (Instr.ext ⟨always, true, false, 1, .g 1, 30, 5⟩).wf = false ∧
    (Instr.ins ⟨always, false, false, 1, .g 1, 63, 1⟩).wf = false := by decide
/-- The end of a loop lies before its start (R64, R348). -/
theorem test_wf_disp : (Instr.lpsetReg always false 1 0).wf = false ∧
    (Instr.lpsetImm always false 1 0xFFFFFFFFF).wf = false := by decide
/-- A scratch CAS with an odd destination (R299). -/
theorem test_wf_cas : (Instr.amoh always .cas false false 3 ⟨.g 1, none, 0⟩).wf = false := by decide
/-- HALLOC of the Pantry with RL (R134). -/
theorem test_wf_halloc : (Instr.halloc always false 1 (.g 1) true true).wf = false := by decide
/-- WAIT that waits for nothing (R408). -/
theorem test_wf_wait : (Instr.wait always false 1 (.g 0) 0).wf = false := by decide
/-- A slice destination of an 8-bit type, or with W (R391). -/
theorem test_wf_dst : (Instr.vmov ⟨0, false, .s8, .slice .h 1 0⟩ (.v 1)).wf = false ∧
    (Instr.vmov ⟨0, true, .s32, .slice .h 1 0⟩ (.v 1)).wf = false := by decide
/-- A slice source of an 8-bit type (R391). -/
theorem test_wf_src : (Instr.vadd ⟨0, false, .s8, .v 1⟩ false (.slice .h 1 0) (.v 1)).wf = false ∧
    (Instr.vdot 0 false (.v 1) (.slice .h 1 0) (.v 1) (.v 1)).wf = false := by decide
/-- .SAT on a float type (R392). -/
theorem test_wf_sat : (Instr.vadd ⟨0, false, .f32, .v 1⟩ true (.v 1) (.v 1)).wf = false := by decide
/-- A shift of a float type (R396). -/
theorem test_wf_shift : (Instr.vshl ⟨0, false, .f16, .v 1⟩ (.v 1) (.v 1)).wf = false := by decide
/-- The conditions TST on floats and UN on integers (R397). -/
theorem test_wf_vcmp : (Instr.vcmp 0 .f32 1 .tst (.v 1) (.v 1)).wf = false ∧
    (Instr.vcmp 0 .s32 1 .un (.v 1) (.v 1)).wf = false := by decide
/-- A part that a conversion does not have (R401). -/
theorem test_wf_vcvt : (Instr.vcvt ⟨0, false, .s16, .v 1⟩ .s32 2 (.v 1)).wf = false := by decide
/-- Quantizing an integer type, and a zero point with S8 codes (R405). -/
theorem test_wf_codes : (Instr.vqnt ⟨0, false, .s32, .v 1⟩ .u8 0 (.v 1) (.v 1)).wf = false ∧
    (Instr.vqnt ⟨0, false, .f32, .v 1⟩ .s8 3 (.v 1) (.v 1)).wf = false ∧
    (Instr.vdqnt ⟨0, false, .s32, .v 1⟩ .u8 0 (.v 1) (.v 1)).wf = false := by decide
/-- A slice destination with W (R391). -/
theorem test_wf_valign : (Instr.valign 0 true (.slice .h 1 0) .toi (.v 1) (.v 1)).wf = false ∧
    (Instr.vexpm 0 true (.slice .h 1 0) (.v 1)).wf = false := by decide
/-- A logical reduction of floats, and a narrow result in a slice (R406). -/
theorem test_wf_red : (Instr.vred ⟨0, false, .f32, .v 1⟩ .and (.v 1)).wf = false ∧
    (Instr.vscan ⟨0, false, .bf16, .v 1⟩ .xor (.v 1)).wf = false ∧
    (Instr.vred ⟨0, false, .s8, .slice .h 1 0⟩ .min (.v 1)).wf = false := by decide
/-- A lane that the type does not have (R399, R400). -/
theorem test_wf_lane : (Instr.vbcast ⟨0, false, .s32, .v 1⟩ (.v 1) 16).wf = false ∧
    (Instr.vext false .s16 (.g 1) (.v 1) 32).wf = false := by decide
/-- A special function of an integer type (R402). -/
theorem test_wf_special : (Instr.vexp2 ⟨0, false, .s32, .v 1⟩ (.v 1)).wf = false := by decide
/-- A narrow VLI into a slice (R391). -/
theorem test_wf_vli : (Instr.vli ⟨0, false, .u8, .rslice .v 1 0⟩ 0).wf = false := by decide

/-! ## Decoding: words that the spec writes out -/

theorem test_decode_alu :
    decode 0x040610102000000C 0 = .ok (.add ⟨⟨0x3, false⟩, false, false, 4, .g 1, .imm 0xc⟩) ∧
    decode 0x04200C4140000000 0 = .ok (.and ⟨always, false, false, 3, .g 4, .reg (.g 5)⟩) ∧
    decode 0x06500C40200000FF 0 = .ok (.andn ⟨always, true, false, 3, .g 4, .imm 0xff⟩) ∧
    decode 0x0740087000000000 0 = .ok (.clz ⟨always, true, false, 2, .g 7⟩) ∧
    decode 0x0550087000000000 0 = .ok (.ctz ⟨always, false, false, 2, .g 7⟩) ∧
    decode 0x05000C4140000000 0 = .ok (.div ⟨always, false, false, 3, .g 4, .reg (.g 5)⟩) ∧
    decode 0x07100C4140000000 0 = .ok (.divu ⟨always, true, false, 3, .g 4, .reg (.g 5)⟩) ∧
    decode 0x05800830200000C8 0 = .ok (.extu ⟨always, false, false, 2, .g 3, 8, 3⟩) ∧
    decode 0x05900870200001C8 0 = .ok (.ins ⟨always, false, false, 2, .g 7, 8, 7⟩) ∧
    decode 0x06900C403FFFFFFB 0 = .ok (.min ⟨always, true, false, 3, .g 4, .imm 0x1ffffffb⟩) ∧
    decode 0x04A00C4140000000 0 = .ok (.max ⟨always, false, false, 3, .g 4, .reg (.g 5)⟩) ∧
    decode 0x04B00C4140000000 0 = .ok (.minu ⟨always, false, false, 3, .g 4, .reg (.g 5)⟩) := by
  decide

theorem test_decode_alu_2 :
    decode 0x04C00C4140000000 0 = .ok (.maxu ⟨always, false, false, 3, .g 4, .reg (.g 5)⟩) ∧
    decode 0x05B0040020000001 0 = .ok (.mov ⟨always, false, false, 1, .imm 1⟩) ∧
    decode 0x05C014502000001F 0 = .ok (.movhi ⟨always, false, 5, .g 5, 0x1f⟩) ∧
    decode 0x04D00C4140000000 0 = .ok (.mul ⟨always, false, false, 3, .g 4, .reg (.g 5)⟩) ∧
    decode 0x04E00C4140000000 0 = .ok (.mulh ⟨always, false, false, 3, .g 4, .reg (.g 5)⟩) ∧
    decode 0x04F00C4140000000 0 = .ok (.mulhu ⟨always, false, false, 3, .g 4, .reg (.g 5)⟩) ∧
    decode 0x04300C4140000000 0 = .ok (.or ⟨always, false, false, 3, .g 4, .reg (.g 5)⟩) ∧
    decode 0x0560087000000000 0 = .ok (.popc ⟨always, false, false, 2, .g 7⟩) ∧
    decode 0x05200C4140000000 0 = .ok (.rem ⟨always, false, false, 3, .g 4, .reg (.g 5)⟩) ∧
    decode 0x07300C4020000004 0 = .ok (.remu ⟨always, true, false, 3, .g 4, .imm 4⟩) ∧
    decode 0x04600C4020000003 0 = .ok (.shl ⟨always, false, false, 3, .g 4, .imm 3⟩) ∧
    decode 0x04700C4140000000 0 = .ok (.shr ⟨always, false, false, 3, .g 4, .reg (.g 5)⟩) := by
  decide

theorem test_decode_alu_3 :
    decode 0x06800C4020000004 0 = .ok (.sar ⟨always, true, false, 3, .g 4, .imm 4⟩) ∧
    decode 0x05A40C4140000000 0 = .ok (.sel ⟨⟨0x2, false⟩, false, false, 3, .g 4, .reg (.g 5)⟩) ∧
    decode 0x05A50C4020000000 0 = .ok (.sel ⟨⟨0x2, true⟩, false, false, 3, .g 4, .imm 0⟩) ∧
    decode 0x04100C4140000000 0 = .ok (.sub ⟨always, false, false, 3, .g 4, .reg (.g 5)⟩) ∧
    decode 0x04400C4140000000 0 = .ok (.xor ⟨always, false, false, 3, .g 4, .reg (.g 5)⟩) := by
  decide

theorem test_decode_cmp :
    decode 0x0800049020000000 0 = .ok (.cmp ⟨always, false, .eq, 1, .g 9, .imm 0⟩) ∧
    decode 0x0A200C1080000000 0 = .ok (.cmp ⟨always, true, .lt, 3, .g 1, .reg (.g 2)⟩) ∧
    decode 0x0A400C40C0000000 0 = .ok (.cmp ⟨always, true, .ltu, 3, .g 4, .reg (.g 3)⟩) ∧
    decode 0x0820045020000000 0 = .ok (.cmp ⟨always, false, .lt, 1, .g 5, .imm 0⟩) := by
  decide

theorem test_decode_pred :
    decode 0x0C000420C0000000 0 = .ok (.pand ⟨always, 1, 2, 3⟩) ∧
    decode 0x0C100420C0000000 0 = .ok (.por ⟨always, 1, 2, 3⟩) ∧
    decode 0x0C200420C0000000 0 = .ok (.pxor ⟨always, 1, 2, 3⟩) ∧
    decode 0x0C30041000000000 0 = .ok (.pnot always 1 1) ∧
    decode 0x0C40085000000000 0 = .ok (.pmovGToK always 2 (.g 5)) ∧
    decode 0x0C50183000000000 0 = .ok (.pmovKToG always false 6 3) := by
  decide

theorem test_decode_branch :
    decode 0x1030120000000000 0 = .ok (.callx always 9) ∧
    decode 0x1000000FFFFFFFFD 0 = .ok (.br always 0xffffffffd) ∧
    decode 0x1010120000000000 0 = .ok (.brx always 9) ∧
    decode 0x1020000000000010 0 = .ok (.call always 0x10) ∧
    decode 0x10403E0000000000 0 = .ok (.ret always 0x1f) ∧
    decode 0x1002000000000005 0 = .ok (.br ⟨0x1, false⟩ 5) := by
  decide

theorem test_decode_loop :
    decode 0x1410004000000002 0 = .ok (.lpsetImm always false 4 2) ∧
    decode 0x1420400000000000 0 = .ok (.lpclr always true) ∧
    decode 0x1430080000000000 0 = .ok (.lpget ⟨always, false, 4, .cnt⟩) ∧
    decode 0x1440480000000001 0 = .ok (.lprst ⟨always, true, 4, .start⟩) ∧
    decode 0x1400440000000002 0 = .ok (.lpsetReg always true 2 2) ∧
    decode 0x1410003000000004 0 = .ok (.lpsetImm always false 3 4) ∧
    decode 0x141000500000000C 0 = .ok (.lpsetImm always false 5 0xc) ∧
    decode 0x1400480000000007 0 = .ok (.lpsetReg always true 4 7) := by
  decide

theorem test_decode_scratch :
    decode 0x1820105190000008 0 = .ok (.ld always .w .fc false 4 ⟨.g 5, some (.g 6), 8⟩) ∧
    decode 0x1840083FC0000005 0 = .ok (.ld always .bu .plain false 2 ⟨.g 3, none, 5⟩) ∧
    decode 0x18B0185FC0000000 0 = .ok (.st always .d .plain 6 ⟨.g 5, none, 0⟩) ∧
    decode 0x18B0185FC8000000 0 = .ok (.st always .d .ew 6 ⟨.g 5, none, 0⟩) ∧
    decode 0x1A00085180000000 0 = .ok (.tld always 2 ⟨.g 5, some (.g 6), 0⟩) ∧
    decode 0x1A80085180000000 0 = .ok (.tst always false 2 ⟨.g 5, some (.g 6), 0⟩) ∧
    decode 0x1900045180000000 0 = .ok (.vld always .plain false 1 ⟨.g 5, some (.g 6), 0⟩) ∧
    decode 0x1900045190000000 0 = .ok (.vld always .fc false 1 ⟨.g 5, some (.g 6), 0⟩) ∧
    decode 0x1980045180000000 0 = .ok (.vst always false 1 ⟨.g 5, some (.g 6), 0⟩) := by
  decide

theorem test_decode_global :
    decode 0x1C30141FC8000000 0 = .ok (.ldg always .d true false false 5 ⟨.g 1, none, 0⟩) ∧
    decode 0x1E00007FC0000100 0 = .ok (.pref always false ⟨.g 7, none, 0x100⟩) ∧
    decode 0x1CB0084FC8000000 0 = .ok (.stg always .d true false 2 ⟨.g 4, none, 0⟩) ∧
    decode 0x1D00087FC8000000 0 = .ok (.vldg always true false false 2 ⟨.g 7, none, 0⟩) ∧
    decode 0x1D80087FC0000000 0 = .ok (.vstg always false false 2 ⟨.g 7, none, 0⟩) ∧
    decode 0x1C20142180000000 0 = .ok (.ldg always .w false false false 5 ⟨.g 2, some (.g 6), 0⟩) := by
  decide

theorem test_decode_atomic :
    decode 0x2000107148000008 0 = .ok (.amo always .add false true false false 4 (.g 7) (some (.g 5)) 8) ∧
    decode 0x2200105180000008 0 = .ok (.amoh always .add false false 4 ⟨.g 5, some (.g 6), 8⟩) := by
  decide

theorem test_decode_handle :
    decode 0x24000C2FC0000000 0 = .ok (.halloc always false 3 (.g 2) false false) ∧
    decode 0x24301C5180000000 0 = .ok (.feset always 7 ⟨.g 5, some (.g 6), 0⟩) ∧
    decode 0x24401C5180000000 0 = .ok (.feclr always 7 ⟨.g 5, some (.g 6), 0⟩) ∧
    decode 0x2450105FC0000020 0 = .ok (.fetst always false 4 ⟨.g 5, none, 0x20⟩) ∧
    decode 0x2410005FC0000000 0 = .ok (.hfree always (.g 5)) ∧
    decode 0x2420105FC0000000 0 = .ok (.hinfo always false 4 (.g 5)) := by
  decide

theorem test_decode_fence :
    decode 0x2800000000000004 0 = .ok (.fence always .sys .full) ∧
    decode 0x2800000000000013 0 = .ok (.fence always .pkg .rel) ∧
    decode 0x280000000000000A 0 = .ok (.fence always .die .acq) ∧
    decode 0x281000000000000F 0 = .ok (.qfence always 0xf) ∧
    decode 0x2820000000000000 0 = .ok (.ifence always) ∧
    decode 0x2800000000000001 0 = .ok (.fence always .core .full) ∧
    decode 0x2800000000000008 0 = .ok (.fence always .ctx .acq) ∧
    decode 0x2810000000000006 0 = .ok (.qfence always 6) := by
  decide

theorem test_decode_stream :
    decode 0x2C000C0000000100 0 = .ok (.srd always false 3 0 1) ∧
    decode 0x2C10180000000802 0 = .ok (.speek always false 6 2 0 true false) ∧
    decode 0x2C20005000000003 0 = .ok (.swr always 3 (.g 5)) ∧
    decode 0x2C30000000000001 0 = .ok (.seos always 1) ∧
    decode 0x2C60004000000002 0 = .ok (.ssteer always 2 (.g 4)) ∧
    decode 0x2C40080000000101 0 = .ok (.vsrd always false 2 1 1) ∧
    decode 0x2C50003000000000 0 = .ok (.vswr always 0 (.v 3)) ∧
    decode 0x2C00100000000201 0 = .ok (.srd always false 4 1 2) ∧
    decode 0x2C40100000000006 0 = .ok (.vsrd always false 4 6 0) := by
  decide

theorem test_decode_capsule :
    decode 0x3000100000000000 0 = .ok (.caprecv always false 4) ∧
    decode 0x3010140000000003 0 = .ok (.caphdr always false 5 3) ∧
    decode 0x3020180000000200 0 = .ok (.capnext always false 6 2) ∧
    decode 0x3030007000000002 0 = .ok (.capins always (.g 7) 2) ∧
    decode 0x3040000000000012 0 = .ok (.capdel always 2 1) ∧
    decode 0x3060008000000000 0 = .ok (.capnew always (.g 8)) ∧
    decode 0x3080009000000000 0 = .ok (.capflt always (.g 9)) ∧
    decode 0x3050000000000000 0 = .ok (.capsend always) ∧
    decode 0x3070000000000000 0 = .ok (.capend always) ∧
    decode 0x3042000000000012 0 = .ok (.capdel ⟨0x1, false⟩ 2 1) := by
  decide

theorem test_decode_engine_status :
    decode 0x3400000000000000 0 = .ok (.ewait always .me) ∧
    decode 0x3410140000000000 0 = .ok (.estat always false 5 .me false) ∧
    decode 0x3410140000000003 0 = .ok (.estat always false 5 .ce true) ∧
    decode 0x3400000000000001 0 = .ok (.ewait always .ce) := by
  decide

theorem test_decode_format_table :
    decode 0x3800005000000003 0 = .ok (.ftset always (.g 5) 3) ∧
    decode 0x3810180000000003 0 = .ok (.ftget always false 6 3) ∧
    decode 0x3820000000008104 0 = .ok (.ftidx always true true 4) := by
  decide

theorem test_decode_system :
    decode 0x3C00000000000000 0 = .ok (.nop always) ∧
    decode 0x3CB0146000000000 0 = .ok (.rmreq always false 5 (.g 6)) ∧
    decode 0x3CC0205000000000 0 = .ok (.rmstat always false 8 (.g 5)) ∧
    decode 0x3C90146000000000 0 = .ok (.submit always false 5 (.g 6)) ∧
    decode 0x3C40000000000005 0 = .ok (.trap always 5) ∧
    decode 0x3C80000000000000 0 = .ok (.bkpt always) ∧
    decode 0x3C50000000000000 0 = .ok (.tret always false) ∧
    decode 0x3C50000000000001 0 = .ok (.tret always true) ∧
    decode 0x3CA0146000000001 0 = .ok (.cancel always false 5 (.g 6) .launch) ∧
    decode 0x3C60140000100000 0 = .ok (.mfc always false 5 .cyc) ∧
    decode 0x3C70006000300000 0 = .ok (.mtc always .fpmode (.g 6)) ∧
    decode 0x3C10000000000000 0 = .ok (.fin always) := by
  decide

theorem test_decode_system_2 :
    decode 0x3C30106000010003 0 = .ok (.wait always false 4 (.g 6) 0x10003) ∧
    decode 0x3C20000000000000 0 = .ok (.yield always) ∧
    decode 0x3CB014A000000000 0 = .ok (.rmreq always false 5 (.g 0xa)) ∧
    decode 0x3C30180000040001 0 = .ok (.wait always false 6 (.g 0) 0x40001) ∧
    decode 0x3C44000000000001 0 = .ok (.trap ⟨0x2, false⟩ 1) ∧
    decode 0x3C301800000000F0 0 = .ok (.wait always false 6 (.g 0) 0xf0) := by
  decide

theorem test_decode_vector_arith :
    decode 0x4200000200801800 0 = .ok (.vadd ⟨0, false, .s8, .v 1⟩ true (.v 2) (.v 3)) ∧
    decode 0x4018700200801804 0 = .ok (.vfma ⟨0, false, .f32, .v 1⟩ (.v 2) (.v 3) (.v 4)) := by
  decide

theorem test_decode_vector_cmp :
    decode 0x4800400400401002 0 = .ok (.vcmp 0 .s32 2 .lt (.v 1) (.v 2)) := by
  decide

theorem test_decode_vector_convert :
    decode 0x4C18788A00400000 0 = .ok (.vexpm 0 false (.g 5) (.v 1)) ∧
    decode 0x4C08700400621800 0 = .ok (.vqnt ⟨0, false, .f32, .v 2⟩ .s8 0 (.v 1) (.bcast 3)) ∧
    decode 0x4C18788800400000 0 = .ok (.vexpm 0 false (.g 4) (.v 1)) ∧
    decode 0x4C20700400622800 0 = .ok (.valign 0 false (.v 2) .toi (.v 1) (.bcast 5)) ∧
    decode 0x4C20700A00E22801 0 = .ok (.valign 0 false (.v 5) .tof (.v 3) (.bcast 5)) := by
  decide

theorem test_decode_vector_reduce :
    decode 0x5000788A00400000 0 = .ok (.vred ⟨0, false, .f32, .g 5⟩ .add (.v 1)) ∧
    decode 0x5008700002400000 0 = .ok (.vscan ⟨0, false, .f32, .v 0⟩ .add (.v 9)) := by
  decide

theorem test_decode_vector_special :
    decode 0x5410600401C00000 0 = .ok (.vrcp ⟨0, false, .f16, .v 2⟩ (.v 7)) := by
  decide

theorem test_decode_tile :
    decode 0x58007000000001FA 0 = .ok (.tcfg 2 true 0xf 3) ∧
    decode 0x58004000000000EA 0 = .ok (.tcfg 2 false 7 1) ∧
    decode 0x5808000000000002 0 = .ok (.tzero 2) ∧
    decode 0x5810000000000002 0 = .ok (.trel 2) ∧
    decode 0x5818000000000002 0 = .ok (.ttrans 2) ∧
    decode 0x5820000000000002 0 = .ok (.tdirty 2) := by
  decide

theorem test_decode_vector_move :
    decode 0x5C007002A9400000 0 = .ok (.vmov ⟨0, false, .f32, .v 1⟩ (.slice .v 2 5)) ∧
    decode 0x5C184008000007FF 0 = .ok (.vli ⟨0, false, .s32, .v 4⟩ 0x7ff) ∧
    decode 0x5C007C4800400000 0 = .ok (.vmov ⟨0, false, .f32, .rslice .h 2 4⟩ (.v 1)) ∧
    decode 0x5C007003A9000000 0 = .ok (.vmov ⟨0, false, .f32, .v 1⟩ (.rslice .v 2 4)) := by
  decide
/-- Vector logic, from R81 and R396: major 0x11, func, W, type and d as in VADD's word (R392). -/
theorem test_decode_vector_logic :
    decode 0x4400000200801800 0 = .ok (.vand ⟨0, false, .s8, .v 1⟩ (.v 2) (.v 3)) := by decide

/-- Engine words in their carriers (R86, R91, R98). -/
theorem test_decode_engine_words :
    decode 0xE0C0910A910B0100 0 = .ok (.pushg .me 10) ∧ decode 0xE0C0910A910B0100 1 = .ok (.pushg .me 11) ∧
    decode 0xE0C0910A910B0100 2 = .ok (.lit .me 0x100) ∧ decode 0xE0800005C1010000 1 = .ok (.mma true false) ∧
    decode 0xE1C0910D00400000 1 = .ok (.lit .ce 0x40) ∧ decode 0xE140C80000000000 0 = .ok .cfill ∧
    decode 0xE080910490000000 1 = .ok (.dup .me) ∧ decode 0xE1C0000100029003 2 = .ok (.over .ce) ∧
    decode 0xE1C0004080008000 1 = .ok (.lith .ce 0) := by decide
/-- MDRAIN and MMA with their flags (R353, R356). -/
theorem test_decode_engine_flags :
    decode 0xE0C0C201C232C105 0 = .ok (.mdrain true none) ∧ decode 0xE0C0C201C232C105 1 = .ok (.mdrain false (some 3)) ∧
    decode 0xE0C0C201C232C105 2 = .ok (.mma true true) := by decide
/-- A reserved flag of MMA is ENG-ILL, and a major opcode that names nothing ILL-MAJOR (R76, R91). -/
theorem test_decode_refused :
    decode 0xE040C10200000000 0 = .error .engIll ∧ decode 0xFC00000000000000 0 = .error .illMajor := by decide
/-- An encoded instruction is the spec's word (R77, R296). -/
theorem test_encode :
    encode (.add ⟨⟨3, false⟩, false, false, 4, .g 1, .imm 12⟩) = some 0x040610102000000C ∧
    encode (.amo always .add false true false false 4 (.g 7) (some (.g 5)) 8) = some 0x2000107148000008 := by decide

/-! ## Single steps -/

/-- R294: ADD and ADD.W of 0x7FFF_FFFF and 1. -/
theorem test_add : g (after (.add ⟨always, false, false, 2, .g 1, .imm 1⟩) (setG State.reset 1 0x7FFFFFFF)) 2 = 0x80000000 := by
  decide
theorem test_add_w : g (after (.add ⟨always, true, false, 2, .g 1, .imm 1⟩) (setG State.reset 1 0x7FFFFFFF)) 2 =
    0xFFFFFFFF80000000 := by decide
/-- R384: SUB.W of 0x8000_0000 and 1, and SUB of 0 and 1. -/
theorem test_sub : g (after (.sub ⟨always, true, false, 2, .g 1, .imm 1⟩) (setG State.reset 1 0x80000000)) 2 = 0x7FFFFFFF ∧
    g (after (.sub ⟨always, false, false, 2, .g 0, .imm 1⟩) State.reset) 2 = 0xFFFFFFFFFFFFFFFF := by decide
/-- R301: ANDN.W with 0xFF, and ANDN with −1, whose immediate is extended before it is inverted. -/
theorem test_andn : g (after (.andn ⟨always, true, false, 3, .g 4, .imm 0xFF⟩) (setG State.reset 4 0x1234)) 3 = 0x1200 ∧
    g (after (.andn ⟨always, false, false, 3, .g 4, .imm (-1)⟩) (setG State.reset 4 0x1234)) 3 = 0 := by decide
/-- R363: OR of 0 and −1. -/
theorem test_or : g (after (.or ⟨always, false, false, 3, .g 0, .imm (-1)⟩) State.reset) 3 = 0xFFFFFFFFFFFFFFFF := by decide
/-- R352: with 3 and −5, MIN gives −5 and MINU gives 3; MINU.W and MAXU.W of 0xFFFF_FFFF and 1. -/
theorem test_min : res (.min (abc false)) 3 (-5) = -5 ∧ res (.minu (abc false)) 3 (-5) = 3 := by decide
theorem test_minu_w : res (.minu (abc true)) 0xFFFFFFFF 1 = 1 ∧ res (.maxu (abc true)) 0xFFFFFFFF 1 = 0xFFFFFFFFFFFFFFFF := by
  decide
/-- R361: the products of 2^64 − 1 and 2. -/
theorem test_mul : res (.mul (abc false)) (-1) 2 = 0xFFFFFFFFFFFFFFFE ∧ res (.mulh (abc false)) (-1) 2 = 0xFFFFFFFFFFFFFFFF ∧
    res (.mulhu (abc false)) (-1) 2 = 1 := by decide
theorem test_mul_w : res (.mulhu (abc true)) (-1) 2 = 1 ∧ res (.mulh (abc true)) (-1) 2 = 0xFFFFFFFFFFFFFFFF := by decide
/-- R359: MOVHI after MOV 0x123, and of −1 over g0. -/
theorem test_movhi : g (after (.movhi ⟨always, false, 5, .g 5, 0x1F⟩) (setG State.reset 5 0x123)) 5 = 0xF800000123 ∧
    g (after (.movhi ⟨always, false, 5, .g 0, 0x1FFFFFFF⟩) State.reset) 5 = 0xFFFFFFF800000000 := by decide
/-- R313: rows of the table of CLZ and CTZ. -/
theorem test_clz : g (after (.clz ⟨always, false, false, 2, .g 7⟩) (setG State.reset 7 0x100000000)) 2 = 31 ∧
    g (after (.clz ⟨always, true, false, 2, .g 7⟩) (setG State.reset 7 0x100000000)) 2 = 32 := by decide
theorem test_ctz : g (after (.ctz ⟨always, false, false, 2, .g 7⟩) (setG State.reset 7 0x100000000)) 2 = 32 ∧
    g (after (.ctz ⟨always, true, false, 2, .g 7⟩) (setG State.reset 7 0x80000000)) 2 = 31 := by decide
/-- R367: POPC of 0xFF, and POPC.W of all ones. -/
theorem test_popc : g (after (.popc ⟨always, false, false, 2, .g 7⟩) (setG State.reset 7 0xFF)) 2 = 8 ∧
    g (after (.popc ⟨always, true, false, 2, .g 7⟩) (setG State.reset 7 (-1))) 2 = 32 := by decide
/-- R332: the rows of the table of EXTU, EXT and INS. -/
theorem test_fields : g (after (.extu ⟨always, false, false, 2, .g 3, 8, 3⟩) (setG State.reset 3 0x12345678)) 2 = 6 ∧
    g (after (.ext ⟨always, false, false, 2, .g 3, 28, 3⟩) (setG State.reset 3 0xF0000000)) 2 = 0xFFFFFFFFFFFFFFFF ∧
    g (after (.extu ⟨always, true, false, 2, .g 3, 0, 31⟩) (setG State.reset 3 0x180000000)) 2 = 0xFFFFFFFF80000000 := by decide
theorem test_ins :
    g (after (.ins ⟨always, false, false, 2, .g 7, 8, 7⟩) (setG (setG State.reset 2 0xFFFF0000) 7 0xAB)) 2 = 0xFFFFAB00 := by
  decide
/-- R315: CMP.LT.W of 0x1_0000_0000 and 1 is true, CMP.LT is false. -/
theorem test_cmp :
    k (after (.cmp ⟨always, true, .lt, 3, .g 1, .imm 1⟩) (setG State.reset 1 0x100000000)) 3 = BitVec.allOnes 64 ∧
    k (after (.cmp ⟨always, false, .lt, 3, .g 1, .imm 1⟩) (setG State.reset 1 0x100000000)) 3 = 0 := by decide
/-- R375: with the selector k0, SEL gives a, and with kn the second source. -/
theorem test_sel : res (.sel (abc false)) 7 9 = 7 ∧ res (.sel ⟨⟨0, true⟩, false, false, 3, .g 4, .reg (.g 5)⟩) 7 9 = 9 := by
  decide
/-- R325, R326: a divide holds the divider; DIV of the least number by −1 is that number. -/
theorem test_div :
    let t := after (.div (abc false)) (setG (setG State.reset 4 0x8000000000000000) 5 (-1))
    (t.core t.cur.coreId).divider = some 0 ∧ g (after (.dividerDone t.cur.coreId) t) 3 = 0x8000000000000000 := by decide
/-- R74, R303: a taken BR goes to its target, and CALL leaves the return address. -/
theorem test_br : (after (.br always 0xFFFFFFFFD) (State.reset.setPc State.reset.cur 0x100)).pc State.reset.cur = 0xE8 := by
  decide
theorem test_call : g (after (.call always 16) (State.reset.setPc State.reset.cur 0x100)) 31 = 0x108 := by decide
/-- R58: a write to g0 is discarded. -/
theorem test_g0 : g (after (.mov ⟨always, false, false, 0, .imm 7⟩) State.reset) 0 = 0 := by decide
/-- R346: LIT 0x40 and LITH 0 leave 0x4_0000. -/
theorem test_lith : (after (.lith .ce 0) (after (.lit .ce 0x40) State.reset)).stack State.reset.cur .ce = [0x40000] := by decide
/-- R364: 1, 2 and OVER leave 1, 2, 1; SWAP then leaves 1, 1, 2. -/
theorem test_over :
    (after (.over .ce) (State.reset.onRegs State.reset.cur fun r => { r with ce := [2, 1] })).stack State.reset.cur .ce = [1, 2, 1] :=
  by decide
theorem test_swap :
    (after (.swap .ce) (State.reset.onRegs State.reset.cur fun r => { r with ce := [1, 2, 1] })).stack State.reset.cur .ce =
      [2, 1, 1] := by decide
/-- R253, R302: TRAP 5 in U mode with TRAPV.EN enters the handler with KIND 1 and its number. -/
theorem test_trap :
    let s := (State.reset.setPc State.reset.cur 0x100).onCtl State.reset.cur fun c => { c with trapv := 0x4001 }
    let t := after (.trap always 5) s
    t.pc t.cur = 0x4000 ∧ (t.ctx t.cur).ctl.frec[0] = 0xA0000105 ∧ (t.ctx t.cur).ctl.frec[3] = 0x108 ∧
      (t.ctx t.cur).ctl.s = true := by decide
/-- R392: VADD.S8.SAT of 100 and 100 is 127 and counts class 0 once per lane; VADD.S8 is −56 and counts nothing. -/
theorem test_vadd_sat :
    let t := after (.vadd ⟨0, false, .s8, .v 1⟩ true (.v 2) (.v 3)) (setV (setV State.reset 2 8 100) 3 8 100)
    lane0 t 1 8 = 127 ∧ (t.ctx t.cur).ctl.evcnt[0] = 64 := by decide +kernel
theorem test_vadd :
    let t := after (.vadd ⟨0, false, .s8, .v 1⟩ false (.v 2) (.v 3)) (setV (setV State.reset 2 8 100) 3 8 100)
    lane0 t 1 8 = 200 ∧ (t.ctx t.cur).ctl.evcnt[0] = 0 := by decide +kernel
/-- R393: VABS.S8 of −128 is −128. -/
theorem test_vabs : lane0 (after (.vabs ⟨0, false, .s8, .v 1⟩ (.v 2)) (setV State.reset 2 8 128)) 1 8 = 128 := by decide +kernel
/-- R399: VLI of 1023 in BF16 is 1024. -/
theorem test_vli : lane0 (after (.vli ⟨0, false, .bf16, .v 1⟩ 1023) State.reset) 1 16 = 0x4480 := by decide +kernel
/-- R112: 127.5 under RNE is quantized to 127 in S8, and class 0 counts. -/
theorem test_vqnt :
    let t := after (.vqnt ⟨0, false, .f32, .v 1⟩ .s8 0 (.v 2) (.v 3)) (setV (setV State.reset 2 32 0x42FF0000) 3 32 0x3F800000)
    lane0 t 1 8 = 127 ∧ (t.ctx t.cur).ctl.evcnt[0] = 16 := by decide +kernel
/-- R132, R134: the first HALLOC of 1 row of 64 bytes is number 1 at the lowest space. -/
theorem test_halloc :
    let t := after (.halloc always false 3 (.g 4) false false) (setG State.reset 4 0x00040001)
    g t 3 = 1 ∧ (Map.find (t.core t.cur.coreId).handles 1).isSome = true := by decide
/-- R386: TCFG.F32 of 16 rows and 16 columns. -/
theorem test_tcfg : ((after (.tcfg 2 true 15 3) State.reset).core State.reset.cur.coreId).tile 2 =
    { elems := Vector.replicate 256 0, rows := 16, cols := 16, f32 := true, configured := true, dirty := false,
      owner := some 0, origin := .zero } := by decide +kernel
/-- R76: an instruction with a false guard only goes on. -/
theorem test_false_guard :
    let t := after (.add ⟨⟨0, true⟩, false, false, 3, .g 4, .imm 1⟩) State.reset
    g t 3 = 0 ∧ t.pc t.cur = 8 := by decide

/-! ## The machine's step -/

/-- The state with a unit bound to the context of `cur`, and its slot in STATE 2. -/
def run : State :=
  let u : UnitRef := { launch := 2 ^ 32 + 1, home := 0, unit := 0, world := 1, ports := [], outs := [], rings := [], page := 0,
                       pending := 0, fmts := [] }
  (State.reset.onCtx State.reset.cur fun x => { x with unit := some u }).onSlot 0 0 fun x => { x with state := 2 }

/-- The next step runs the word that is placed where it fetches. -/
theorem test_step : (match step (State.reset.withFetchWord 64 0x05B0040020000001) with
    | .next t => g t 1
    | .fault _ | .refused _ => 0) = 1 := by decide

end Sys2Proof.Tests
end

