-- ==== Sys2Proof/Tests/WitnessScalar.lean ====
section
/-! SUPPORT. Concrete states and operands that meet the hypotheses of the statements about the scalar instructions,
sources, branches, loops, traps, control registers and the system instructions. -/

namespace Sys2Proof.Tests

open Sys2Proof.Machine

set_option Elab.async false

/-- 7 in g4 and 9 in g5. -/
def ab : State := setG (setG State.reset 4 7) 5 9

/-- A state with the latch l0 holding a scalar. -/
def latched : State := ab.push ab.cur (Latch.scalar 5)

/-! ## Scalar instructions -/

theorem witness_scalar_64 : (abc false).w32 = false ∧ ab.guardTrue ab.cur (abc false).guard = true ∧
    ab.readSrc ab.cur (abc false).a = .ok 7 ∧ ab.readSrc2 ab.cur (abc false).b = .ok 9 ∧
    ab.useDestG ab.cur (abc false).w (abc false).d = .ok () := by and_intros <;> rfl

theorem witness_scalar_32 : (abc true).w32 = true ∧ ab.guardTrue ab.cur (abc true).guard = true ∧
    ab.readSrc ab.cur (abc true).a = .ok 7 ∧ ab.readSrc2 ab.cur (abc true).b = .ok 9 ∧
    ab.useDestG ab.cur (abc true).w (abc true).d = .ok () := by and_intros <;> rfl

theorem witness_counts :
    let x : UnArgs := ⟨always, false, false, 2, .g 4⟩
    ab.guardTrue ab.cur x.guard = true ∧ ab.readSrc ab.cur x.a = .ok 7 ∧ ab.useDestG ab.cur x.w x.d = .ok () := by
  and_intros <;> rfl

/-- The widest field of the 64-bit form, and the last bit of the 32-bit form. -/
theorem witness_fields :
    let x : FieldArgs := ⟨always, false, false, 2, .g 4, 0, 63⟩
    let y : FieldArgs := ⟨always, true, false, 2, .g 4, 31, 0⟩
    x.pos.toNat + (x.wm1.toNat + 1) ≤ 64 ∧ y.pos.toNat + (y.wm1.toNat + 1) ≤ 32 ∧
    ab.guardTrue ab.cur x.guard = true ∧ ab.readSrc ab.cur x.a = .ok 7 ∧ ab.readG ab.cur x.d = .ok 0 := by
  and_intros <;> first | decide | rfl

theorem witness_moves :
    let x : MovArgs := ⟨always, false, false, 2, .imm 1⟩
    let y : MovHiArgs := ⟨always, false, 2, .g 4, 1⟩
    ab.guardTrue ab.cur x.guard = true ∧ ab.readSrc2 ab.cur x.b = .ok 1 ∧ ab.useDestG ab.cur x.w x.d = .ok () ∧
    ab.readSrc ab.cur y.a = .ok 7 ∧ ab.useDestG ab.cur false 2 = .ok () := by
  and_intros <;> rfl

/-- SEL with a selector that is false. -/
theorem witness_sel :
    let x : AluArgs := ⟨⟨1, false⟩, false, false, 3, .g 4, .reg (.g 5)⟩
    ab.guardTrue ab.cur x.guard = false ∧ ab.readSrc ab.cur x.a = .ok 7 ∧ ab.readSrc2 ab.cur x.b = .ok 9 ∧
    ab.useDestG ab.cur x.w x.d = .ok () := by and_intros <;> rfl

theorem witness_compare :
    let x : CmpArgs := ⟨always, false, .lt, 3, .g 4, .reg (.g 5)⟩
    ab.guardTrue ab.cur x.guard = true ∧ ab.readSrc ab.cur x.a = .ok 7 ∧ ab.readSrc2 ab.cur x.b = .ok 9 := by
  and_intros <;> rfl

/-- A divide by zero with a free divider. -/
theorem witness_divide :
    let x : AluArgs := ⟨always, false, false, 3, .g 4, .imm 0⟩
    ab.guardTrue ab.cur x.guard = true ∧ ab.readSrc ab.cur x.a = .ok 7 ∧ ab.readSrc2 ab.cur x.b = .ok 0 ∧
    ab.useDestG ab.cur x.w x.d = .ok () ∧ (ab.core ab.cur.coreId).divider = none := by and_intros <;> rfl

/-- A divide whose result is on its way. -/
theorem witness_divided :
    let t := after (.div (abc false)) ab
    let l : Late := { id := 0, d := .g 3, src := .divide 0, value := none }
    t.cur.coreId.die < 4 ∧ t.cur.coreId.core < 128 ∧ t.dividing t.cur.coreId = some (t.cur, l) ∧ l.src = .divide 0 := by
  and_intros <;> decide

/-! ## Sources, guards, branches, loops -/

theorem witness_sources :
    let x : AluArgs := ⟨always, false, false, 3, .l 1, .imm 0⟩
    latched.isPending latched.cur (destG 4) = false ∧ latched.trapOn latched.cur (destG 4) = false ∧
    ((latched.ctx latched.cur).regs.l[0]).valid = true ∧ ((latched.ctx latched.cur).regs.l[0]).pend = none ∧
    latched.guardTrue latched.cur x.guard = true ∧ x.a = .l 1 ∧ ((latched.ctx latched.cur).regs.l[(1 : LReg).toNat]).valid = false := by
  and_intros <;> first | decide | rfl

theorem witness_false_guard :
    (Instr.nop ⟨0, true⟩).guardOf = some ⟨0, true⟩ ∧ ab.guardTrue ab.cur ⟨0, true⟩ = false ∧
    (ab.ctx ab.cur).wait.traps = [] := by and_intros <;> first | decide | rfl

/-- A branch to an address that is a multiple of 8, and one that is not. -/
theorem witness_branch :
    let s := setG ab 6 0x1000
    s.guardTrue s.cur always = true ∧ (s.ctx s.cur).wait.traps = [] ∧ s.readG s.cur 6 = .ok 0x1000 ∧
    (0x1000 : Word).toNat % 8 = 0 ∧ s.useReg s.cur (.g 31) = .ok () ∧ (s.pc s.cur).toNat % 8 = 0 ∧
    s.readG s.cur 4 = .ok 7 ∧ (7 : Word).toNat % 8 ≠ 0 := by
  and_intros <;> first | rfl | decide

/-- A count that arms a loop at its least and at its greatest, with the other loop inactive. -/
theorem witness_lpset :
    let s := setG (setG ab 6 1) 7 0xFFFFFFFF
    s.guardTrue s.cur always = true ∧ s.readG s.cur 6 = .ok 1 ∧ s.readG s.cur 7 = .ok 0xFFFFFFFF ∧
    0 < (1 : Word).toNat ∧ (0xFFFFFFFF : Word).toNat < 2 ^ 32 ∧ ((s.ctx s.cur).regs.getZ true).active = false ∧
    0 < (1 : BitVec 5).toNat := by
  and_intros <;> first | rfl | decide

/-- LPRST of the counts, of a start with its active bit, and of an end; LPGET. -/
theorem witness_lprst :
    let s := setG (setG ab 6 0x1001) 7 0x1000
    s.guardTrue s.cur always = true ∧ s.readG s.cur 6 = .ok 0x1001 ∧ (0x1001 : Word).getLsbD 1 = false ∧
    (0x1001 : Word).getLsbD 2 = false ∧ s.readG s.cur 7 = .ok 0x1000 ∧ (0x1000 : Word).toNat % 8 = 0 ∧
    s.useDestG s.cur false 7 = .ok () := by
  and_intros <;> first | rfl | decide

/-- z1 ends where z0 is to be armed with a count of 0, with two rounds left. -/
def looped : State := ab.onRegs ab.cur fun r => r.setZ true { start := 0, fin := 8, initial := 2, remaining := 2, active := true }

/-- A count of 0 with no other loop, and with one that loops back. -/
theorem witness_lpset_zero :
    ab.guardTrue ab.cur always = true ∧ (ab.ctx ab.cur).wait.traps = [] ∧ ((ab.ctx ab.cur).regs.getZ true).active = false ∧
    ((ab.ctx ab.cur).regs.getZ true).fin ≠ ab.pc ab.cur + 8 ∧ 0 < (1 : BitVec 36).toInt ∧
    let y := (looped.ctx looped.cur).regs.getZ true
    let fin := looped.pc looped.cur + ((1 : BitVec 36).signExtend 64 <<< 3)
    (looped.ctx looped.cur).ctl.s = false ∧ y.active = true ∧ y.fin = fin ∧ 1 < y.remaining.toNat ∧ y.fin.toNat ≤ fin.toNat ∧
      y.fin ≠ looped.pc looped.cur := by
  and_intros <;> first | rfl | decide

/-- A loop that ends at the program counter, with two rounds left and with one. -/
theorem witness_loop_test :
    let two := looped.setPc looped.cur 8
    let one := two.onRegs two.cur fun r => r.setZ true { start := 0, fin := 8, initial := 2, remaining := 1, active := true }
    (two.ctx two.cur).ctl.s = false ∧ ((two.ctx two.cur).regs.getZ true).active = true ∧
    ((two.ctx two.cur).regs.getZ true).fin = two.pc two.cur ∧ 1 < ((two.ctx two.cur).regs.getZ true).remaining.toNat ∧
    ((one.ctx one.cur).regs.getZ true).fin = one.pc one.cur ∧ ¬1 < ((one.ctx one.cur).regs.getZ true).remaining.toNat := by
  and_intros <;> first | rfl | decide

/-! ## Traps, control registers and the system instructions -/

/-- A handler is set. -/
def handled : State := ab.onCtl ab.cur fun k => { k with trapv := 0x4001 }

/-- A record is held, in S mode. -/
def trapped : State := after (.trap always 5) handled

/-- No record with a handler and without one, and a record. -/
theorem witness_precise_fault :
    (handled.ctx handled.cur).wait.traps = [] ∧ (handled.ctx handled.cur).wait.lates = [] ∧
    (handled.ctx handled.cur).wait.load = none ∧ (handled.ctx handled.cur).cap = none ∧
    (handled.ctx handled.cur).ctl.frec[0].getLsbD 31 = false ∧ (handled.ctx handled.cur).ctl.trapv.getLsbD 0 = true ∧
    (ab.ctx ab.cur).ctl.trapv.getLsbD 0 = false ∧ (trapped.ctx trapped.cur).ctl.frec[0].getLsbD 31 = true ∧
    (trapped.ctx trapped.cur).wait.traps = [] ∧ (trapped.ctx trapped.cur).cap = none := by
  and_intros <;> first | rfl | decide

/-- U mode with a handler, S mode with a record, and S mode without one. -/
theorem witness_traps :
    let free := handled.onCtl handled.cur fun k => { k with s := true }
    handled.guardTrue handled.cur always = true ∧ (handled.ctx handled.cur).ctl.s = false ∧
    trapped.guardTrue trapped.cur always = true ∧ (trapped.ctx trapped.cur).ctl.s = true ∧
    (trapped.ctx trapped.cur).wait.traps = [] ∧ (trapped.ctx trapped.cur).wait.lates = [] ∧
    (free.ctx free.cur).ctl.s = true ∧ (free.ctx free.cur).ctl.frec[0].getLsbD 31 = false := by
  and_intros <;> first | rfl | decide

theorem witness_control :
    ab.guardTrue ab.cur always = true ∧ ab.useDestG ab.cur false 3 = .ok () ∧ ab.readSrc ab.cur (.g 4) = .ok 7 ∧
    (ab.ctx ab.cur).ctl.s = false ∧ (ab.ctx ab.cur).wait.traps = [] ∧ (trapped.ctx trapped.cur).ctl.s = true ∧
    trapped.readSrc trapped.cur (.g 4) = .ok 7 ∧ trapped.useDestG trapped.cur false 3 = .ok () := by
  and_intros <;> first | rfl | decide

/-- WAIT for the matrix engine, whose condition holds, with and without a port in its mask. -/
theorem witness_wait :
    let s := run.onCtx run.cur fun x => { x with unit := x.unit.map fun u => { u with ports := [(15, (3, false))] } }
    s.guardTrue s.cur always = true ∧ (s.ctx s.cur).wait.traps = [] ∧ s.readSrc s.cur (.g 4) = .ok 0 ∧
    s.captured s.cur = none ∧ s.useDestG s.cur false 3 = .ok () ∧
    (∀ p, p < 16 → (0x18000 : BitVec 19).getLsbD p = true → (s.inPhys s.cur p).isSome = true) ∧
    s.waitBits s.cur &&& (0x18000 : BitVec 19) ≠ 0 := by
  and_intros <;> first | rfl | decide

/-- A unit with an input at its EOS and an output whose EOS has been placed. -/
theorem witness_end :
    let u : UnitRef := { launch := 2 ^ 32 + 1, home := 0, unit := 0, world := 1, ports := [(0, (3, false))],
                         outs := [(0, (2, false))], rings := [], page := 0, pending := 0, fmts := [] }
    let s := ((run.onCtx run.cur fun x => { x with unit := some u }).onIn run.cur.coreId 3 fun p =>
      { p with eos := true }).onOut run.cur.coreId 2 fun p => { p with eos := true }
    s.guardTrue s.cur always = true ∧ (s.ctx s.cur).wait.traps = [] ∧ (s.ctx s.cur).unit = some u ∧
    (s.ctx s.cur).cap = none ∧ s.endQueues s.cur = true ∧ u.pending = 0 ∧
    (∀ p ∈ u.ports, (s.inPort s.cur.coreId p.2.1).closed = false ∧ (s.inPort s.cur.coreId p.2.1).eos = true ∧
       (s.inPort s.cur.coreId p.2.1).buf = []) ∧
    (∀ p ∈ u.outs, (s.outPort s.cur.coreId p.2.1).eos = true) := by
  and_intros <;> first | rfl | decide

/-- SourcesAndFalseGuard: a false guard of an instruction that U mode may execute, and of TRET, which it may not. -/
theorem witness_priv :
    State.reset.guardTrue State.reset.cur ⟨0, true⟩ = false ∧ (State.reset.ctx State.reset.cur).wait.traps = [] ∧
    State.reset.privOk State.reset.cur (.nop ⟨0, true⟩) = true ∧
    State.reset.privOk State.reset.cur (.tret ⟨0, true⟩ false) = false ∧
    (Instr.nop ⟨0, true⟩).guardOf = some ⟨0, true⟩ := by decide

end Sys2Proof.Tests
end

