-- ==== Sys2Proof/Tests/WitnessMemory.lean ====
section
/-! SUPPORT. Concrete states and operands that meet the hypotheses of the statements about global memory, scratch, handles
and tiles. -/

namespace Sys2Proof.Tests

open Sys2Proof.Machine

set_option Elab.async false

/-! ## Global memory -/

/-- An entry for the page of 0x4000, of TYPE 10, at 0x8000 (R142). -/
def page : TlbEntry := { world := 0, size := 0, va := 0x4000, pte := 0x808F, loc := 0x100 }

/-- The page is in the core's TLB, and g6 points into it. -/
def paged : State := setG (ab.onCore ab.cur.coreId fun x => { x with tlb := [page] }) 6 0x4000

/-- The address in g6. -/
def at6 : GloAddr := ⟨.g 6, none, 0⟩

/-- The page's translation. -/
def mapped : Xlat := { cell := 0x8000, key := none, atHome := true, entry := page }

/-- A load of 8 bytes, and of 64. -/
theorem witness_loads :
    paged.guardTrue paged.cur always = true ∧ (paged.ctx paged.cur).wait.traps = [] ∧
    paged.gloAddr paged.cur at6 = .ok 0x4000 ∧ paged.useDestG paged.cur false 3 = .ok () ∧
    paged.useDestV paged.cur false 3 = .ok () ∧
    got (paged.xlateRun (paged.tlbOf paged.cur.coreId false) (paged.worldOf paged.cur.coreId) none xRead 0x4000 8) = some [(0, mapped)] ∧
    got (paged.xlateRun (paged.tlbOf paged.cur.coreId false) (paged.worldOf paged.cur.coreId) none xRead 0x4000 64) = some [(0, mapped)] := by
  and_intros <;> first | decide +kernel | rfl

/-- A scalar load and a vector load whose data may return. -/
theorem witness_returns :
    let s := after (.ldg always .d false false false 3 at6) paged
    let v := after (.vldg always false false false 3 at6) paged
    s.cur.die < 4 ∧ s.cur.core < 128 ∧ s.cur.ctx < 4 ∧
    (∃ r ∈ (s.ctx s.cur).wait.load, s.loadReady s.cur true r (List.range 8) = true ∧ r.kind = .load 8 true false false false (.g 3) ∧
      r.replay = false ∧ r.early = [] ∧ r.cells.length = 8 ∧ ∀ p ∈ r.cells, Map.find s.mem.ecc (sectorOf p.1) = none) ∧
    (∃ r ∈ (v.ctx v.cur).wait.load, v.loadReady v.cur true r (List.range 64) = true ∧ r.kind = .load 64 false true false false (.v 3) ∧
      r.replay = false ∧ r.early = [] ∧ r.cells.length = 64 ∧ ∀ p ∈ r.cells, Map.find v.mem.ecc (sectorOf p.1) = none) := by
  decide +kernel

theorem witness_stores :
    paged.readG paged.cur 4 = .ok 7 ∧ paged.readV paged.cur 4 = .ok 0 ∧
    got (paged.xlateRun (paged.tlbOf paged.cur.coreId false) (paged.worldOf paged.cur.coreId) none xWrite 0x4000 8) = some [(0, mapped)] ∧
    got (paged.xlateRun (paged.tlbOf paged.cur.coreId false) (paged.worldOf paged.cur.coreId) none xWrite 0x4000 64) = some [(0, mapped)] ∧
    paged.mayIssue paged.cur false (paged.deps paged.cur (depG 4 :: gloKeys at6)) = true ∧
    paged.mayIssue paged.cur false (paged.deps paged.cur (depV 4 :: gloKeys at6)) = true := by
  and_intros <;> first | decide +kernel | rfl

/-- A store that is on its way, and one that its home has performed. -/
def stored : State := after (.stg always .d false false 4 at6) 
  { run with ctxs := (run.onRegs run.cur fun r => (r.setG 4 7).setG 6 0x4000).ctxs, cores := paged.cores }

theorem witness_ack :
    let s := after (.homeWritePerform 0 0) stored
    ∃ w ∈ s.write 0, w.src = .ctx s.cur ∧ w.amo = none ∧ w.allDone = true ∧ w.acked = false := by
  decide +kernel

theorem witness_fences :
    ab.fenceReady ab.cur .sys .full = true ∧ ab.fenceReady ab.cur .pkg .full = true ∧ ab.pendCount ab.cur .me = 0 ∧
    ab.pendCount ab.cur .ce = 0 ∧ (ab.ctx ab.cur).sent = [] ∧ ab.guardTrue ab.cur always = true ∧
    (ab.ctx ab.cur).wait.traps = [] := by and_intros <;> first | decide +kernel | rfl

/-- An aligned CAS, and one at an odd address. -/
theorem witness_amo :
    let va : Word := 0x4000 + (0 : BitVec 24).signExtend 64
    paged.readSrc paged.cur (.g 6) = .ok 0x4000 ∧ paged.readIdx paged.cur (some (.g 4)) = .ok 7 ∧
    paged.readG paged.cur 5 = .ok 9 ∧ va.toNat % 8 = 0 ∧
    got (paged.xlateRun (paged.tlbOf paged.cur.coreId false) (paged.worldOf paged.cur.coreId) none xWrite va 8) = some [(0, mapped)] ∧
    paged.mayIssue paged.cur false (paged.deps paged.cur (srcKey (.g 6) :: idxKeys (some (.g 4)) ++ [depG 5])) = true ∧
    cellHost (runCell [(0, mapped)] 0).1 = false ∧ paged.readSrc paged.cur (.g 4) = .ok 7 ∧
    ((7 : Word) + (0 : BitVec 24).signExtend 64).toNat % 8 ≠ 0 := by
  and_intros <;> first | decide +kernel | rfl

theorem witness_perform :
    ∃ w ∈ stored.write 0, ∃ p ∈ w.parts[0]?, p.done = false ∧ w.amo = none ∧ stored.mem.serves p.pa = true ∧
      stored.mayApply (homeDie p.pa) w = true ∧ p.poison = false ∧
      (∀ b ∈ blocksOf p.pa p.data.length, Map.find stored.mem.keys b = p.key) ∧ stored.mem.sealed = [] ∧ stored.mem.ecc = [] := by
  decide +kernel

/-- A write that a second die may apply: plain, once it has been performed, and causal. -/
theorem witness_apply :
    let p := after (.homeWritePerform 0 0) stored
    let c := p.onWrite 0 fun w => { w with causal := true, stamp := #v[1, 0, 0, 0, 0] }
    (∃ w ∈ p.write 0, p.mayApply 1 w = true ∧ w.causal = false ∧ ∃ q ∈ w.parts[0]?, q.done = true ∧
      q.applied.contains 1 = false) ∧
    (∃ w ∈ c.write 0, c.mayApply 1 w = true ∧ w.causal = true ∧ w.allDone = true ∧ w.appliedAt 1 = false) := by
  decide +kernel

/-- A CAS on its way: its operand is 7 and it compares with 9. -/
def swapping : State := after (.amo always .cas false false false false 5 (.g 6) (some (.g 4)) 0) paged

theorem witness_amo_home :
    ∃ w ∈ swapping.write 0, ∃ q ∈ w.amo, ∃ p ∈ w.parts.head?, p.done = false ∧ swapping.mem.serves p.pa = true ∧
      swapping.mayApply (homeDie p.pa) w = true ∧ swapping.mem.ecc = [] ∧ q.size = 8 ∧ p.poison = false ∧
      (∀ b ∈ blocksOf p.pa q.size, Map.find swapping.mem.keys b = p.key) ∧ swapping.mem.sealed = [] ∧
      ∀ i, i < q.size → q.loc ≠ p.pa + i := by
  decide +kernel

/-- The reply of the atomic, and of a CANCEL that has been answered. -/
theorem witness_late :
    let s := after (.amoHomePerform 0) swapping
    let c := (after (.cancel always false 3 (.g 4) .launch) ab).onWait ab.cur fun w =>
      { w with lates := w.lates.map fun l => { l with value := some 1 } }
    (∃ l ∈ (s.ctx s.cur).wait.lates.find? fun l => l.id == 1, l.src = .amo 0 ∧
      ∃ w ∈ s.write 0, ∃ q ∈ w.amo, q.old.isSome = true) ∧
    (∃ l ∈ (c.ctx c.cur).wait.lates.find? fun l => l.id == 0, l.src = .cancel .launch 7 ∧ l.value = some 1) := by
  decide +kernel

/-- A page fault of a load of an address that nothing maps, with the precise bit and a handler. -/
theorem witness_page_fault :
    let t := setG (handled.onCtl handled.cur fun k => { k with precise := true }) 6 0x4000
    let s := after (.ldg always .d false false false 3 at6) t
    ∃ p ∈ Map.find s.mem.faults 0, p.who = .ctx s.cur ∧ p.kind.isSome = true ∧ p.replay = false ∧
      (s.die s.cur.die).sched.rom = false ∧ (s.ctx s.cur).ctl.precise = true ∧ (s.ctx s.cur).wait.traps = [] ∧
      (s.ctx s.cur).wait.lates = [] ∧ (s.ctx s.cur).wait.load = none ∧ (s.ctx s.cur).cap = none ∧
      (s.ctx s.cur).ctl.frec[0].getLsbD 31 = false ∧ (s.ctx s.cur).ctl.trapv.getLsbD 0 = true := by
  decide +kernel

/-- A store to a duplicated page (R147). -/
theorem witness_dup_fault :
    let t := paged.onCore paged.cur.coreId fun x => { x with tlb := [{ page with pte := 0x818F }] }
    let s := after (.stg always .d false false 4 at6) t
    ∃ p ∈ Map.find s.mem.faults 0, p.who = .ctx s.cur ∧ p.kind.isSome = true ∧ p.dup = true ∧
      (s.die s.cur.die).sched.rom = false := by
  decide +kernel

/-- RMREQ without MODE.RCAP and with it, and SUBMIT of a unit. -/
theorem witness_requests :
    let u := (run.onCtl run.cur fun k => { k with rcap := true }).onRegs run.cur fun r => r.setG 6 0x4000
    let s : State := { u with cores := paged.cores }
    s.guardTrue s.cur always = true ∧ s.readSrc s.cur (.g 6) = .ok 0x4000 ∧ s.useDestG s.cur false 3 = .ok () ∧
    (ab.ctx ab.cur).ctl.rcap = false ∧ (0x4000 : Word).toNat % 64 = 0 ∧ (0x4000 : Word).toNat % 2 ^ 32 ≠ 0 ∧
    got (s.xlateRun (s.tlbOf s.cur.coreId false) (s.worldOf s.cur.coreId) none xRead 0x4000 64) = some [(0, mapped)] ∧
    (s.ctx s.cur).ctl.rcap = true ∧ (s.die s.cur.die).rm.queue.length < 16 ∧ (s.ctx s.cur).unit.isSome = true ∧
    s.storesSeen s.cur = true ∧ s.recordServed s.cur 0x4000 = true ∧ s.mem.ecc = [] ∧
    (s.die 0).sched.submits.length < 16 := by
  and_intros <;> first | decide +kernel | rfl

/-- A request that waits, and a submission. -/
def aReq : RmReq := { tag := 1, world := 1, record := some 0, cells := [], atHome := false, after := [], acq := Stamp.zero }
/-- A submission that waits. -/
def aSub : SubmitRec := { entry := 0, world := 1, cid := 0, user := true, launch := 1, home := 0 }

/-- Queues of requests and submissions of length 16; and for CANCEL a register that names object 7, and one that names the
caller's own. -/
theorem witness_full_queues :
    let s := paged.onDie 0 fun x =>
      { x with rm := { x.rm with queue := List.replicate 16 aReq }, sched := { x.sched with submits := List.replicate 16 aSub } }
    16 ≤ (s.die 0).rm.queue.length ∧ 16 ≤ (s.die 0).sched.submits.length ∧ s.guardTrue s.cur always = true ∧
    s.readSrc s.cur (.g 6) = .ok 0x4000 ∧ s.useDestG s.cur false 3 = .ok () ∧
    ab.readSrc ab.cur (.g 4) = .ok 7 ∧ (7 : Word).toNat % 2 ^ 32 ≠ 0 ∧ ab.readSrc ab.cur (.g 8) = .ok 0 := by
  and_intros <;> first | decide +kernel | rfl

/-! ## Scratch, handles and tiles -/

/-- A handle of 4 rows of 64 bytes in scratch. -/
def space : HandleSt := { level1 := false, rl := false, desc := 0x00040004, base := 0, units := 1, slot := none, owner := 0 }

/-- Handle 1 is in scratch, 2 in the Pantry and 3 in the Pantry and sealed; g6 names handle 1 and g7 row 3. -/
def scr : State := setG (setG (ab.onCore ab.cur.coreId fun x =>
  { x with handles := [(1, space), (2, { space with level1 := true }), (3, { space with level1 := true, slot := some 5 })] }) 6 1) 7 3

/-- Row 3 of handle 1, from a byte. -/
def row3 (b : BitVec 24) : ScrAddr := ⟨.g 6, some (.g 7), b⟩

/-- Each check of a scratch access: the last aligned doubleword of the last row, a byte past it, one that is not aligned, a
row past the last, and the handles. -/
theorem witness_checks :
    scr.handle scr.cur (9 : Word).toNat = none ∧ scr.handle scr.cur (1 : Word).toNat = some space ∧
    scr.handle scr.cur (2 : Word).toNat = some { space with level1 := true } ∧
    scr.handle scr.cur (3 : Word).toNat = some { space with level1 := true, slot := some 5 } ∧
    (3 + 1 ≤ space.rows ∧ (56 : BitVec 24).toNat < 2 ^ 23 ∧ (56 : BitVec 24).toNat + 8 ≤ space.rowBytes ∧
      (56 : BitVec 24).toNat % 8 = 0) ∧ (55 : BitVec 24).toNat + 8 ≤ space.rowBytes ∧ (55 : BitVec 24).toNat % 8 ≠ 0 ∧
    ¬((57 : BitVec 24).toNat + 8 ≤ space.rowBytes) ∧ ¬(4 + 1 ≤ space.rows) ∧ ¬((0x800000 : BitVec 24).toNat < 2 ^ 23) := by
  and_intros <;> first | decide +kernel | rfl

/-- The granules of the doubleword are full. -/
def scrFull : State := scr.onCore scr.cur.coreId fun x => { x with full := (List.range 16).map fun n => (n, ()) }

/-- A load whose granules are empty, and a store whose granules are full. -/
theorem witness_scratch_waits :
    scr.guardTrue scr.cur always = true ∧ (scr.ctx scr.cur).wait.traps = [] ∧ scr.scrSrcs scr.cur (row3 56) = .ok (1, 3) ∧
    LdWait.fw ≠ .plain ∧ scr.useDestG scr.cur false 3 = .ok () ∧ scr.scrCheck scr.cur 1 3 56 8 8 1 = .ok space ∧
    (scr.core scr.cur.coreId).fullAre (granulesOf space 3 56 8) true = false ∧ scrFull.readG scrFull.cur 4 = .ok 7 ∧
    scrFull.scrCheck scrFull.cur 1 3 56 8 8 1 = .ok space ∧
    (scrFull.core scrFull.cur.coreId).fullAre (granulesOf space 3 56 8) false = false := by
  and_intros <;> first | decide +kernel | rfl

/-- A load and a VLD with every granule full; their granules carry good codes. -/
theorem witness_scratch_loads :
    (scrFull.core scrFull.cur.coreId).fullAre (granulesOf space 3 56 8) true = true ∧
    (scrFull.core scrFull.cur.coreId).fullAre (granulesOf space 3 0 64) true = true ∧
    scrFull.scrSrcs scrFull.cur (row3 0) = .ok (1, 3) ∧ scrFull.scrCheck scrFull.cur 1 3 0 64 16 1 = .ok space ∧
    scrFull.useDestV scrFull.cur false 3 = .ok () ∧ scrFull.useDestG scrFull.cur false 3 = .ok () ∧
    (scrFull.core scrFull.cur.coreId).ecc = [] ∧ (scrFull.ctx scrFull.cur).wait.traps = [] := by
  and_intros <;> first | decide +kernel | rfl

/-- A store and a VST to empty granules. -/
theorem witness_scratch_stores :
    scr.readG scr.cur 4 = .ok 7 ∧ scr.readV scr.cur 4 = .ok 0 ∧ scr.scrCheck scr.cur 1 3 56 8 8 1 = .ok space ∧
    eccBlocks (scr.core scr.cur.coreId).ecc (granulesOf space 3 56 8) = false ∧
    (scr.core scr.cur.coreId).fullAre (granulesOf space 3 56 8) false = true ∧ scr.scrSrcs scr.cur (row3 0) = .ok (1, 3) ∧
    scr.scrCheck scr.cur 1 3 0 64 16 1 = .ok space := by
  and_intros <;> first | decide +kernel | rfl

theorem witness_amoh :
    scr.guardTrue scr.cur always = true ∧ scr.scrSrcs scr.cur (row3 56) = .ok (1, 3) ∧ scr.readG scr.cur 4 = .ok 7 ∧
    scr.readG scr.cur (4 + 1) = .ok 9 ∧ scr.scrCheck scr.cur 1 3 56 8 8 1 = .ok space ∧ (scr.core scr.cur.coreId).ecc = [] := by
  and_intros <;> first | decide +kernel | rfl

/-- HALLOC of a shape that fits, and of one that does not; HFREE and HINFO of a handle. -/
theorem witness_handles :
    let s := setG (setG scr 8 0x00040004) 9 0xFFFFFFFF
    let d : BitVec 32 := 0x00040004
    s.guardTrue s.cur always = true ∧ s.readSrc s.cur (.g 8) = .ok 0x00040004 ∧ s.useDestG s.cur false 3 = .ok () ∧
    shapeOk false d = true ∧ (0x00040004 : Word).toNat < 2 ^ 32 ∧ (s.core s.cur.coreId).freeNumber = some 4 ∧
    (s.core s.cur.coreId).fit false (shapeUnits false d) = some 1 ∧
    (s.core s.cur.coreId).fit false 4096 = none ∧
    s.readSrc s.cur (.g 6) = .ok 1 ∧ Map.find (s.core s.cur.coreId).handles (1 : Word).toNat = some space ∧ space.owner = s.cur.ctx ∧
    s.ringOn s.cur.coreId (1 : Word).toNat = false ∧ (s.core s.cur.coreId).opsOn (1 : Word).toNat = [] ∧
    s.handle s.cur (1 : Word).toNat = some space := by
  and_intros <;> first | decide +kernel | rfl

/-- HALLOC of a shape larger than what is left. -/
theorem witness_no_space :
    let s := setG (scr.onCore scr.cur.coreId fun x => { x with handles := [(1, { space with units := 2048 })] }) 8 0x00040004
    s.readSrc s.cur (.g 8) = .ok 0x00040004 ∧ shapeOk false 0x00040004 = true ∧
    (s.core s.cur.coreId).fit false (shapeUnits false 0x00040004) = none := by
  and_intros <;> first | decide +kernel | rfl

/-- Counts up to the handle's last granule. -/
theorem witness_full_bits :
    let first := space.base * 64 + 3 * space.rb + (48 : BitVec 24).toNat / 16
    scr.scrSrcs scr.cur (row3 48) = .ok (1, 3) ∧ scr.scrCheck scr.cur 1 3 48 1 1 1 = .ok space ∧
    (setG scr 8 1).readG scr.cur 8 = .ok 1 ∧ first + (1 : Word).toNat % 65536 ≤ space.base * 64 + space.rows * space.rb ∧
    scr.useDestG scr.cur false 3 = .ok () := by
  and_intros <;> first | decide +kernel | rfl

/-- A tile of 4 rows and 4 columns that the context owns, and one that it has no record of. -/
theorem witness_tiles :
    let s := after (.tcfg 2 true 3 0) scr
    let z := s.core s.cur.coreId
    s.useReg s.cur (.t 2) = .ok () ∧ z.tileRec s.cur.ctx 2 = .owned ∧ (z.tile 2).rows = (z.tile 2).cols ∧
    z.tileRec s.cur.ctx 3 = .none ∧ s.useReg s.cur (.t 3) = .ok () ∧ (z.tile 2).rows ≤ 16 ∧ (z.tile 2).cols ≤ 16 ∧
    s.guardTrue s.cur always = true ∧ s.scrSrcs s.cur ⟨.g 6, none, 0⟩ = .ok (1, 0) ∧
    s.scrCheck s.cur 1 0 0 (4 * (z.tile 2).cols) 16 (z.tile 2).rows = .ok space ∧
    (∀ e ∈ tileGranules space (z.tile 2).shape 0 0, Map.find z.ecc e = none) ∧ 4 * (z.tile 2).cols ≤ space.rowBytes := by
  and_intros <;> first | decide +kernel | rfl

end Sys2Proof.Tests
end

