-- ==== Sys2Proof/Tests/WitnessEngine.lean ====
section
/-! SUPPORT. Concrete states and operands that meet the hypotheses of the statements about engine words, streams, capsules
and vector instructions. -/

namespace Sys2Proof.Tests

open Sys2Proof.Machine

set_option Elab.async false

/-- The call answers. -/
def answers {ε α : Type} (x : Except ε α) : Bool := (got x).isSome

/-! ## Engine words -/

/-- A parameter stack of the copy engine. -/
def stacked (l : List Word) : State := ab.onRegs ab.cur fun r => { r with ce := l, me := l }

/-- Stacks of no entry, of one, of two and of eight, which is full. -/
theorem witness_stack :
    (stacked []).stack ab.cur .ce = [] ∧ (stacked [1]).stack ab.cur .ce = [1] ∧ (stacked [1, 2]).stack ab.cur .ce = [1, 2] ∧
    ((stacked (List.replicate 8 0)).stack ab.cur .ce).length = 8 ∧ ((stacked (List.replicate 7 0)).stack ab.cur .ce).length < 8 ∧
    (stacked [1]).readG ab.cur 4 = .ok 7 := by
  and_intros <;> first | decide | rfl

theorem witness_tables :
    ab.guardTrue ab.cur always = true ∧ ab.readSrc ab.cur (.g 4) = .ok 7 ∧ ab.useDestG ab.cur false 3 = .ok () := by
  and_intros <;> rfl

/-- Arguments that pass the checks, top first: packed handle 1, rows 1, and a format that suits. -/
def launches : List (Instr × Engine × List Word) :=
  [(.mma false false, .me, [0, 16, 2 ^ 32, 2 ^ 32]), (.mdrain false none, .me, [64, 15]), (.mdrain false (some 3), .me, [64]),
   (.mroute, .me, [15, 0, 0]), (.maccld, .me, [2 ^ 32]), (.cpy false .none 0, .ce, [64, 0x4000, 1, 2 ^ 32]),
   (.cpys .e 0, .ce, [64, 0x4000, 1, 2 ^ 32]), (.cpyh, .ce, [65535, 2 ^ 32, 2 ^ 32]),
   (.cpyp false .none false 0, .ce, [64, 0x4000, 1, 2 ^ 32]), (.cgath .b4, .ce, [4096, 2 ^ 32, 0, 2 ^ 32]),
   (.cstrm 0, .ce, [64, 0x4000, 15]), (.csink, .ce, [64, 0x4000, 0]), (.cfill, .ce, [0, 1, 2 ^ 32])]

/-- Each launch word with good arguments, and with none that pass. -/
theorem witness_launch : ∀ x ∈ launches,
    let s := stacked x.2.2
    let args := (s.stack s.cur x.2.1).take (launchNeeds x.1)
    x.1.launchEngine = some x.2.1 ∧ (s.ctx s.cur).wait.traps = [] ∧ launchNeeds x.1 ≤ (s.stack s.cur x.2.1).length ∧
    (s.ctx s.cur).chain = none ∧ (s.ctx s.cur).held = none ∧ s.shadowFree s.cur.coreId x.2.1 = true ∧
    launchArgsOk x.1 args = true ∧ (s.launchFmt s.cur x.1 args).isSome = true ∧
    launchArgsOk x.1 (List.replicate 5 (BitVec.allOnes 64)) = false := by decide +kernel

/-- An MMA whose format entry suits it, and one whose entry does not. -/
theorem witness_format :
    fmtSuits (.mma false false) [0, 16, 2 ^ 32, 2 ^ 32] 0x3F80000000000000 = true ∧
    fmtSuits (.mma false false) [0, 16, 2 ^ 32, 2 ^ 32] 0x3F80000000080000 = false := by decide

/-! ## Streams -/

/-- A unit with inputs 0 (scalar) and 1 (vector) at physical ports 4 and 5, and outputs 0 and 1 at 6 and 7. -/
def ported : State :=
  let u : UnitRef := { launch := 2 ^ 32 + 1, home := 0, unit := 0, world := 1, ports := [(0, (4, false)), (1, (5, true))],
                       outs := [(0, (6, false)), (1, (7, true))], rings := [], page := 0, pending := 0, fmts := [] }
  setG (run.onCtx run.cur fun x => { x with unit := some u }) 4 7

/-- `ported` with a token at the head of inputs 0 and 1. -/
def fed (x : TokKind) : State :=
  let t : Token := { kind := x, val := 7, clock := none }
  (ported.onIn ported.cur.coreId 4 fun p => { p with buf := [t] }).onIn ported.cur.coreId 5 fun p => { p with buf := [t] }

/-- A data token, a steer token and an EOS at a scalar and a vector input. -/
theorem witness_reads : ∀ x ∈ [TokKind.data, .steer, .eos],
    let s := fed x
    s.guardTrue s.cur always = true ∧ (s.ctx s.cur).wait.traps = [] ∧
    (s.inPort s.cur.coreId 4).head = some ⟨x, 7, none⟩ ∧ (s.inPort s.cur.coreId 5).head = some ⟨x, 7, none⟩ ∧
    got (s.readPort s.cur 0 false) = some 4 ∧ got (s.readPort s.cur 1 true) = some 5 ∧ answers (s.useDestG s.cur false 3) = true ∧
    answers (s.useDestV s.cur false 3) = true := by decide +kernel

/-- Outputs with room for one token more, and full ones; the greatest steer value. -/
theorem witness_writes :
    let t : Token := ⟨.data, 0, none⟩
    let three := (ported.onOut ported.cur.coreId 6 fun p => { p with buf := [t, t, t] }).onOut ported.cur.coreId 7 fun p =>
      { p with buf := [t, t, t] }
    let full := (ported.onOut ported.cur.coreId 6 fun p => { p with buf := [t, t, t, t] }).onOut ported.cur.coreId 7 fun p =>
      { p with buf := [t, t, t, t] }
    (∀ s ∈ [three, full], s.guardTrue s.cur always = true ∧ (s.ctx s.cur).wait.traps = [] ∧ s.captured s.cur = none ∧
      s.mayRelease s.cur = true ∧ got (s.writePort s.cur 0 false) = some 6 ∧ got (s.writePort s.cur 1 true) = some 7 ∧
      got (s.readSrc s.cur (.g 4)) = some 7 ∧ got (s.readVPort s.cur (.v 4)) = some 0) ∧
    (three.outPort three.cur.coreId 6).buf.length < 4 ∧ 4 ≤ (full.outPort full.cur.coreId 6).buf.length ∧
    (15 : Word).toNat ≤ 15 := by decide +kernel

/-! ## Capsules -/

/-- The core is in world 1, and so is the place that a template's hop, sink and fault words name. -/
def worlded : State :=
  scr.onDie 0 fun d => { d with wmap := [(0, { v := true, world := 1, busy := false, nv := false, nworld := 0 })] }

/-- A header of one hop, with one row of 16 bytes: CUR 0, NHOP 1, WORLD 1. -/
def header : CapHdr := BitVec.ofNat 512 (0x01000100 * 2 ^ 32 + 0x0101 * 2 ^ 64)

/-- `worlded` holding a capsule. -/
def holding (h : CapHdr) : State :=
  worlded.onCtx worlded.cur fun x => { x with cap := some { hdr := h, launch := 1, home := 0, sending := none } }

/-- A held capsule at its first hop, and none. -/
theorem witness_held :
    let s := holding header
    s.guardTrue s.cur always = true ∧ (worlded.ctx worlded.cur).cap = none ∧ (s.ctx s.cur).cap.isSome = true ∧
    answers (s.useDestG s.cur false 3) = true ∧ capCur header ≤ (0 : BitVec 4).toNat ∧ capNhop header = 1 ∧ capNhop header < 10 ∧
    (1 : BitVec 4).toNat ≤ capNhop header ∧ got (s.readSrc s.cur (.g 4)) = some 7 ∧ (7 : Word).toNat < 2 ^ 29 ∧
    s.placeIn (capByte header 7) 0 = true ∧ (0 : BitVec 4).toNat + (1 : BitVec 4).toNat ≤ capNhop header ∧ s.mayRelease s.cur = true ∧
    capCur header ≠ capNhop header ∧
    s.placeIn (capByte header 7) ((capHop header (capCur header)).extractLsb' 0 17) = true := by decide +kernel

/-- The hop word in g0 names a place of the world. -/
theorem witness_insert : got ((holding header).readSrc State.reset.cur (.g 0)) = some 0 ∧
    (holding header).placeIn (capByte header 7) ((0 : Word).extractLsb' 0 17) = true := by decide +kernel

/-- A capsule in a receive buffer. -/
def arrived (taken : Option Nat) : Capsule :=
  { hdr := header, data := List.replicate 16 0, launch := 1, home := 0, id := 9, clock := Stamp.zero, role := .hop, taken := taken,
    sink := none }

/-- A capsule that has been moved in for each of the results: with the faulted flag, with the redirected flag, at its sink, and
at a hop. -/
theorem witness_receive_kinds : ∀ k ∈ [{ arrived (some 0) with hdr := capFaulted header 1 },
      { arrived (some 0) with hdr := capRedirected header }, { arrived (some 0) with role := .sink }, arrived (some 0)],
    let t := (worlded.onCore worlded.cur.coreId fun x => { x with rxbuf := [k] }).onWait worlded.cur fun w =>
      { w with park := some (.capMove false 3) }
    ((t.core t.cur.coreId).rxbuf.find? fun y => y.taken == some t.cur.ctx) = some k ∧ k.data.length ≤ 17408 ∧
    ((capFlt k.hdr = true ∨ k.hdr ≠ capFaulted header 1) ∧
      ((capByte k.hdr 6).testBit 1 = true ∨ k.hdr ≠ capRedirected header)) := by decide +kernel

/-- A capsule to take, and one that has been moved in. -/
theorem witness_receive :
    let s := worlded.onCore worlded.cur.coreId fun x => { x with rxbuf := [arrived none] }
    let t := (worlded.onCore worlded.cur.coreId fun x => { x with rxbuf := [arrived (some 0)] }).onWait worlded.cur fun w =>
      { w with park := some (.capMove false 3) }
    s.guardTrue s.cur always = true ∧ (s.ctx s.cur).wait.traps = [] ∧ (s.ctx s.cur).cap = none ∧
    answers (s.useDestG s.cur false 3) = true ∧
    (s.core s.cur.coreId).capFor (s.worldOf s.cur.coreId) s.cur.ctx = some (arrived none) ∧
    (∀ y ∈ (s.core s.cur.coreId).rxbuf, y = arrived none ∨ (y.id ≠ 9 ∧ y.taken ≠ some s.cur.ctx)) ∧ t.cur.die < 4 ∧ t.cur.core < 128 ∧
    t.cur.ctx < 4 ∧ (t.ctx t.cur).wait.park = some (.capMove false 3) ∧
    ((t.core t.cur.coreId).rxbuf.find? fun y => y.taken == some t.cur.ctx) = some (arrived (some 0)) ∧
    (arrived (some 0)).role = .hop ∧ capFlt header = false ∧ (capByte header 6).testBit 1 = false := by decide +kernel

/-- Templates in row 0 of handle 1: one in order, one whose places are not in the world, and one of no rows. -/
theorem witness_template :
    let put (x : State) (h : CapHdr) := x.onCore x.cur.coreId fun y => { y with scratch := putBytes [] 0 (leBytes h.toNat 64) }
    let tmpl : CapHdr := BitVec.ofNat 512 (0x00000100 * 2 ^ 32 + 0x0101 * 2 ^ 64)
    let v : Word := 2 ^ 32
    let s := setG (put worlded tmpl) 6 v
    let read (x : State) : CapHdr := BitVec.ofNat 512 (leNat ((x.core x.cur.coreId).scratchBytes (space.addr 0 0) 64))
    s.guardTrue s.cur always = true ∧ got (s.readSrc s.cur (.g 6)) = some v ∧ (s.ctx s.cur).cap = none ∧ v.toNat < 2 ^ 40 ∧
    got (s.scrCheck s.cur ((v.extractLsb' 32 8).zeroExtend 64) ((v.extractLsb' 0 32).zeroExtend 64) 0 64 1 1) = some space ∧
    (s.core s.cur.coreId).ecc = [] ∧ capFmtOk (read s) = true ∧ s.capPlacesOk (read s) (s.worldOf s.cur.coreId) = true ∧
    capFmtOk (read (put worlded 0)) = false ∧ (put scr tmpl).capPlacesOk tmpl 1 = false := by decide +kernel

/-! ## Vector instructions -/

/-- v2, v3 and v4 of eight-bit lanes. -/
def vecs : State := setV (setV (setV ab 2 8 100) 3 8 100) 4 8 1

/-- Three operands of registers, a destination register, a general register and a slice. -/
theorem witness_vector : ∀ w ∈ [8, 16, 32],
    let args := [VArg.vec ((vecs.ctx vecs.cur).regs.getV 2), .vec ((vecs.ctx vecs.cur).regs.getV 3), .vec ((vecs.ctx vecs.cur).regs.getV 4)]
    got ([(VSrc.v 2, w), (.v 3, w), (.v 4, w)].mapM fun a => vecs.vsrc vecs.cur a.1 a.2) = some args ∧
    got (vecs.vdst vecs.cur false (.v 1)) = some (.v 1) ∧ got (vecs.vdst vecs.cur false (.g 1)) = some (.g 1) ∧
    answers (vecs.argsOk vecs.cur args) = true ∧ vecs.restoreReads vecs.cur (args ++ []) = .ok vecs := by
  intro w _
  refine ⟨?_, rfl, rfl, ?_, rfl⟩ <;> (revert w; decide +kernel)

/-- One operand, two, and none. -/
theorem witness_vector_few :
    let a := VArg.vec ((vecs.ctx vecs.cur).regs.getV 2)
    got ([(VSrc.v 2, 32)].mapM fun a => vecs.vsrc vecs.cur a.1 a.2) = some [a] ∧
    got ([(VSrc.v 2, 32), (VSrc.v 2, 32)].mapM fun a => vecs.vsrc vecs.cur a.1 a.2) = some [a, a] ∧
    got (([] : List (VSrc × Nat)).mapM fun a => vecs.vsrc vecs.cur a.1 a.2) = some [] ∧
    answers (vecs.argsOk vecs.cur [a, a]) = true ∧ answers (vecs.argsOk vecs.cur []) = true := by decide +kernel

/-- A slice of a tile that the context owns. -/
theorem witness_vector_slice :
    let s := after (.tcfg 2 true 3 0) vecs
    let r : SliceRef := { dir := .h, m := 2, i := 3 }
    got (s.vsrc s.cur (.slice .h 2 3) 32) = some (.slice r) ∧ got (s.vdst s.cur false (.slice .h 2 3)) = some (.slice r) ∧
    answers (s.argsOk s.cur [.slice r]) = true ∧ answers (s.sliceOk s.cur r) = true ∧
    got ((s.restoreReads s.cur ([.slice r] ++ [.slice r])).map fun t => t == s) = some true := by decide +kernel

/-- Integer and float types for the type hypotheses; no active lane, one and two. -/
theorem witness_vector_types :
    ETy.isFloat .s8 = false ∧ ETy.isFloat .f32 = true ∧
    ((List.range 16).filter (active (vecs.onRegs vecs.cur fun r => r.setK 1 0) 1)) = [] ∧
    ((List.range 16).filter (active (vecs.onRegs vecs.cur fun r => r.setK 1 4) 1)) = [2] ∧
    ((List.range 16).filter (active (vecs.onRegs vecs.cur fun r => r.setK 1 5) 1)) = [0, 2] := by decide +kernel

end Sys2Proof.Tests
end

