-- ==== Sys2Proof/Tests/WitnessEvents.lean ====
section
/-! SUPPORT. Concrete states that meet the hypotheses of the statements about the events of issue, engines, the network,
service, regions and capsules. -/

namespace Sys2Proof.Tests

open Sys2Proof.Machine

set_option Elab.async false

/-! ## Issue -/

/-- The context that executes. -/
def c0 : CtxId := State.reset.cur
/-- Its core. -/
def k0 : CoreId := c0.coreId

/-- A fetch of an address that the TLB maps. -/
theorem witness_fetch :
    let s := paged.onWait c0 fun w => { w with fetch := some 0x4000 }
    c0.die < 4 ∧ c0.core < 128 ∧ c0.ctx < 4 ∧ (s.ctx c0).wait.fetch = some 0x4000 ∧
    got (s.xlate (s.tlbOf k0 false) (s.worldOf k0) none xFetch 0x4000) = some mapped ∧ s.mem.serves 0x8000 = true ∧
    Map.find s.mem.ecc (sectorOf 0x8000) = none := by decide +kernel

/-- A parked context whose condition holds, and one that has held issue too long, alone and beside another. -/
theorem witness_issue :
    let parked := (run.onWait c0 fun w => { w with park := some (.engine .me) }).onCore k0 fun x => { x with holder := none }
    let long := (run.onDie 0 fun d => { d with cyc := 5120 }).onWait c0 fun w => { w with overdue := true }
    let two := (long.onCtx (k0.ctx 1) fun x => { x with unit := (run.ctx c0).unit }).onSlot 0 1 fun x => { x with state := 2 }
    ((parked.core k0).holder = none ∧ (parked.ctx c0).wait.park.isSome = true ∧
      parked.nextReady k0 (parked.core k0).last = some 0) ∧
    (long.holds c0 = true ∧ 4096 ≤ (long.die 0).cyc - (long.ctx c0).wait.issueStart ∧ (long.ctx c0).wait.overdue = true ∧
      5120 ≤ (long.die 0).cyc - (long.ctx c0).wait.issueStart ∧ long.otherReady c0 = false) ∧
    (two.holds c0 = true ∧ two.otherReady c0 = true ∧ (two.ctx c0).wait.overdue = true) := by decide +kernel

/-- A fence that holds issue with its condition true. -/
theorem witness_release :
    let s := (run.onCore k0 fun x => { x with icache := [(0, 0x2800000000000004)] }).onWait c0 fun w => { w with hold := some .fence }
    s.holds c0 = true ∧ (s.ctx c0).wait.hold.isSome = true ∧ (s.ctx c0).wait.fetch = none ∧ s.running c0 = true ∧
    (s.ctx c0).wait.traps = [] ∧ s.heldInstr c0 = some (.fence always .sys .full) ∧ s.guardTrue c0 always = true ∧
    s.fenceReady c0 .sys .full = true ∧ (s.die c0.die).cyc - (s.ctx c0).wait.issueStart < 5120 := by decide +kernel

/-- A waiting trap with a handler. -/
theorem witness_trap_entry :
    let q : TrapReq := ⟨0, 0x20, 0x100, 0x4000, none, false, false, none, [], .none, true⟩
    let s := (run.onCtl c0 fun k => { k with trapv := 0x4001 }).onWait c0 fun w => { w with traps := [q] }
    (s.ctx c0).wait.traps = [q] ∧ s.running c0 = true ∧ s.trapReady c0 = true ∧ (s.ctx c0).wait.fetch = none ∧
    s.holds c0 = true ∧ (s.ctx c0).cap = none ∧ (s.ctx c0).ctl.frec[0].getLsbD 31 = false ∧
    (s.ctx c0).ctl.trapv.getLsbD 0 = true := by decide +kernel

/-! ## Engines -/

/-- An operation of context 0 on handle 1. -/
def op (i : Instr) (args : List Word) : EngOp :=
  { id := 5, ctx := 0, instr := i, pc := 0, args := args, entry := 0, binds := [(1, some space)], pos := 0, buf := EngBuf.reset,
    route := none, sampled := [], events := evNone, after := [], acq := Stamp.zero, late := none, halted := none, failed := none,
    replay := false, mid := false, stopRow := false }

/-- `ported` with handle 1 and the page, with an operation active. -/
def busy (e : Engine) (x : EngOp) : State :=
  ported.onCore k0 fun y => match e with
    | .me => { y with handles := [(1, space)], stlb := [page], me := { y.me with active := some x } }
    | .ce => { y with handles := [(1, space)], stlb := [page], ce := { y.ce with active := some x } }

/-- A shadow set that is filled, with no operation active. -/
theorem witness_activate :
    let s := after .cfill { ported with ctxs := (ported.onRegs c0 fun r => { r with ce := [0, 1, 2 ^ 32] }).ctxs }
    (s.eng k0 .ce).active = none ∧ (s.eng k0 .ce).shadow.isSome = true ∧ s.passedWord k0 = none ∧
    s.returning k0 .ce = none := by decide +kernel

/-- CFILL and CPY at their first granule. -/
theorem witness_land :
    let f := op .cfill [0, 1, 2 ^ 32]
    let y := op (.cpy false .none 0) [64, 0x4000, 1, 2 ^ 32]
    let s := busy .ce f
    let t := busy .ce y
    ((s.eng k0 .ce).active = some f ∧ (s.ctx (k0.ctx f.ctx)).wait.stop ≠ .stopped ∧ s.workDone k0 f = false ∧
      f.bound (f.args.getD 2 0) = some space ∧ space.addr (argRow (f.args.getD 2 0)) (f.pos * 16) % 16 = 0) ∧
    ((t.eng k0 .ce).active = some y ∧ t.workDone k0 y = false ∧ y.bound (y.args.getD 3 0) = some space ∧
      space.addr (argRow (y.args.getD 3 0) + y.pos) y.buf.outPos % 16 = 0 ∧
      (match t.engRead k0 y true xCopyRead (rowVa y.args y.pos + BitVec.ofNat 64 y.buf.outPos) 16 with
      | .got _ _ bad => !bad
      | .wait | .fault _ _ => false) = true) := by
  and_intros <;> decide +kernel

/-- A token of CSTRM whose bytes have been read, and room for it. -/
theorem witness_stream_out :
    let x : EngOp := { op (.cstrm 0) [8, 0x4000, 0] with buf := { EngBuf.reset with raw := List.replicate 8 0 } }
    let s := busy .ce x
    s.workDone k0 x = false ∧ got (s.opOut k0 x (x.args.getD 2 0).toNat) = some (6, false) ∧
    min (tokenBytes false) ((x.args.headD 0).toNat - x.pos * tokenBytes false) ≤ x.buf.raw.length ∧
    (s.outPort k0 6).buf.length < 4 := by decide +kernel

/-- The greatest steer token for a drain, and a data token for CSINK that fits its maximum. -/
theorem witness_take :
    let m := op (.mdrain false (some 0)) [16]
    let n := op .csink [8, 0x4000, 0]
    let s := (busy .me m).onIn k0 4 fun p => { p with buf := [⟨.steer, 15, none⟩] }
    let t := (busy .ce n).onIn k0 4 fun p => { p with buf := [⟨.data, 7, none⟩] }
    ((s.eng k0 .me).active = some m ∧ m.route = none ∧ got (s.opIn k0 m 0) = some (4, false) ∧
      (s.inPort k0 4).head = some ⟨.steer, 15, none⟩ ∧ (15 : Vec).toNat ≤ 15) ∧
    ((t.eng k0 .ce).active = some n ∧ n.buf.out = [] ∧ got (t.opIn k0 n (n.args.getD 2 0).toNat) = some (4, false) ∧
      n.pos * tokenBytes false + tokenBytes false ≤ (n.args.headD 0).toNat ∧ (t.inPort k0 4).head = some ⟨.data, 7, none⟩) := by
  decide +kernel

/-- An operation whose work is done, an MROUTE among them, and one that has failed. -/
theorem witness_op_end :
    let f := { op .cfill [0, 1, 2 ^ 32] with pos := 4 }
    let m := op .mroute [15, 0, 0]
    let x := { op .cfill [0, 1, 2 ^ 32] with failed := some (FCode.hbound, 0) }
    (∀ y ∈ [(Engine.ce, f), (.me, m)], let s := busy y.1 y.2
      y.2.failed = none ∧ y.2.halted = none ∧ y.2.late = none ∧ y.2.stopRow = false ∧ s.workDone k0 y.2 = true ∧
      s.opAcked k0 y.2 = true ∧ y.2.events = evNone) ∧
    ((busy .ce x).eng k0 .ce).active = some x ∧ x.events = evNone ∧ (busy .ce x).passedWord k0 = none := by decide +kernel

/-- A held matrix word whose copy is done, with the shadow set full and free. -/
theorem witness_chain :
    let h : HeldWord := { instr := .mma false false, pc := 0, args := [0, 16, 2 ^ 32, 2 ^ 32], fmt := 0, copy := 5, ready := true,
                          passed := none, after := [], acq := Stamp.zero }
    let s := ported.onCtx c0 fun x => { x with held := some h }
    let t := s.onCore k0 fun x => { x with me := { x.me with shadow := some (op .mroute [0, 0, 0]) } }
    (s.ctx (k0.ctx 0)).held = some h ∧ h.passed = none ∧ h.ready = true ∧ (s.ctx (k0.ctx 0)).wait.stop ≠ .stopped ∧
    (t.core k0).me.shadow.isSome = true ∧ (s.core k0).me.shadow = none ∧ s.passedWord k0 = none ∧ s.returning k0 .me = none ∧
    fmtSuits h.instr h.args ((s.core k0).entry h.fmt) = true := by decide +kernel

/-! ## The network -/

/-- A die whose router (2, 0) sends circuit 9 from core 0's output stage to (2, 1), in every slot of the present cycle. -/
def wired (out inp : Nat) : State :=
  let e : BitVec 32 := BitVec.ofNat 32 (2 ^ 31 + inp * 2 ^ 16 + 9)
  State.reset.onLink 0 fun x => { x with tab := [((((32 * 40 + out) * 2 + 0) * 64) + 0, e)] }

/-- A selection that waits. -/
theorem witness_bank : ((State.reset.onLink 0 fun x => { x with next := some [(0, 1)] }).die 0).net.next = some [(0, 1)] := by decide

/-- A token at a client's output with a credit, for a row output, a column output and a client output. -/
theorem witness_send : ∀ o ∈ [1, 17, 27],
    ∀ p ∈ (clientPorts 0 32 26 1).head?,
    let s := (wired o 26).onOutOf p fun x => { x with bound := true, circ := 9, credits := 1, buf := [⟨.data, 7, none⟩] }
    s.slotFree 0 32 o = true ∧ slotV (s.slotNow 0 32 o) = true ∧ slotIn (s.slotNow 0 32 o) = 26 ∧
    s.producerOf 0 32 26 (slotCirc (s.slotNow 0 32 o)) = some p ∧ (s.outOf p).credits ≠ 0 ∧ (s.outOf p).buf = [⟨.data, 7, none⟩] ∧
    s.outStands p = false := by
  decide +kernel

/-- The client port exists. -/
theorem witness_send_port : (clientPorts 0 32 26 1).head?.isSome = true ∧ (clientPorts 0 32 26 3).head?.isSome = true := by
  decide +kernel

/-- A token on a link, and one at a client's input. -/
theorem witness_arrive :
    let f : TokFlight := { tok := ⟨.data, 7, none⟩, launch := 0, circ := 9, router := 32, inp := 3, ready := 0, here := false, out := none }
    let s := State.reset.onLink 0 fun x => { x with transit := [f] }
    let g := { f with out := some 26 }
    let t := State.reset.onLink 0 fun x => { x with transit := [g] }
    (((s.die 0).net.transit.find? fun f => !f.here && f.router == 32 && f.inp == 3 && f.circ == 9) = some f ∧ f.ready ≤ (s.die 0).cyc) ∧
    ∀ p ∈ (clientPorts 0 32 26 3).head?, let u := t.onInOf p fun x => { x with bound := true, circ := 9 }
      ((u.die 0).net.transit.find? fun f => !f.here && f.router == 32 && f.inp == 3 && f.circ == 9) = some g ∧
      u.consumerOf 0 32 26 9 = some p ∧ (u.inOf p).launch = g.launch := by decide +kernel

/-- A credit on its way back along the circuit from router (2, 0)'s client input to its client output. -/
theorem witness_credit : ∀ q ∈ (clientPorts 0 32 26 3).head?, ∀ p ∈ (clientPorts 0 32 26 1).head?,
    let s := ((wired 26 26).onOutOf p fun x => { x with bound := true, circ := 9, launch := 3 }).onNet fun x =>
      { x with credits := [⟨q, 9, 3⟩] }
    s.net.credits[0]? = some ⟨q, 9, 3⟩ ∧ s.traceBack 0 q.place.1 q.place.2 9 24 = some (.inl p) ∧ (s.outOf p).launch = 3 := by
  decide +kernel

/-- A credit of a circuit that comes in by bridge 0 of the die. -/
theorem witness_bridge_credit : ∀ q ∈ (clientPorts 0 32 26 3).head?,
    let r : RxStream := { circ := 9, world := 1, launch := 3, vec := false, buf := [], marker := none, fwd := none }
    let s := ((wired 26 35).onLink 0 fun x => { x with rx := [(7, r)] }).onNet fun x => { x with credits := [⟨q, 9, 3⟩] }
    s.net.credits[0]? = some ⟨q, 9, 3⟩ ∧ s.traceBack 0 q.place.1 q.place.2 9 24 = some (.inr 7) ∧
    Map.find (s.die 0).net.rx 7 = some r := by
  decide +kernel

/-- A port bound to a handle of four rows, with a token at its head. -/
theorem witness_ring :
    let u : UnitRef := { launch := 2 ^ 32 + 1, home := 0, unit := 0, world := 1, ports := [(0, (4, true))], outs := [],
                         rings := [(0, (1, 0))], page := 0, pending := 0, fmts := [] }
    let s := ((run.onCtx c0 fun x => { x with unit := some u }).onCore k0 fun x => { x with handles := [(1, space)] }).onIn k0 4 fun p =>
      { p with buf := [⟨.data, 7, none⟩] }
    let a := space.addr 0 0 + 64 * (s.inPort k0 4).ring % ((space.rows - 0) * space.rowBytes)
    (s.ctx c0).unit = some u ∧ Map.find u.rings 0 = some (1, 0) ∧ Map.find u.ports 0 = some (4, true) ∧
    (s.inPort k0 4).head = some ⟨.data, 7, none⟩ ∧ Map.find (s.core k0).handles 1 = some space ∧
    (s.core k0).fullAre ((List.range 4).map fun i => a / 16 + i) false = true := by decide +kernel

/-- A beat of a capsule for core 1 of the next column, at router (2, 0), and room for it. -/
theorem witness_beat :
    let b : Beat := { cap := 9, chan := .capsule, world := 1, place := 4, router := 32, inp := 26, ready := 0 }
    let s := State.reset.onLink 0 fun x => { x with beats := [b] }
    s.beatOut 0 b < 26 ∧ s.slotFree 0 32 (s.beatOut 0 b) = true ∧ s.pickBeat 0 32 (s.beatOut 0 b) = some b ∧
    (s.die 0).net.feed = [] := by decide +kernel

/-- A flit of one token: sent while its allowance lasts, and received by the die at the far end. -/
theorem witness_bridge :
    let x : FlitEntry := { tag := 0x24000007, val := 5, clock := none, launch := 1, beat := none }
    let r : RxStream := { circ := 9, world := 1, launch := 1, vec := false, buf := [], marker := none, fwd := none }
    let s := ((State.reset.onEnd 0 0 fun l => { l with queue := [x] }).onLink 0 fun n =>
        { n with tx := [(7, { circ := 9, world := 1, launch := 1, vec := false, left := 1, allow := 0 })], rx := [(7, r)] }).onEnd 3 1 fun l =>
      { l with wire := [⟨0, [x]⟩] }
    ((s.link 0 0).width 0 0 ≠ 0 ∧ (s.link 0 0).failed = false ∧ (s.link 0 0).retry.length < 256 ∧
      (packFlit 0 [] 240 (s.die 0).net.tx (s.link 0 0).queue).1 = [x] ∧ [x] ≠ []) ∧
    peerOf 0 0 = some (3, 1) ∧ (s.link 3 1).wire = [⟨0, [x]⟩] ∧ (s.link 0 0).expect = 0 ∧ (s.link 0 0).taken = 0 ∧
    tagBad x.tag = false ∧ tagField x.tag 26 3 = 1 ∧ Map.find (s.die 0).net.rx (0 * 65536 + tagField x.tag 0 16) = some r ∧
    tagField x.tag 29 3 = r.world % 8 ∧ tagKind x.tag ≠ .marker ∧ peerOf 3 1 = some (0, 0) ∧ peerOf 0 2 = some (4, 32) := by
  decide +kernel

/-! ## Service -/

/-- Lanes at the ends of their range, a link with a spare, with none left, and with a lane that retrains, and a channel that
is free, paused, or retired. -/
theorem witness_service :
    nodeOk 0 0 = true ∧ 0 < laneCount 0 0 ∧ nodeOk 4 35 = true ∧ 0 < laneCount 4 35 ∧
    (∀ x ∈ [(0, 0), (4, 0), (4, 35)], (State.reset.link x.1 x.2).retrain = none ∧
      (State.reset.link x.1 x.2).spared.length < spareLanes x.1 x.2 ∧
      let s := State.reset.onEnd x.1 x.2 fun l => { l with spared := [1, 2, 3, 4] }
      (s.link x.1 x.2).retrain = none ∧ spareLanes x.1 x.2 ≤ (s.link x.1 x.2).spared.length) ∧
    ((State.reset.onEnd 0 0 fun l => { l with retrain := some 5 }).link 0 0).retrain ≠ none ∧
    (∀ c ∈ [0, 255], ((State.reset.die (c % 8 / 2)).sched.rom = false) ∧ (∀ x ∈ State.reset.mem.paused, x % 8 ≠ c % 8) ∧
      c ∉ State.reset.mem.paused ∧ c ∉ State.reset.mem.retired) ∧
    (∃ x ∈ (State.reset.onMem fun m => { m with paused := [8] }).mem.paused, x % 8 = 0 % 8) ∧
    8 ∈ (State.reset.onMem fun m => { m with paused := [8] }).mem.paused := by decide +kernel

/-- A core that may be remapped, one that is being remapped, and a spare that is used. -/
theorem witness_remap :
    (∀ n ∈ [0, 127], (State.reset.core ⟨0, n⟩).remap = false ∧ (State.reset.die 0).sched.rom = false ∧
      (State.reset.part 0 n).busy = false ∧ State.reset.partUsed 0 n = false) ∧
    ((State.reset.onCore k0 fun x => { x with remap := true }).core k0).remap = true ∧
    ((State.reset.onDie 0 fun d => { d with sched := { d.sched with rom := true } }).die 0).sched.rom = true ∧ State.reset.spareUsed 0 0 = false ∧
    (State.reset.onDie 0 fun d => { d with spare := [(3, 128)] }).spareUsed 0 0 = true := by decide +kernel

/-- Windows above the cap, below 95% of it, and between. -/
theorem witness_power :
    let p := State.reset.dev.pwrcap
    p < p + 1 ∧ 0 * 100 < p * 95 ∧ p * 95 ≤ p * 100 ∧ p ≤ p := by decide +kernel

/-! ## The region manager -/

/-- Region 0 of die 0 belongs to world 1, its planes are valid, and address x of world 1 is physical address x, in the
clear; at 64 KiB lies the header of a bitstream of one chunk of one byte. -/
def managed : State :=
  let plane : Plane := { cls := 1, idem := false, timed := false, clkmax := 800, ports := 0, trole := 0, digest := 0 }
  let s := State.reset.onMem fun m => { m with bytes :=
    [(0x1000, 1), (0x1001, 0x20), (0x2000, 1), (0x2001, 0x30), (0x3000, 0x8F), (0x3006, 0x10),
     (0x10000, 0x58), (0x10001, 0x5A), (0x10002, 0x50), (0x10003, 0x42), (0x10004, 1), (0x10008, 2), (0x1000B, 1), (0x1000C, 1),
     (0x10010, 50)] }
  let s := s.onDie 0 fun d => { d with wmap := [(128, { v := true, world := 1, busy := false, nv := false, nworld := 0 })] }
  { s.onRegion 0 0 fun r => { r with active := some plane, shadow := some plane } with roots := [(1, 0x1000)] }

/-- `managed` with a request of world 1 in the queue, its record given. -/
def asked (r : BitVec 512) : State :=
  managed.onDie 0 fun d => { d with rm := { d.rm with queue := [⟨7, 1, some r, [], false, [], Stamp.zero⟩] } }

/-- The six requests at once: each is next, in order, and its region is free. -/
theorem witness_region_requests : ∀ r ∈ [6, 4, 3, 2, 5 + 800 * 2 ^ 128, 5 + 50 * 2 ^ 128, 2 + 50 * 2 ^ 128, 1 + 0x10000 * 2 ^ 64],
    let s := asked (BitVec.ofNat 512 r)
    (s.rmNext 0 7).isSome = true ∧ rmRecordOk (BitVec.ofNat 512 r) = true ∧ (s.region 0 0).job = none ∧
    (s.part 0 128).v = true ∧ (s.part 0 128).world = 1 ∧ 128 ∉ (s.die 0).retired ∧ (s.part 0 128).busy = false ∧
    (s.die 0).sched.rom = false := by decide +kernel

/-- The header of a LOAD is read and in order, and its tail can be read. -/
theorem witness_header :
    let s := (asked (BitVec.ofNat 512 (1 + 0x10000 * 2 ^ 64))).rmPop 0 7
    let h := (s.hwRead 0 1 0x10000 64).getD []
    (s.hwRead 0 1 0x10000 64).isSome = true ∧ (s.hwRead 0 1 0x10000 (64 + 32 * leAt h 11 1 + 384)).isSome = true ∧
    headerOk h = true ∧ leAt h 8 2 = regionGeom 0 := by decide +kernel

/-- A job of a LOAD with two chunks, of a SWAP, and of a QUIESCE that has timed out. -/
def job (op : Nat) (hs : List (BitVec 256)) : RmJob :=
  { die := 0, tag := 7, world := 1, op := op, va := 0x10000, mhz := 0, timeout := 5, since := 0, was := false, plane := none,
    hdr := [], hashes := hs, chunk := 0, last := 1 }

/-- `managed` with a job of LOAD whose first chunk has the hash of a list of bytes. -/
def loading (bs : List Byte) (more : List (BitVec 256)) : State :=
  managed.onRegion 0 0 fun r => { r with job := some (job 1 (shaOf bs :: more)) }

/-- A read by hardware whose pages translate is answered when no sector is in error. -/
theorem hwRead_isSome (s : State) (d w : Nat) (va : Word) (n : Nat) (he : s.mem.ecc = [])
    (hx : answers (s.xlatePages w xRead va n) = true) : (s.hwRead d w va n).isSome = true := by
  unfold State.hwRead
  cases h : s.xlatePages w xRead va n with
  | error e => rw [h] at hx; exact absurd hx Bool.false_ne_true
  | ok xs => simp [he, eccRead, Map.find]

/-- A chunk that is not the last, and one that is: each is read as zeros, whose hash the list gives. -/
theorem witness_chunks :
    ((loading (List.replicate 65536 0) [0]).hwRead 0 1 (0x10000 + BitVec.ofNat 64 (64 + 32 * 2 + 384)) 65536).isSome = true ∧
    (loading [0] []).hwRead 0 1 (0x10000 + BitVec.ofNat 64 (64 + 32 * 1 + 384)) 1 = some [0] ∧
    ((loading [0] []).region 0 0).job = some (job 1 [shaOf [0]]) := by
  refine ⟨hwRead_isSome _ _ _ _ _ rfl (by decide +kernel), ?_⟩
  and_intros <;> first | decide +kernel | rfl

/-- A walk reads nothing of the dies. -/
theorem walkFrom_dies (s : State) (m : Map DieSt) (w : Nat) (va : Word) : ∀ l t,
    ({ s with dies := m } : State).walkFrom w va l t = s.walkFrom w va l t
  | 0, _ => rfl
  | l + 1, t => by
    rw [State.walkFrom, State.walkFrom]
    simp only [walkFrom_dies s m w va l]
    rfl

/-- A read by hardware takes nothing from the registers of the dies but memory. -/
theorem hwRead_dies (s : State) (m : Map DieSt) (d w : Nat) (va : Word) (n : Nat) :
    ({ s with dies := m } : State).hwRead d w va n = s.hwRead d w va n := by
  have h : ∀ b k v, ({ s with dies := m } : State).xlate [] w b k v = s.xlate [] w b k v := by
    intro b k v
    simp only [State.xlate, State.walk, walkFrom_dies]
    rfl
  simp only [State.hwRead, State.xlatePages, h]
  rfl

/-- A chunk that is not the last, with the hash of the bytes that it is read as. -/
theorem witness_first_chunk : ∃ bs h, let s := managed.onRegion 0 0 fun r => { r with job := some (job 1 [h, 0]) }
   [h, 0][0]? = some (shaOf bs) ∧ s.hwRead 0 1 (0x10000 + BitVec.ofNat 64 (64 + 32 * 2 + 384)) 65536 = some bs := by
  obtain ⟨bs, hb⟩ := Option.isSome_iff_exists.mp witness_chunks.1
  refine ⟨bs, shaOf bs, rfl, ?_⟩
  rw [← hb]
  unfold loading 
  exact (hwRead_dies managed _ ..).trans (hwRead_dies managed _ ..).symm

/-- A region that has quiesced for a SWAP, and a job that has waited as long as its TIMEOUT. -/
theorem witness_swap :
    let s := (managed.onDie 0 fun d => { d with cyc := 5 }).onRegion 0 0 fun r => { r with job := some (job 2 []), quiet := true }
    (s.region 0 0).job = some (job 2 []) ∧ (s.region 0 0).quiet = true ∧ (s.region 0 0).stands (s.die 0).cyc = false ∧
    (s.region 0 0).cut = false ∧ (s.region 0 0).newClass = false ∧ (job 2 []).timeout ≠ 0 ∧
    (job 2 []).since + (job 2 []).timeout ≤ (s.die 0).cyc ∧ (job 2 []).expired 4 = false := by decide +kernel

/-- A running operator with a token at its input, and an MTILE node that takes tokens. -/
theorem witness_region_tokens :
    let m : MTile := { unit := 3, role := 2, tiles := [0], src := .port 0, dst := .none, count := 1, buf := [], sent := [],
                       eosIn := false, eosOut := false, closed := false }
    let s := (managed.onRegion 0 0 fun r => { r with run := true, ins := [.port 0], outs := [.port 0], mtiles := [m] }).onInOf
      (.region 0 0 0) fun p => { p with buf := [⟨.eos, 0, none⟩] }
    let a := s.region 0 0
    a.active.isSome = true ∧ a.works (s.die 0).cyc = true ∧ a.quiet = false ∧ 0 ∉ a.eosIn ∧ a.ins.getD 0 .none = .port 0 ∧
    (s.inOf (.region 0 0 0)).buf.head? = some ⟨.eos, 0, none⟩ ∧ a.outs.getD 0 .none = .port 0 ∧
    (s.outOf (.region 0 0 0)).buf.length < 4 ∧ (a.mtiles.find? fun m => m.unit == 3) = some m ∧
    a.stands (s.die 0).cyc = false ∧ a.run = true ∧ m.eosIn = false ∧
    m.buf.length < 256 * m.tiles.length := by decide +kernel

/-! ## Capsules -/

/-- `managed` with core 0 of die 0 in world 1 as well. -/
def placed : State :=
  managed.onDie 0 fun d => { d with wmap := (0, { v := true, world := 1, busy := false, nv := false, nworld := 0 }) :: d.wmap }

/-- A readout that is at its end. -/
theorem witness_readout :
    let s := placed.onCtx c0 fun x => { x with cap := some { hdr := header, launch := 1, home := 0, sending := some ⟨0, .hop, 9, Stamp.zero, []⟩ } }
    (s.ctx c0).cap.isSome = true ∧
    (((s.core c0.coreId).me.ops ++ (s.core c0.coreId).ce.ops).any fun op => ([] : List Nat).contains op.id) = false := by
  decide +kernel

/-- A capsule at its last router. -/
def flight (escaping : Option Nat) (waiting : Bool) : CapFlight :=
  { cap := arrived none, place := 0, sender := c0, waiting := waiting, since := 0, left := 0, die := 0, router := 32, escaping := escaping, spoiled := false }

/-- `placed` with a flight; `lost` is the same with its place in no world, so that its sink is retired too, and in
`moved` only its hop's place is. -/
def flying (f : CapFlight) (x : State) : State := x.onNet fun n => { n with flights := [f] }
def lost : State := flying (flight none false) managed
def moved : State := flying { flight none false with place := 1 } placed

/-- A capsule whose place is in its world, one that is redirected to its sink, and one that is discarded. -/
theorem witness_router_check :
    let s := flying (flight none false) placed
    (placePkg (flight none false).place = s.pkg ∧ s.retiredFor (arrived none) .hop 0 = false ∧ s.bufferFree k0 = true ∧
      s.spillWaits k0 = false) ∧
    (moved.retiredFor (arrived none) .hop 1 = true ∧
      (moved.dropFlight { flight none false with place := 1 }).redirect (arrived none) = some (.sink, 0)) ∧
    (lost.retiredFor (arrived none) .hop 0 = true ∧ (lost.dropFlight (flight none false)).redirect (arrived none) = none) := by
  decide +kernel

/-- A core with no free buffer, and a capsule from outside the package for a core with one. -/
theorem witness_buffers :
    let s := (flying (flight none false) placed).onCore k0 fun x => { x with rxbuf := [arrived none, arrived none] }
    (s.bufferFree k0 && !s.spillWaits k0) = false ∧ (flight none false).waiting = false ∧
    (flight none false).left = 0 ∧ placed.bufferFree k0 = true ∧ placed.spillWaits k0 = false := by decide +kernel

/-- A capsule from outside the package for core 0, of no launch of this one, of one with a capsule away, and of one with none. -/
theorem witness_outside :
    let s := placed.onNet fun x => { x with away := [⟨hdrByte header 7, 1, 9⟩] }
    placePkg 0 = s.pkg ∧ (List.replicate 16 (0 : Byte)).length = capSize header ∧
    (s.takeAway (hdrByte header 7) 1).isSome = true ∧ placed.takeAway (hdrByte header 7) 1 = none := by decide +kernel

/-- A capsule that has waited long enough, one whose spill write is acknowledged, one whose spill write met a fault, and one
that comes back. -/
theorem witness_spill :
    let s := ((flying (flight none true) placed).onDie 0 fun d => { d with cyc := 4096 }).onSpill 0 1 fun a =>
      { a with base := 0x20000, slots := 1 }
    let t := (flying (flight (some 5) true) placed).onSpill 0 1 fun a => { a with base := 0x20000, slots := 1 }
    let e : Spilled := { slot := 0, cap := arrived none, place := 0, sender := c0, write := 5, gone := false }
    let u := placed.onSpill 0 1 fun a => { a with base := 0x20000, slots := 1, caps := [e] }
    ({ flight (some 5) true with spoiled := true }.spoiled = true ∧ (flight (some 5) true).spoiled = false ∧
      (s.core k0).remap = false ∧ (flight none true).since + 4096 ≤ (s.die 0).cyc ∧ (s.spillOf 0 1).room = true ∧ s.spilling 0 1 = false ∧
      answers (s.xlatePages 1 xWrite (slotAddr 0x20000 0) (capBytes header (List.replicate 16 0)).length) = true) ∧
    t.isAcked 5 = true ∧
    ((u.spillOf 0 1).caps = [e] ∧ u.isApplied 0 5 = true ∧ u.retiredFor e.cap e.cap.role e.place = false ∧ u.bufferFree k0 = true ∧
      answers (u.xlatePages 1 xRead (slotAddr 0x20000 0) (64 + e.cap.data.length)) = true) := by decide +kernel

/-- A sink with a capsule to deliver, and one whose header write is acknowledged. -/
theorem witness_sink :
    let x : SinkSt := { launch := 1, world := 1, base := 0x20000, slots := 1, count := 0, pending := 0, hdrs := [(5, 1)], failed := false }
    let s := (placed.onSlot 0 511 fun y => { y with sink := some x }).onCore ⟨0, 127⟩ fun y =>
      { y with rxbuf := [{ arrived none with sink := some 511 }] }
    let u := s.freeBuffer ⟨0, 127⟩ 9
    (s.slot 0 511).sink = some x ∧ s.sinkHead 0 511 = some { arrived none with sink := some 511 } ∧
    (let va := slotAddr (x.base + 64) (x.count % x.slots)
     match u.sinkPut 0 511 1 (va + 64) (arrived none).data false [] with
     | .error _ => false
     | .ok (s1, i1) => match s1.sinkPut 0 511 1 va (leBytes header.toNat 64) false [i1] with
       | .error _ => false
       | .ok (s2, i2) => answers (s2.sinkPut 0 511 1 x.base (List.replicate 8 0) true [i2])) = true ∧
    x.failed = false ∧ s.isAcked 5 = true := by decide +kernel

end Sys2Proof.Tests
end

