-- ==== Sys2Proof/Tests/WitnessWork.lean ====
section
/-! SUPPORT. Concrete states that meet the hypotheses of the statements about submissions, dispatch, the firmware, the
slots, worlds, the sequencer, the key service, Sieves, power and the host. -/

namespace Sys2Proof.Tests

open Sys2Proof.Machine

set_option Elab.async false

/-! ## Submissions -/

/-- An object of world 1 that runs. -/
def obj (l : Level) (id parent counter : Nat) : WorkObj :=
  { level := l, id := id, world := 1, home := 0, counter := counter, status := .running, parent := parent, queue := 0, tag := 0,
    prio := 0, closed := false, opened := false, va := 0x30000, pred := 0, wdog := 5, started := none, units := [], edges := [],
    placing := none, deadSinks := [], cutting := false, report := Report.none, posted := false }

/-- The one unit of a launch of the binary, on slot 0. -/
def unit0 (st : UnitStage) : LaunchUnit :=
  { index := 0, kind := .ctx, die := 0, slot := 0, stage := st, idem := true, param := 0, tiles := [], kept := none }

/-- The binary of one node, at 0x30000 of world 1: a text section of 8 bytes, the graph, and an idempotent image. -/
def binary : List Host.Cell :=
  [(0x30000, 0x58), (0x30001, 0x5A), (0x30002, 0x39), (0x30003, 0x42), (0x30004, 1), (0x30006, 3),
   (0x30040, 1), (0x30049, 1), (0x30050, 8), (0x30060, 4), (0x30068, 0xA0), (0x30070, 16), (0x30080, 3), (0x30088, 0xB0),
   (0x30090, 64), (0x300A0, 1), (0x300B1, 2)]

/-- A package at STAGE 7 with queue 0 enabled for world 1, and the objects job 1, phase 2, graph 3 and launch 4. -/
def office (u : List LaunchUnit) (p : Option Placement) : State :=
  let s := (placed.onMem fun m => { m with bytes := m.bytes ++ binary }).onWork fun w =>
    { w with objs := [obj .job 1 0 1, obj .phase 2 1 1, obj .graph 3 2 1, { obj .launch 4 3 1 with units := u, placing := p }],
             queues := [(0, { QueueSt.reset with sqbase := 0x1000, cqbase := 0x2000, qctl := 0x81E00000 })] }
  { s with dev := { s.dev with bootst := 7 } }

/-- The placement of the node on slot 0. -/
def onSlot0 : Placement := { units := [(0, 0)], routes := [], tiles := [], far := [] }

/-- A submission entry. -/
def entry (op level job phase graph va count : Nat) : BitVec 512 :=
  BitVec.ofNat 512 (op + level * 2 ^ 24 + job * 2 ^ 32 + phase * 2 ^ 64 + graph * 2 ^ 96 + va * 2 ^ 128 + count * 2 ^ 256)

/-- `office` with an entry that SUBMIT has queued. -/
def submitted (e : BitVec 512) : State :=
  (office [] none).onSched 0 fun x => { x with submits := [⟨e, 1, 0, false, 0, 0⟩] }

/-- An index that the host may write, at the ends of the ring; a completion ring with nothing held back, and a full one. -/
theorem witness_indices :
    let s := office [] none
    let held := s.onQueue 0 fun q => { q with held := [⟨0, 1, 5, 0, 0, 0⟩] }
    s.dev.stage = 7 ∧ (s.queue 0).en = true ∧ (0 : BitVec 32).toNat < (s.queue 0).sqr + (s.queue 0).sqSize ∧
    (15 : BitVec 32).toNat < (s.queue 0).sqr + (s.queue 0).sqSize ∧ s.hostSettled = true ∧ ((s.queue 0).readTo 0).held = [] ∧
    ((held.queue 0).readTo 0).held = [⟨0, 1, 5, 0, 0, 0⟩] ∧ ((held.queue 0).readTo 0).room = true := by decide +kernel

/-- The entry that a queue gives. -/
theorem witness_queue : ((((office [] none).putHost 0x1000 (leBytes 1 64)).onQueue 0 fun q => { q with sqw := 1 }).takeEntry (.queue 0)).isSome = true := by
  decide +kernel

/-- What each entry finds: whether it is good, and the objects above it. -/
def finds (e : BitVec 512) (p : Taken → State → Bool) : Bool :=
  match (submitted e).takeEntry (.submit 0) with
  | some (t, u) => p t u
  | none => false

/-- One entry for each clause: a bad close, and a good one of each OP, with ids at the ends of their range. -/
theorem witness_entries :
    finds (entry 2 0 1 0 0 0 0 ||| 1 <<< 320) (fun t _ => !(sqOk t.bytes && decide (t.entry.prio ≤ t.prio)) && t.entry.op == 2) = true ∧
    finds (entry 1 0 0 0 0 0 0) (fun t u => sqOk t.bytes && decide (t.entry.prio ≤ t.prio) && t.entry.op == 1 && t.ujob == none &&
      u.idFree t.world 5 && u.idFree t.world (2 ^ 32 - 1)) = true ∧
    finds (entry 2 0 1 0 0 0 0) (fun t u => sqOk t.bytes && t.entry.op == 2 && u.liveObj t.world .job 1 == some (obj .job 1 0 1) &&
      t.entry.job == 1) = true ∧
    finds (entry 3 0 1 2 0 0 0) (fun t u => sqOk t.bytes && t.entry.op == 3 && (u.liveObj t.world .job t.entry.job).isSome &&
      (u.obj t.world .phase t.entry.phase).isSome && t.mine 1 && u.idFree t.world 5) = true ∧
    finds (entry 4 0 1 2 0 0x30000 0) (fun t u => sqOk t.bytes && t.entry.op == 4 && (u.liveObj t.world .phase t.entry.phase).isSome &&
      !(u.die t.die).sched.rom && (u.binaryAt t.homeDie t.world t.entry.va).isSome && u.idFree t.world 5) = true ∧
    finds (entry 5 0 1 2 3 0 1) (fun t u => sqOk t.bytes && t.entry.op == 5 && t.entry.count == 1 &&
      u.liveObj t.world .graph t.entry.graph == some (obj .graph 3 2 1) && t.entry.phase == 2 && u.jobOf (obj .graph 3 2 1) == 1 &&
      u.idFree t.world 5) = true ∧
    finds (entry 6 1 0 0 4 0 0) (fun t u => sqOk t.bytes && t.entry.op == 6 && Machine.levelOf t.entry.level == some .launch &&
      u.obj t.world .launch t.entry.graph == some (obj .launch 4 3 1) && !u.isOver (obj .launch 4 3 1)) = true := by
  and_intros <;> decide +kernel

/-- A launch that is mapped again, with a placement that is valid. -/
theorem witness_remap_launch :
    let s := office [] none
    s.liveObj 1 .launch 4 = some (obj .launch 4 3 1) ∧ s.obj 1 .graph 3 = some (obj .graph 3 2 1) ∧
    ((s.graphAt 0 1 0x30000).map fun gi => (s.mapLaunch false 0 1 gi (some onSlot0)).2) = some (some onSlot0) := by decide +kernel

/-! ## Dispatch -/

/-- Cancels that find an object, one that runs, and one whose result has landed; and the answer to a unit that cancels itself. -/
theorem witness_cancels :
    let s := office [unit0 .running] (some onSlot0)
    let q : CancelReq := { src := none, level := .launch, id := 4, world := 1, user := false, launch := 4, home := 0, decided := false }
    let ends (q : CancelReq) : State := s.onNet fun x => { x with cancels := [q] }
    (ends q).net.cancels[0]? = some q ∧ ((ends q).cancelResult q).1 = 0 ∧ ((ends q).cancelResult q).2.isSome = true ∧
    (ends { q with id := 9 }).cancelResult { q with id := 9 } = (2, none) ∧
    (ends { q with src := some (c0, 1) }).callerIn { q with src := some (c0, 1) } { obj .launch 4 3 1 with units := [unit0 .running] } = true ∧
    s.landed { q with decided := true } = true ∧
    (let z : CancelReq := { q with src := some (c0, 3), decided := true }
     let t := (ends z).onWait c0 fun w => { w with lates := [⟨3, .none, .cancel .launch 4, some 0⟩] }
     ((t.ctx c0).wait.lates.find? fun x => x.id == 3) = some ⟨3, .none, .cancel .launch 4, some 0⟩ ∧
     (t.net.cancels.any fun q => q.decided && q.src == some (c0, 3)) = true) := by decide +kernel

/-- A unit that reports its end, the last of its launch. -/
theorem witness_unit_end :
    let o := { obj .launch 4 3 1 with units := [unit0 .reporting], placing := some onSlot0 }
    let s := office [unit0 .reporting] (some onSlot0)
    s.obj 1 .launch 4 = some o ∧ (o.units.find? fun x => x.index == 0) = some (unit0 .reporting) ∧
    s.unitOver o (unit0 .reporting) = true ∧ o.counter = 1 ∧ s.owesAcks (launchKey 1 4) = false := by decide +kernel

/-- The record of unit 0 in the FIFO of its slot: KIND 0, WORLD 1, LAUNCH 4, its image, and a port map of zeros. -/
def record : BindRec := BitVec.ofNat 256 (1 * 2 ^ 24 + 4 * 2 ^ 32 + 0x300B0 * 2 ^ 64 + 0x31000 * 2 ^ 128)

/-- A record that the dispatcher binds. -/
theorem witness_dispatch :
    let s := (office [unit0 .placed] (some onSlot0)).onSlot 0 0 fun x => { x with fifo := [record] }
    let o := { obj .launch 4 3 1 with units := [unit0 .placed], placing := some onSlot0 }
    (s.die 0).sched.servedAt = none ∧ s.nextSlot 0 = some 0 ∧ (s.slot 0 0).fifo = [record] ∧ s.recLaunchObj record = some o ∧
    s.recUnitOk 0 0 o record = true ∧ (s.slot 0 0).state ≠ 7 ∧ ((s.popRecord 0 0).bindUnit 0 0 o record).isSome = true ∧
    recNode record = .ctx ∧ ((s.popRecord 0 0).recImageOf 0 record).isSome = true := by decide +kernel

/-- A launch whose unit is loaded. -/
theorem witness_start :
    let s := office [unit0 .loaded] (some onSlot0)
    s.mayStart { obj .launch 4 3 1 with units := [unit0 .loaded], placing := some onSlot0 } = true := by decide +kernel

/-! ## Firmware -/

/-- A write of xz_bindq for the last slot with a SIEVE record, and an xz_rmq write with an empty queue. -/
theorem witness_custom :
    let v : Word := 547 <<< 44
    v.extractLsb' 54 10 = 0 ∧ (v.extractLsb' 44 10).toNat = 547 ∧ recOk 2 = true ∧ recFits 2 547 = true ∧
    (State.reset.slot 0 547).fifo.length < 4 ∧ recOk 0 = true ∧ recFits 0 0 = true ∧ ((0 : Word).extractLsb' 44 10).toNat ≤ 547 ∧
    (0 : Word).extractLsb' 32 26 = 0 ∧ (0 : Word).extractLsb' 44 17 = 0 ∧ (State.reset.die 0).rm.full = false := by decide +kernel

/-- The stages of a swap, and a commit that waits for OK, too long at its last moment. -/
theorem witness_swap_stages :
    let at' (n : Nat) : State := State.reset.onSched 0 fun x => { x with stage := n, commitAt := some 0 }
    ((State.reset.die 0).sched.stage ≠ 1) ∧ ((at' 1).die 0).sched.stage = 1 ∧ ((at' 2).die 0).sched.stage = 2 ∧
    ((at' 0).die 0).sched.commitAt = some 0 ∧
    0 + 2 ^ 24 ≤ (((at' 0).onDie 0 fun d => { d with cyc := 2 ^ 24 }).die 0).cyc ∧
    (let s := (List.range 4).foldl (fun (s : State) d => s.onMgmt d fun m => { m with fwPassed := true }) (at' 0)
     ((s.die 0).sched.commitAt.isSome = true) ∧ ∀ e, e < 4 → e ≠ 0 → (s.mgmt e).fwPassed = true ∧ (s.mgmt e).code = (s.mgmt 0).code) ∧
    ∀ e, e < 4 → e ≠ 0 → ((at' 0).mgmt e).fwPassed = false := by decide +kernel

/-- A launch whose watchdog has run out, a heartbeat that is half and wholly missed, under firmware and under the ROM
scheduler, and a self-check that takes too long. -/
theorem witness_watchdogs :
    let o := { obj .launch 4 3 1 with started := some 0 }
    let late (n : Nat) (rom : Bool) : State := (State.reset.onSched 0 fun x => { x with rom := rom }).onDie 0 fun d => { d with cyc := n }
    let s := (((office [] none).onWork fun w => { w with objs := [o] }).onDie 0 fun d => { d with cyc := 5 })
    (s.obj 1 .launch 4 = some o ∧ 0 + o.wdog ≤ (s.die o.home).cyc ∧ o.status = .running ∧ s.isOver o = false) ∧
    (((late 8000000 false).die 0).sched.half = false ∧ 0 + 16000000 / 2 ≤ ((late 8000000 false).die 0).cyc) ∧
    (((late 16000000 true).die 0).sched.rom = true ∧ ((late 16000000 true).die 0).sched.kicked + ((late 16000000 true).die 0).sched.period ≤
      ((late 16000000 true).die 0).cyc) ∧
    (let c := (late (2 ^ 26) false).onMgmt 0 fun m => { m with check := true }
     (c.mgmt 0).check = true ∧ c.dev.stage ≠ 6 ∧ 2 ^ 26 ≤ (c.die 0).cyc) ∧
    (let m := State.reset.onSched 0 fun x => { x with mtimecmp := 0 }
     (m.die 0).sched.mtimecmp.toNat ≤ (m.die 0).cyc) := by decide +kernel

/-- A management core that runs a word of its code bank. -/
def hartAt (w : Nat) : State :=
  let s := { State.reset with dev := { State.reset.dev with bootst := 7 } }
  s.onMgmt 0 fun m => { m with code := putBytes [] 0 (leBytes w 4) }

/-- ADDI, LUI and ECALL at the start of the code bank; an interrupt that is taken; and a wait. -/
theorem witness_hart :
    (∀ w ∈ [0x00500093, 0x123450B7, 0x73], let s := hartAt w
      s.hartRuns 0 = true ∧ leNat ((List.range 4).map fun i => (s.mgmt 0).sram ((s.hart 0).pc.toNat + i)) = w ∧
      (s.hart 0).pc.toNat + 4 ≤ 0x400000 ∧ (s.hart 0).pmpOk (s.hart 0).mach .fetch (s.hart 0).pc.toNat 2 = true ∧
      (s.hart 0).pmpOk (s.hart 0).mach .fetch ((s.hart 0).pc.toNat + 2) 2 = true ∧ s.irq 0 = none ∧ (s.hart 0).wfi = false) ∧
    0x00500093 % 128 = 0x13 ∧ wF3 0x00500093 = 0 ∧ 0x123450B7 % 128 = 0x37 ∧
    (((hartAt 0).onSched 0 fun x => { x with mtimecmp := 0 }).onHart 0 fun h => { h with csr := [(0x300, 8), (0x304, 0x80)] }).irq 0 = some 7 ∧
    (((hartAt 0).onHart 0 fun h => { h with wfi := true }).hart 0).wfi = true ∧
    ((hartAt 0).onHart 0 fun h => { h with wfi := true }).pendingIrqs 0 = 0 := by decide +kernel

/-! ## Slots and worlds -/

/-- Slot 0 with the unit of launch 4 bound, in a STATE. -/
def bound (n : Nat) (o : WorkObj → WorkObj) : State :=
  let s := office [unit0 .running] (some onSlot0)
  (s.onWork fun w => { w with objs := w.objs.map o }).onSlot 0 0 fun x => { x with state := n, bound := some record }

/-- A frozen slot, a halted one, one that runs, and one that is free. -/
theorem witness_commands : ∀ n ∈ [3, 4, 2, 0],
    let s := bound n id
    let o := { obj .launch 4 3 1 with units := [unit0 .running], placing := some onSlot0 }
    (s.slot 0 0).state = n ∧ s.slotLaunch 0 0 = some o ∧ o.cutting = false ∧
    (o.units.all fun u => s.mayRestart u) = true ∧ s.isOver o = false ∧ s.cutRefused o = false ∧
    (s.ctx (slotCtx 0 0)).wait.replay = none ∧ s.resumeWaits 0 0 = false ∧ (s.part 0 0).v = true := by decide +kernel

/-- A frozen slot that repeats a causal store while a write that its data came from is on its way. -/
theorem witness_resume_waits :
    let part : WritePart := { pa := 0x8000, data := [1], key := none, poison := false, idx := [], done := false, applied := [] }
    let w : MemWrite := hwWrite 0 (.ctx c0) false 0x4000 [part] none []
    let s := (((bound 3 id).onSlot 0 0 fun x => { x with frecimg := (Vector.replicate 4 0).set 0 0x40000000 }).onWait c0 fun y =>
      { y with replay := some (.store [1] true false), replayDeps := [(bound 3 id).fresh] }).sendWrite w
    (s.slot 0 0).state = 3 ∧ s.resumeWaits 0 0 = true := by decide +kernel

/-- A launch with a region whose operator is not idempotent. -/
theorem witness_cut_refused :
    (managed.cutRefused { obj .launch 4 3 1 with units := [{ unit0 .running with kind := .region, slot := 512 }] }) = true := by
  decide +kernel

/-- A marker at the head of a unit's input. -/
theorem witness_marker :
    let u : UnitRef := { launch := 2 ^ 32 + 4, home := 0, unit := 0, world := 1, ports := [(0, (4, false))], outs := [], rings := [],
                         page := 0, pending := 0, fmts := [] }
    let s := ((bound 5 fun o => { o with cutting := true }).onCtx c0 fun x => { x with unit := some u }).onInOf (.core 0 0 4) fun p =>
      { p with marker := true }
    ((s.unitAt 0 0).map fun x => (x.1.cutting, (s.unitIns x.2).find? fun q => q.1 == 0)) = some (true, some (0, .core 0 0 4)) ∧
    (s.inOf (.core 0 0 4)).marker = true ∧ (s.inOf (.core 0 0 4)).buf = [] ∧ (s.inOf (.core 0 0 4)).closed = false := by decide +kernel

/-- A launch whose one unit, a sink, has been cut and is to be saved. -/
theorem witness_cut_save :
    let v : LaunchUnit := { unit0 .running with kind := .capsink }
    let s := ((office [v] (some onSlot0)).onWork fun w => { w with objs := w.objs.map fun o => { o with cutting := true } }).onSlot 0 0 fun x =>
      { x with state := 5, bound := some record, saveva := 0x40000,
               sink := some { launch := 4, world := 1, base := 0x20000, slots := 1, count := 0, pending := 0, hdrs := [], failed := false } }
    ((s.obj 1 .launch 4).map fun o => s.cutReady o && s.launchQuiet 1 4 &&
      answers ((o.units.filter fun v => v.stage == .running).foldlM (fun (t : State) v => t.writeSave o v) s)) = some true := by
  decide +kernel

/-- Parts at the ends of the map that a write gives to a world and takes from one, and a part that is busy. -/
theorem witness_worlds :
    let s := { State.reset with keys := { State.reset.keys with slots := [(1, { KeySlot.reset with phase := .active, world := 1 })] } }
    (∀ n ∈ [0, 163], (9 : BitVec 8).getLsbD 3 ≠ (s.part 0 n).v ∧ (s.part 0 n).busy = false ∧ s.partUsed 0 n = false) ∧
    s.worldKeyed ((9 : BitVec 8).extractLsb' 0 3).toNat = true ∧
    ((0 : BitVec 8).getLsbD 3 ≠ (managed.part 0 128).v ∧ managed.partUsed 0 128 = false) ∧
    (∀ n ∈ [0, 127, 128, 159, 160, 163], ((s.onPart 0 n fun e => { e with busy := true }).part 0 n).busy = true) := by decide +kernel

/-! ## The sequencer -/

/-- A sequencer that is idle, with no graph and with graph 3 in configuration 0. -/
theorem witness_seq_go :
    let s := office [] none
    let t := s.onSeq 0 fun q => { q with cfg := [(0, 3)] }
    (s.mgmt 0).seq.go = false ∧ (1 : Word).getLsbD 0 = true ∧ s.idFree 1 5 = true ∧
    s.liveObj 1 .graph (Map.get (s.mgmt 0).seq.cfg 0 0) = none ∧
    t.liveObj 1 .graph (Map.get (t.mgmt 0).seq.cfg 0 0) = some (obj .graph 3 2 1) := by decide +kernel

/-- A launch that waits for the budget, at the cap and one above it; a launch that has drained, the last and not. -/
theorem witness_seq :
    let q : SeqSt := { SeqSt.reset with go := true, wait := some (launchKey 1 4), v := true, cap := 5, ptok := 5, world := 1 }
    let o := { obj .launch 4 3 0 with status := .done, posted := true }
    let s := ((office [] none).onWork fun w => { w with objs := [o] }).onSeq 0 fun _ => { q with run := some (launchKey 1 4), wait := none }
    (q.run = none ∧ q.cur = 0 ∧ q.ptok + q.dtok ≤ q.cap ∧ ({ q with dtok := 1 }).cap < q.ptok + 1 ∧ q.cap ≠ 0) ∧
    (s.keyLaunch (launchKey 1 4) = some o ∧ s.idFree 1 5 = true ∧ s.seqGraph 0 (q.after 0) = none) ∧
    ({ q with iters := 1 }).goesOn 0 = false ∧ q.goesOn 0 = true := by decide +kernel

/-- An invalidation that may begin, and one that is done. -/
theorem witness_tlbinv :
    (State.reset.mgmt 0).tlbBusy = false ∧
    (let s := State.reset.onMgmt 0 fun m => { m with tlbBusy := true }
     (s.mgmt 0).tlbBusy = true ∧ s.tlbInFlight 0 (s.mgmt 0).tlbinv = false) := by decide +kernel

/-! ## The security core -/

/-- A request in the mailbox, and a key in slot 8 of a kind and phase. -/
def mailed (bs : List Byte) (k : KeyKind) (p : KeyPhase) : State :=
  { State.reset with
    dev := { State.reset.dev with bar0 := putBytes [] mailAt bs, bootst := 7 },
    sec := { State.reset.sec with busy := true },
    keys := { State.reset.keys with slots := [(8, { KeySlot.reset with kind := k, phase := p, base := 0x8000, count := 1, tagpa := 0x10000 })] } }

/-- KEYLOAD with a length that is wrong, and one in order for slots 0 and 63. -/
theorem witness_keyload :
    (let s := mailed [2, 0, 0, 0, 1, 0, 0, 0, 1] .xts .empty
     s.keyAsked 1 = true ∧ s.loadStatus s.keyLoad ≠ 0) ∧
    (∀ n ∈ [0, 63], let s := mailed [2, 0, 0, 0, 0xA1, 1, 0, 0, 1, n] .xts .empty
      s.keyAsked 1 = true ∧ s.loadStatus s.keyLoad = 0) := by decide +kernel

/-- REVOKE of an active slot in both modes, of slot 64, and of one that is being revoked. -/
theorem witness_revoke :
    (∀ m ∈ [(0 : Byte), 1], let s := mailed [2, 0, 0, 0, 3, 0, 0, 0, 2, 8, m] .xts .active
      s.keyAsked 2 = true ∧ s.mailHdrOk = true ∧ s.mailLen = 3 ∧ s.bodyNat 1 1 ≤ 63 ∧ s.bodyNat 2 1 ≤ 1 ∧
      (s.keys.slot (s.bodyNat 1 1)).phase ≠ .revoking) ∧
    (let s := mailed [2, 0, 0, 0, 3, 0, 0, 0, 2, 64, 0] .xts .active
     s.keyAsked 2 = true ∧ 63 < s.bodyNat 1 1) ∧
    (let s := mailed [2, 0, 0, 0, 3, 0, 0, 0, 2, 8, 0] .xts .revoking
     s.keyAsked 2 = true ∧ (s.keys.slot (s.bodyNat 1 1)).phase = .revoking) := by decide +kernel

/-- SEAL of the blob of a GCM slot, and of an XTS slot, which cannot be; KEYSTAT of slots in and out of a revocation. -/
theorem witness_seal :
    let bs (op : Byte) (len : Byte) : List Byte := [2, 0, 0, 0, len, 0, 0, 0, op, 8, 0, 0, 0, 0, 0x80, 0, 0, 0, 0, 0, 0, 1]
    (let s := mailed (bs 3 17) .gcm .active
     s.keyAsked 3 = true ∧ s.sealStatus (s.bodyNat 1 1) (s.bodyNat 5 8) (s.bodyNat 13 4) = 0) ∧
    (let s := mailed (bs 3 17) .xts .active
     s.keyAsked 3 = true ∧ s.sealStatus (s.bodyNat 1 1) (s.bodyNat 5 8) (s.bodyNat 13 4) ≠ 0) ∧
    (∀ p ∈ [KeyPhase.active, .revoking], let s := mailed (bs 4 2) .xts p
      s.keyAsked 4 = true ∧ s.mailHdrOk = true ∧ s.mailLen = 2 ∧ s.bodyNat 1 1 ≤ 63 ∧ (s.keys.slot (s.bodyNat 1 1)).phase = p) := by
  decide +kernel

/-- A GCM slot that is being revoked with a frame sealed under it. -/
theorem witness_sweep :
    let s := (mailed [] .gcm .revoking).onMem fun m => { m with sealed := [(8, 8)] }
    (s.keys.slots.find? fun (p : Nat × KeySlot) => p.2.phase == .revoking) =
      some (8, { KeySlot.reset with kind := .gcm, phase := .revoking, base := 0x8000, count := 1, tagpa := 0x10000 }) ∧
    s.mmaReads 8 0 = false ∧ s.slotFrame 8 8 = true := by decide +kernel

/-- A group of two members, one of one member, and a group whose member comes back changed. -/
theorem witness_group :
    (let s := mailed [2, 0, 0, 0, 72, 0, 0, 0, 5, 0, 0, 0, 0, 2] .xts .empty
     s.keyAsked 5 = true ∧ s.mailGroup.isSome = true) ∧
    (let s := mailed [2, 0, 0, 0, 39, 0, 0, 0, 5, 0, 0, 0, 0, 1] .xts .empty
     s.keyAsked 5 = true ∧ s.mailGroup = none) ∧
    (let g : GroupSt := { id := 1, members := [(3, 5)], ranges := [(0x8000, 4096)] }
     (g.members.any fun m => m.1 == 3 && !(true && m.2 == 6)) = true ∧ State.reset.inHbm 0x8000 4096 = true) := by decide +kernel

/-- The requests of SPDM in their order, one out of order, one that comes too early and one that names nothing. -/
theorem witness_spdm :
    let at' (n : Nat) (bs : List Byte) : State := { mailed bs .xts .empty with sec := { (mailed bs .xts .empty).sec with spdm := n } }
    let ask (len : Nat) (bs : List Byte) : List Byte := [1, 0, 0, 0] ++ leBytes len 4 ++ bs
    let alg : List Byte := [0x12, 0xE3, 0, 0, 32, 0, 1, 0, 8, 0, 0, 0, 1, 0, 0, 0]
    (∀ x ∈ [(0, 4, [0x10, 0x84, 0, 0]), (0, 4, [0x12, 0x84, 0, 0]), (1, 20, [0x12, 0xE1]), (3, 4, [0x12, 0x81]), (3, 8, [0x12, 0x82]),
        (3, 36, [0x12, 0x83]), (3, 4, [0x12, 0xE0, 0, 1]), (3, 4, [0x12, 0xE0, 0, 16]), (0, 4, [0x12, 0xE0]), (0, 4, [0x12, 0x83])],
      let s := at' x.1 (ask x.2.1 x.2.2)
      s.spdmAsked = true ∧ s.dev.early = false ∧ s.spdmVersion = true ∧ s.mailHdrOk = true ∧ s.sec.spdm = x.1 ∧ s.mailLen = x.2.1 ∧
      s.spdmCode = (x.2.2.getD 1 0).toNat ∧ s.spdmByte 2 = 0) ∧
    ((at' 2 (ask 32 alg)).algOk = true ∧ (at' 2 (ask 32 alg)).spdmCode = 0xE3) ∧
    (let s := { at' 0 (ask 4 [0x10, 0x84]) with dev := { (at' 0 (ask 4 [0x10, 0x84])).dev with bootst := 2 } }
     s.spdmAsked = true ∧ s.dev.early = true ∧ s.spdmCode = 0x84) ∧
    ((at' 0 (ask 4 [0x12, 0xFF])).spdmCode ∉ spdmCodes) := by decide +kernel

/-! ## Sieves -/

/-- A running Sieve with a token at an input and its output bound. -/
def sieving (x : SieveSt) (p : Nat) (t : Token) : State :=
  let s := State.reset.onSieve 0 0 fun _ => { x with run := true }
  (s.onInOf (.sieve 0 0 p) fun q => { q with bound := true, buf := [t] }).onOutOf (.sieve 0 0 0) fun q => { q with bound := true }

/-- Control tokens of each OP, and one that names nothing. -/
theorem witness_sieve_control : ∀ op ∈ [0, 1, 2, 3, 4, 5],
    let t : Token := ⟨.data, BitVec.ofNat 512 op, none⟩
    let s := sieving SieveSt.reset 2 t
    s.sieveTakes 0 0 = true ∧ s.sieveHead 0 0 2 = some t ∧ ctlField t.val 0 1 = op ∧ plainOk t.val = true := by
  decide +kernel

/-- A CLEAR that is at its end; a mask token that is needed; logits with and without a mask; the end of a segment; a
candidate to insert; and the EOS of the last input. -/
theorem witness_sieve :
    let p (flags : Nat) : Position :=
      { ctl := BitVec.ofNat 512 (1 + flags * 2 ^ 8 + 16 * 2 ^ 64 + 2 ^ 96), bad := false, seg := 0, masks := [], fin := false }
    let open' (p : Position) : SieveSt := { SieveSt.reset with pos := some p }
    let logits : Token := ⟨.data, 0, none⟩
    (((sieving { SieveSt.reset with clearing := some 0 } 0 logits).onDie 0 fun d => { d with cyc := 8192 }).sieve 0 0).clearing = some 0 ∧
    (let s := sieving (open' (p 1)) 1 logits
     (s.sieve 0 0).reads = true ∧ s.sieveHead 0 0 1 = some logits ∧ (p 1).masks.length < (p 1).maskNeed) ∧
    (∀ q ∈ [p 0, { p 1 with masks := [0] }], let s := sieving (open' q) 0 logits
      (s.sieve 0 0).reads = true ∧ s.sieveHead 0 0 0 = some logits ∧ (ctlFlag q.ctl 0 = true → 16 * q.seg / 512 < q.masks.length) ∧
      ((List.range 16).filterMap fun j => candidate q (s.region 0 0).tiles [] (16 * q.seg + j) 0).length ≤ 64) ∧
    (let s := sieving (open' (p 0)) 0 ⟨.steer, 0, none⟩
     (s.sieve 0 0).reads = true ∧ s.sieveHead 0 0 0 = some ⟨.steer, 0, none⟩ ∧ (s.sieve 0 0).queue = [] ∧ (p 0).maskNeed ≤ 0 ∧
     (s.sieve 0 0).pend = [] ∧ (s.outOf (.sieve 0 0 0)).bound = true) ∧
    (let s := sieving { open' (p 0) with queue := [(0, 0)] } 0 logits
     (s.sieve 0 0).pos = some (p 0) ∧ (s.sieve 0 0).queue = [(0, 0)]) ∧
    (let s := sieving SieveSt.reset 0 ⟨.eos, 0, none⟩
     let u := (s.sieveDrain 0 0 1 64).sieveDrain 0 0 2 64
     s.sieveHead 0 0 0 = some ⟨.eos, 0, none⟩ ∧ u.sieveDry 0 0 1 = true ∧ u.sieveDry 0 0 2 = true ∧
     (s.outOf (.sieve 0 0 0)).buf.length < 4) := by decide +kernel

/-! ## Power and the host -/

/-- A package in a STAGE of bring-up. -/
def starting (n : Nat) : State :=
  { State.reset with
    agenda := [.bootStep],
    dev := { State.reset.dev with bootst := BitVec.ofNat 32 n, boot := some { cold := true, cause := 0, dies := [], channels := [] } } }

/-- A cold bring-up and one after a package reset, in each of its stages; a die that passes its self-check last, and one that does not. -/
theorem witness_bring_up :
    hbmOk [] = 255 ∧ hbmOk ((List.range 32).map fun c => 8 * c) ≠ 255 ∧ State.reset.dev.stage = 0 ∧
    (∀ n ∈ [1, 2, 3, 4, 5, 6], let s := starting n
      s.dev.boot = some { cold := true, cause := 0, dies := [], channels := [] } ∧ s.dev.stage = n ∧ s.dev.held = decide (n ≤ 5)) ∧
    (Move.issue k0).offDie = false ∧ dieBits (fun d => (dieReport { cold := true, cause := 0, dies := [], channels := [] } d).status != 0) = 0 ∧
    (let s := { State.reset with dev := { State.reset.dev with bootst := 6 } }
     (∀ e, e < 4 → e ≠ 0 → (s.mgmt e).check = false) ∧ s.dev.stage = 6) ∧
    (let s := (List.range 4).foldl (fun (s : State) d => s.onMgmt d fun m => { m with check := true }) State.reset
     ∀ e, e < 4 → e ≠ 0 → (s.mgmt e).check = true) := by decide +kernel

/-- Bytes of the window of the physical function, and of a virtual function; a sealed one. -/
theorem witness_bar2 :
    let s := State.reset
    let w := { managed with keys := { managed.keys with slots := [(1, { KeySlot.reset with phase := .active, world := 1 })] } }
    let z := s.onMem fun m => { m with sealed := [(8, 8)] }
    s.barByte 0 0 false = .cell 0 none none ∧ s.byteWaits (s.barByte 0 0 false) = false ∧
    s.barByte 0 (2 ^ 39 - 1) true = .cell (2 ^ 39 - 1) none none ∧ s.mem.serves 0 = true ∧ eccBlocks s.mem.ecc [sectorOf 0] = false ∧
    s.write s.fresh = none ∧ Map.find s.mem.sealed 0 = none ∧ z.barByte 0 0x8000 false = .sealed 0x8000 ∧
    (match w.barByte 2 0x8000 true with | .cell a _ _ => a == 0x8000 | _ => false) = true := by decide +kernel

/-- A queue of world 0 that is disabled, and one that is enabled. -/
theorem witness_registers :
    let s := { State.reset with keys := { State.reset.keys with slots := [(0, { KeySlot.reset with phase := .active })] } }
    s.worldExists 0 = true ∧ s.vfQueue 0 0 = some 0 ∧ (s.queue 0).en = false ∧ (s.queue 63).en = false ∧
    ((office [] none).queue 0).en = true ∧ (0x100 : Word).getLsbD 8 = true ∧ (0 : Word).getLsbD 63 = false := by decide +kernel

/-! ## The whole machine -/

/-- A well-formed instruction that has a word. -/
theorem witness_encoding : (Instr.nop always).wf = true ∧ (encode (.nop always)).isSome = true := by decide +kernel

/-- A word in the instruction cache that the context is to execute; an event in the agenda; a memory in canonical form. -/
theorem witness_step :
    let s := run.onCore k0 fun x => { x with holder := some 0, icache := [(0, 0x3C00000000000000)] }
    (s.core k0).holder = some s.cur.ctx ∧ s.running s.cur = true ∧ (s.ctx s.cur).wait.fetch = none ∧ (s.ctx s.cur).wait.park = none ∧
    (s.ctx s.cur).wait.hold = none ∧ s.loopForced s.cur = false ∧ s.dev.held = false ∧ (s.elapse s.cur.die 1).issueCount s.cur < 5120 ∧
    s.issueCount s.cur < 5120 ∧ s.cur.ctx < 4 ∧
    s.mustTrap s.cur = false ∧ s.drained s.cur = true ∧ s.cached s.cur (wordAddr (s.pc s.cur)) = some 0x3C00000000000000 ∧
    addrOk 0x3C00000000000000 (s.pc s.cur) = true ∧
    got (decode 0x3C00000000000000 (wordPos (s.pc s.cur))) = some (.nop always) ∧ s.agenda = [] ∧
    Instr.isEvent .securityContactLost = true ∧ memWf managed.mem.bytes = true ∧ memWf s.mem.bytes = true ∧
    (match step s with | .next t => t.pc t.cur == 8 | .fault _ | .refused _ => false) = true := by decide +kernel

end Sys2Proof.Tests
end

/-! PROOFS. The two-source scalar instructions (R294 to R409). -/

namespace Sys2Proof.Machine

/-! ## Values of the two-source operations, at every width -/

/-- A 64-bit result is the operation itself (R294). -/
theorem aluVal_word (f : (n : Nat) → BitVec n → BitVec n → BitVec n) (a b : Word) : aluVal false f a b = f 64 a b := rfl

/-- A 32-bit result works on bits [31:0] of its sources (R294). -/
theorem aluVal_half (f : (n : Nat) → BitVec n → BitVec n → BitVec n) (a b : Word) :
    aluVal true f a b = (f 32 (a.extractLsb' 0 32) (b.extractLsb' 0 32)).signExtend 64 := by
  simp only [aluVal, if_true, BitVec.setWidth_eq_extractLsb' (show 32 ≤ 64 by decide)]

/-- An amount modulo 32 is decided by bits [31:0] (R374). -/
theorem toNat_extractLsb'_mod_32 (b : Word) : (b.extractLsb' 0 32).toNat % 32 = b.toNat % 32 := by
  simp only [BitVec.extractLsb'_toNat, Nat.shiftRight_zero]
  exact Nat.mod_mod_of_dvd _ (by decide)

/-- A choice by a signed comparison, with the comparison the other way round (R352). -/
theorem ite_slt {α : Type} {n : Nat} (a b : BitVec n) (x y : α) :
    (if a.slt b then x else y) = if b.toInt ≤ a.toInt then y else x := by
  simp only [BitVec.slt_eq_decide, decide_eq_true_eq, ← not_lt, ite_not]

/-- A choice by an unsigned comparison, with the comparison the other way round (R352). -/
theorem ite_ult {α : Type} {n : Nat} (a b : BitVec n) (x y : α) :
    (if a.ult b then x else y) = if b.toNat ≤ a.toNat then y else x := by
  simp only [BitVec.ult_eq_decide, decide_eq_true_eq, ← not_lt, ite_not]

/-- Dropping low digits commutes with dropping high ones. -/
theorem emod_mul_ediv (z : Int) {b c : Int} (hb : 0 < b) : z % (b * c) / b = z / b % c := by
  rw [Int.emod_def, Int.mul_assoc, Int.sub_mul_ediv_left _ _ hb.ne', ← Int.ediv_ediv_of_nonneg hb.le, ← Int.emod_def]

/-- The high half of a number of double width. -/
theorem extractLsb'_ofInt_double {n m : Nat} (hm : m = n + n) (z : Int) :
    (BitVec.ofInt m z).extractLsb' n n = BitVec.ofInt n (z / 2 ^ n) := by
  have hn : (0 : Int) < 2 ^ n := by positivity
  apply BitVec.eq_of_toNat_eq
  zify
  have h1 : (0 : Int) ≤ z % (2 ^ n * 2 ^ n) := Int.emod_nonneg _ (by positivity)
  have h2 : (0 : Int) ≤ z / 2 ^ n % 2 ^ n := Int.emod_nonneg _ (by positivity)
  simp [BitVec.extractLsb'_toNat, BitVec.toNat_ofInt, Nat.shiftRight_eq_div_pow, hm, pow_add, h1, h2, emod_mul_ediv z hn]

/-- The quotient that MULH takes is the high half of the product of double width (R361). -/
theorem mulh_eq_extractLsb' {n m : Nat} (hm : m = n + n) (a b : BitVec n) :
    BitVec.ofInt n (a.toInt * b.toInt / 2 ^ n) = (a.signExtend m * b.signExtend m).extractLsb' n n := by
  simp only [BitVec.signExtend, ← BitVec.ofInt_mul, extractLsb'_ofInt_double hm]

/-- The quotient that MULHU takes is the high half of the product of double width (R361). -/
theorem mulhu_eq_extractLsb' {n m : Nat} (hm : m = n + n) (a b : BitVec n) :
    BitVec.ofNat n (a.toNat * b.toNat / 2 ^ n) = (a.zeroExtend m * b.zeroExtend m).extractLsb' n n := by
  have ha : a.toNat < 2 ^ m := a.isLt.trans_le (Nat.pow_le_pow_right (by decide) (by omega))
  have hb : b.toNat < 2 ^ m := b.isLt.trans_le (Nat.pow_le_pow_right (by decide) (by omega))
  apply BitVec.eq_of_toNat_eq
  simp only [BitVec.extractLsb'_toNat, BitVec.toNat_mul, BitVec.truncate_eq_setWidth, BitVec.toNat_setWidth,
    BitVec.toNat_ofNat, Nat.shiftRight_eq_div_pow, Nat.mod_eq_of_lt ha, Nat.mod_eq_of_lt hb]
  rw [hm, pow_add, Nat.mod_mul_right_div_self, Nat.mod_mod]

/-! ## The two-source instructions -/

/-- A two-source instruction ends with the value of its operation (R294). -/
theorem ends_of_aluRun {i : Instr} {f : (n : Nat) → BitVec n → BitVec n → BitVec n} {x : AluArgs} {s : State}
    {a b v : Word}
    (hg : s.guardTrue s.cur x.guard = true) (ha : s.readSrc s.cur x.a = .ok a) (hb : s.readSrc2 s.cur x.b = .ok b)
    (hd : s.useDestG s.cur x.w x.d = .ok ()) (hi : exec i s = aluRun f x s) (hv : aluVal x.w32 f a b = v) :
    Ends i s fun t => GivesG s.cur s t x.w x.d v := by
  unfold Ends
  rw [hi, ← hv]
  exact aluRun_gives f x s a b hg ha hb hd

/-- Settles O1: each instruction is a run of one operation on both forms, whose value is the one the statement gives; only
the shift amounts, the choices of MIN and MAX, and the high products need an argument. -/
theorem scalarArithmetic : Obligations.ScalarArithmetic := by
  refine ⟨fun s x a b h64 hg ha hb hd => ?_, fun s x a b h32 hg ha hb hd => ?_, fun _ _ => rfl, by decide⟩
  · intro gives n
    have of_run {i f v} (hi : exec i s = aluRun f x s) (hv : f 64 a b = v) : gives i v :=
      ends_of_aluRun hg ha hb hd hi (by rw [h64, aluVal_word, hv])
    exact ⟨of_run rfl rfl, of_run rfl rfl, of_run rfl rfl, of_run rfl rfl, of_run rfl rfl, of_run rfl rfl,
      of_run rfl rfl, of_run rfl rfl, of_run rfl rfl,
      of_run rfl (ite_slt b a b a), of_run rfl (ite_slt a b b a),
      of_run rfl (ite_ult b a b a), of_run rfl (ite_ult a b b a),
      of_run rfl rfl, of_run rfl (mulh_eq_extractLsb' rfl a b), of_run rfl (mulhu_eq_extractLsb' rfl a b)⟩
  · intro gives lo hi n
    have of_run {i f v} (hr : exec i s = aluRun f x s) (hv : f 32 lo hi = v) : gives i v :=
      ends_of_aluRun hg ha hb hd hr (by rw [h32, aluVal_half, hv])
    have hn : hi.toNat % 32 = n := toNat_extractLsb'_mod_32 b
    exact ⟨of_run rfl rfl, of_run rfl rfl, of_run rfl rfl, of_run rfl rfl, of_run rfl rfl, of_run rfl rfl,
      of_run rfl (congrArg (lo <<< ·) hn), of_run rfl (congrArg (lo >>> ·) hn), of_run rfl (congrArg lo.sshiftRight hn),
      of_run rfl (ite_slt hi lo hi lo), of_run rfl (ite_slt lo hi hi lo),
      of_run rfl (ite_ult hi lo hi lo), of_run rfl (ite_ult lo hi hi lo),
      of_run rfl rfl, of_run rfl (mulh_eq_extractLsb' rfl lo hi), of_run rfl (mulhu_eq_extractLsb' rfl lo hi)⟩

end Sys2Proof.Machine

/-! PROOFS. The counts and the bit fields (R313, R324, R332, R367). -/

namespace Sys2Proof.Machine

/-! ## Counts (R313, R324, R367) -/

theorem leadZeros_le (x n : Nat) : leadZeros x n ≤ n := by
  induction n with
  | zero => exact Nat.le_refl 0
  | succ n ih => unfold leadZeros; split <;> omega

/-- The bits from the top that `leadZeros` counts are zero. -/
theorem testBit_of_leadZeros {x n j : Nat} (hj : n - leadZeros x n ≤ j) (hn : j < n) : x.testBit j = false := by
  induction n with
  | zero => omega
  | succ n ih =>
    unfold leadZeros at hj
    split at hj
    case isTrue => omega
    case isFalse hx =>
      by_cases hjn : j = n
      · rw [hjn]; simpa using hx
      · exact ih (by omega) (by omega)

/-- The bit below those that `leadZeros` counts is 1. -/
theorem testBit_leadZeros {x n : Nat} (h : leadZeros x n < n) : x.testBit (n - leadZeros x n - 1) = true := by
  induction n with
  | zero => omega
  | succ n ih =>
    unfold leadZeros at h ⊢
    split
    case isTrue hx => exact hx
    case isFalse hx =>
      rw [if_neg hx] at h
      rw [Nat.add_sub_add_right]
      exact ih (by omega)

theorem trailZeros_le (x i n : Nat) : trailZeros x i n ≤ n := by
  induction n generalizing i with
  | zero => exact Nat.le_refl 0
  | succ n ih =>
    unfold trailZeros
    have := ih (i + 1)
    split <;> omega

/-- The bits from bit `i` that `trailZeros` counts are zero. -/
theorem testBit_of_trailZeros {x i n j : Nat} (hi : i ≤ j) (hj : j < i + trailZeros x i n) : x.testBit j = false := by
  induction n generalizing i with
  | zero => simp only [trailZeros] at hj; omega
  | succ n ih =>
    unfold trailZeros at hj
    split at hj
    case isTrue => omega
    case isFalse hx =>
      by_cases hji : j = i
      · rw [hji]; simpa using hx
      · exact ih (i := i + 1) (by omega) (by omega)

/-- The bit above those that `trailZeros` counts is 1. -/
theorem testBit_trailZeros {x i n : Nat} (h : trailZeros x i n < n) : x.testBit (i + trailZeros x i n) = true := by
  induction n generalizing i with
  | zero => omega
  | succ n ih =>
    unfold trailZeros at h ⊢
    split
    case isTrue hx => exact hx
    case isFalse hx =>
      rw [if_neg hx] at h
      rw [show i + (trailZeros x (i + 1) n + 1) = i + 1 + trailZeros x (i + 1) n by omega]
      exact ih (by omega)

theorem popCount_eq_length (x n : Nat) : popCount x n = ((List.range n).filter fun j => x.testBit j).length := by
  induction n with
  | zero => rfl
  | succ n ih =>
    rw [popCount, ih, List.range_succ, List.filter_append, List.length_append, Nat.add_comm]
    cases h : x.testBit n <;> simp [h]

theorem popCount_le (x n : Nat) : popCount x n ≤ n := by
  rw [popCount_eq_length]
  exact (List.length_filter_le _ _).trans_eq List.length_range

/-- A count among `n` bits, in either form, is the number itself: no count of 32 bits reaches bit 31. -/
theorem aluVal_count (w32 : Bool) (count : Nat → Nat → Nat) (hle : ∀ x n, count x n ≤ n) (a : Word) :
    let n := if w32 then 32 else 64
    aluVal w32 (fun n a _ => BitVec.ofNat n (count a.toNat n)) a 0 = BitVec.ofNat 64 (count (a.toNat % 2 ^ n) n) := by
  cases w32
  case false => simp [aluVal, Nat.mod_eq_of_lt a.isLt]
  case true =>
    have h := hle (a.toNat % 2 ^ 32) 32
    generalize hm : count (a.toNat % 2 ^ 32) 32 = m at h
    have hmsb : (BitVec.ofNat 32 m).msb = false := by
      rw [BitVec.msb_eq_false_iff_two_mul_lt, BitVec.toNat_ofNat]; omega
    simp only [aluVal, if_true, BitVec.toNat_setWidth, hm, BitVec.signExtend_eq_setWidth_of_msb_false hmsb]
    apply BitVec.eq_of_toNat_eq
    simp only [BitVec.toNat_setWidth, BitVec.toNat_ofNat]
    omega

/-- A counting instruction ends with its count among the low bits of the form's width (R294). -/
theorem ends_of_count {i : Instr} {count : Nat → Nat → Nat} {x : UnArgs} {s : State} {a : Word} {n : Nat}
    (hn : n = if x.w32 then 32 else 64) (hle : ∀ y k, count y k ≤ k)
    (hg : s.guardTrue s.cur x.guard = true) (ha : s.readSrc s.cur x.a = .ok a) (hd : s.useDestG s.cur x.w x.d = .ok ())
    (hi : exec i s = unRun (fun k a => BitVec.ofNat k (count a.toNat k)) x s) :
    Ends i s fun t => GivesG s.cur s t x.w x.d (BitVec.ofNat 64 (count (a.toNat % 2 ^ n) n)) := by
  unfold Ends
  rw [hi, hn, ← aluVal_count x.w32 count hle a]
  exact unRun_gives _ x s a hg ha hd

/-- A low bit of a word is that bit of the number its low bits make. -/
theorem testBit_toNat_mod (a : Word) {n j : Nat} (h : j < n) : (a.toNat % 2 ^ n).testBit j = a.getLsbD j := by
  simp [Nat.testBit_mod_two_pow, h, BitVec.testBit_toNat]

/-! ## Bit fields (R332) -/

/-- A result in either form, from one word: bits [31:0] of the word are the result of the 32-bit form. -/
theorem aluVal_of_low {w32 : Bool} {f : (n : Nat) → BitVec n → BitVec n → BitVec n} {a d v : Word}
    (h64 : w32 = false → f 64 a d = v) (h32 : w32 = true → f 32 (a.setWidth 32) (d.setWidth 32) = v.setWidth 32) :
    aluVal w32 f a d = if w32 then (v.extractLsb' 0 32).signExtend 64 else v := by
  cases w32
  case false => exact h64 rfl
  case true =>
    rw [← BitVec.setWidth_eq_extractLsb' (by decide), ← h32 rfl]
    rfl

/-- A word's value extended to 64 bits and cut to 32 is the value extended to 32 bits. -/
theorem setWidth_signExtend_32 {w : Nat} (y : BitVec w) : (y.signExtend 64).setWidth 32 = y.signExtend 32 := by
  apply BitVec.eq_of_getLsbD_eq
  intro j hj
  simp only [BitVec.getLsbD_setWidth, BitVec.getLsbD_signExtend, hj, hj.trans (show 32 < 64 by decide), decide_true,
    Bool.true_and]

/-- The word that INS makes (R332): the field of `w` bits from bit `pos` of `d` replaced by the low bits of `a`. -/
def insertField (n : Nat) (a d : BitVec n) (pos w : Nat) : BitVec n :=
  let m := (BitVec.allOnes w).zeroExtend n <<< pos
  (d &&& ~~~m) ||| ((a <<< pos) &&& m)

theorem getLsbD_insertField {n pos w j : Nat} (a d : BitVec n) (hj : j < n) :
    (insertField n a d pos w).getLsbD j = if pos ≤ j ∧ j < pos + w then a.getLsbD (j - pos) else d.getLsbD j := by
  have hm : (((BitVec.allOnes w).zeroExtend n <<< pos).getLsbD j) = decide (pos ≤ j ∧ j < pos + w) := by
    simp only [BitVec.getLsbD_shiftLeft, BitVec.truncate_eq_setWidth, BitVec.getLsbD_setWidth, BitVec.getLsbD_allOnes]
    grind
  simp only [insertField, BitVec.getLsbD_or, BitVec.getLsbD_and, BitVec.getLsbD_not, BitVec.getLsbD_shiftLeft, hm, hj]
  by_cases h : pos ≤ j ∧ j < pos + w
  · simp [h, Nat.not_lt.mpr h.1]
  · simp [h]

/-- INS of the low halves is the low half of INS (R332). -/
theorem insertField_setWidth {pos w : Nat} (a d : Word) :
    insertField 32 (a.setWidth 32) (d.setWidth 32) pos w = (insertField 64 a d pos w).setWidth 32 := by
  apply BitVec.eq_of_getLsbD_eq
  intro j hj
  simp only [getLsbD_insertField, BitVec.getLsbD_setWidth, hj, hj.trans (show 32 < 64 by decide),
    (Nat.sub_le j pos).trans_lt hj, decide_true, Bool.true_and]

/-- A bit-field instruction ends with a value whose bits [31:0] its operation gives in the 32-bit form (R332). -/
theorem ends_of_fieldRun {i : Instr} {f : (n : Nat) → BitVec n → BitVec n → Nat → Nat → BitVec n} {old : Bool}
    {x : FieldArgs} {s : State} {a d v : Word}
    (hg : s.guardTrue s.cur x.guard = true) (ha : s.readSrc s.cur x.a = .ok a)
    (ho : (if old then s.readG s.cur x.d else .ok 0) = .ok d) (hd : s.useDestG s.cur x.w x.d = .ok ())
    (hi : exec i s = fieldRun f old x s)
    (h64 : x.w32 = false → f 64 a d x.pos.toNat (x.wm1.toNat + 1) = v)
    (h32 : x.w32 = true → f 32 (a.setWidth 32) (d.setWidth 32) x.pos.toNat (x.wm1.toNat + 1) = v.setWidth 32) :
    Ends i s fun t => GivesG s.cur s t x.w x.d (if x.w32 then (v.extractLsb' 0 32).signExtend 64 else v) := by
  unfold Ends
  rw [hi, ← aluVal_of_low (f := fun n a d => f n a d x.pos.toNat (x.wm1.toNat + 1)) h64 h32]
  exact fieldRun_gives f old x s a d hg ha ho hd

/-- A general register that can be read can be written. -/
theorem useDestG_of_readG {s : State} {c : CtxId} {r : GReg} {v : Word} (w : Bool) (h : s.readG c r = .ok v) :
    s.useDestG c w r = .ok () := by
  cases w
  case true => rfl
  case false =>
    show s.useReg c (destG r) = .ok ()
    unfold State.readG at h
    cases hu : s.useReg c (destG r) with
    | ok _ => rfl
    | error e => rw [hu] at h; cases h

/-! ## The counts and the bit fields together -/

/-- Settles O2: each count by what its recursion has passed over, each field by its bits; INS makes the word whose bits
are those of the field inside it and of the old destination outside. -/
theorem bitCountsAndFields : Obligations.BitCountsAndFields := by
  refine ⟨fun s x a hg ha hd => ?_, by decide, fun s x a d => ?_⟩
  · intro n gives
    have hn : n = if x.w32 then 32 else 64 := rfl
    clear_value n
    have hlow {j} (hj : j < n) : (a.toNat % 2 ^ n).testBit j = a.getLsbD j := testBit_toNat_mod a hj
    refine ⟨⟨_, leadZeros_le _ n, ⟨fun j hm hj => ?_, fun hm => ?_⟩, ends_of_count hn leadZeros_le hg ha hd rfl⟩,
      ⟨_, trailZeros_le _ 0 n, ⟨fun j hj => ?_, fun hm => ?_⟩, ends_of_count hn (trailZeros_le · 0) hg ha hd rfl⟩,
      ⟨_, popCount_le _ n, ?_, ends_of_count hn popCount_le hg ha hd rfl⟩⟩
    · exact (hlow hj).symm.trans (testBit_of_leadZeros hm hj)
    · exact (hlow (by omega)).symm.trans (testBit_leadZeros hm)
    · have hle := trailZeros_le (a.toNat % 2 ^ n) 0 n
      exact (hlow (by omega)).symm.trans (testBit_of_trailZeros (Nat.zero_le j) (by rwa [Nat.zero_add]))
    · have h := testBit_trailZeros hm
      rw [Nat.zero_add] at h
      exact (hlow hm).symm.trans h
    · rw [popCount_eq_length]
      exact congrArg List.length (List.filter_congr fun j hj => hlow (List.mem_range.mp hj))
  · intro n pos w hw hg ha hr form gives
    have hd := useDestG_of_readG x.w hr
    have hfield (h : x.w32 = true) : (a.setWidth 32).extractLsb' pos w = a.extractLsb' pos w :=
      BitVec.extractLsb'_setWidth_of_le (by simpa [n, h] using hw)
    refine ⟨?_, ?_, insertField 64 a d pos w, ?_, fun j hj => getLsbD_insertField a d ?_⟩
    · refine ends_of_fieldRun (f := fun k a _ p v => (a.extractLsb' p v).signExtend k) (old := false) (d := 0)
        hg ha rfl hd rfl (fun _ => rfl) fun h => ?_
      exact (congrArg (BitVec.signExtend 32) (hfield h)).trans (setWidth_signExtend_32 _).symm
    · refine ends_of_fieldRun (f := fun k a _ p v => (a.extractLsb' p v).zeroExtend k) (old := false) (d := 0)
        hg ha rfl hd rfl (fun _ => rfl) fun h => ?_
      exact (congrArg (BitVec.zeroExtend 32) (hfield h)).trans (BitVec.setWidth_setWidth_of_le _ (by decide)).symm
    · exact ends_of_fieldRun (f := insertField) (old := true) hg ha hr hd rfl (fun _ => rfl) fun _ =>
        insertField_setWidth a d
    · exact hj.trans_le (by dsimp only [n]; split <;> decide)

end Sys2Proof.Machine
